-- ==== Sys2Proof/Word.lean ====
section
/-!
DEFINITION. The word types of the DN40 and their plainest arithmetic (spec 01, 02): a scalar register holds
64 bits, an instruction word 32, a memory cell one byte.
-/

namespace Sys2Proof

/-- A scalar register's value (R19). -/
abbrev Word := BitVec 64
/-- One byte of any memory. -/
abbrev Byte := BitVec 8
/-- One instruction word (R34). -/
abbrev IWord := BitVec 32
/-- A quay address (R226). -/
abbrev QuayAddr := BitVec 32

/-- The 64-bit word of an integer, wrapped (R56: wrap happens only where it is written). -/
def wordOfInt (v : Int) : Word := BitVec.ofInt 64 v

end Sys2Proof
end

