-- ==== Sys2Proof/Fields.lean ====
section
/-!
DEFINITION. The named codes of the instruction words (spec 02, R35 and R43), the operand bundles of the layouts of R36
that several mnemonics share, and the data that an event of the part carries (spec 95 lists the events as steps).
Each is the spec's own record; nothing here has a meaning of its own.
-/

namespace Sys2Proof

/-- The six engine queues (R14, R35), in ascending ENG order. -/
inductive Eng where
  | vec | mtx | ldq | stq | prt | kvc
deriving DecidableEq, Repr

/-- ENG of a queue (R35). -/
def Eng.code : Eng → BitVec 3
  | .vec => 1 | .mtx => 2 | .ldq => 3 | .stq => 4 | .prt => 5 | .kvc => 6

/-- The queue of an ENG or TGT value 1 to 6 (R35, R40). -/
def Eng.ofCode (c : BitVec 3) : Option Eng :=
  if c = 1 then some .vec else if c = 2 then some .mtx else if c = 3 then some .ldq
  else if c = 4 then some .stq else if c = 5 then some .prt else if c = 6 then some .kvc else none

/-- Bit of a queue in the masks of DRAIN and QCANCEL and in a task's engine permission mask (R46, R332). -/
def Eng.bit : Eng → Nat
  | .vec => 0 | .mtx => 1 | .ldq => 2 | .stq => 3 | .prt => 4 | .kvc => 5

/-- Capacity of a queue (R14). -/
def Eng.capacity : Eng → Nat
  | .vec => 64 | .mtx => 32 | .ldq => 32 | .stq => 32 | .prt => 16 | .kvc => 16

def Eng.all : List Eng := [.vec, .mtx, .ldq, .stq, .prt, .kvc]

/-- The element types of R43, in code order. -/
inductive ElemType where
  | s8 | s16 | s32 | n8 | n16 | n32 | f32 | bf16
deriving DecidableEq, Repr

/-- The 3-bit code of an element type (R43). -/
def ElemType.code : ElemType → BitVec 3
  | .s8 => 0 | .s16 => 1 | .s32 => 2 | .n8 => 3 | .n16 => 4 | .n32 => 5 | .f32 => 6 | .bf16 => 7

/-- The element type of a code (R43); every code is assigned. -/
def ElemType.ofCode (c : BitVec 3) : ElemType :=
  if c = 0 then .s8 else if c = 1 then .s16 else if c = 2 then .s32 else if c = 3 then .n8
  else if c = 4 then .n16 else if c = 5 then .n32 else if c = 6 then .f32 else .bf16

/-- Width of an element in bytes (R147). -/
def ElemType.bytes : ElemType → Nat
  | .s8 => 1 | .s16 => 2 | .s32 => 4 | .n8 => 1 | .n16 => 2 | .n32 => 4 | .f32 => 4 | .bf16 => 2

/-- Width of an element in bits. -/
def ElemType.bits (t : ElemType) : Nat := 8 * t.bytes

def ElemType.isFloat : ElemType → Bool
  | .f32 => true | .bf16 => true | _ => false

def ElemType.isSigned : ElemType → Bool
  | .s8 => true | .s16 => true | .s32 => true | _ => false

/-- Why the splitter rejects a word (R53), in the order of its table; the constructor's place is its ILL subcode (R261). -/
inductive IllSub where
  | op | wide | xform | reserved | index | dest | type | code | imm
deriving DecidableEq, Repr

/-- The ILL subcode of a rejection (R261). -/
def IllSub.sub : IllSub → BitVec 8
  | .op => 1 | .wide => 2 | .xform => 3 | .reserved => 4 | .index => 5 | .dest => 6 | .type => 7 | .code => 8 | .imm => 9

/-- RRR of a VEC word with both vector sources and a rounding mode (R36, R44, R49). -/
structure VRRR where
  d : BitVec 5
  a : BitVec 5
  b : BitVec 5
  ta : Bool
  tb : Bool
  rm : BitVec 2
  ty : ElemType
deriving DecidableEq, Repr

/-- RRR of a VEC word with both vector sources and no rounding mode. -/
structure VRRT where
  d : BitVec 5
  a : BitVec 5
  b : BitVec 5
  ta : Bool
  tb : Bool
  ty : ElemType
deriving DecidableEq, Repr

/-- RRR of a VEC word with B = 0 and a rounding mode. -/
structure VRRM where
  d : BitVec 5
  a : BitVec 5
  ta : Bool
  rm : BitVec 2
  ty : ElemType
deriving DecidableEq, Repr

/-- RRR of a VEC word with B = 0 and no rounding mode. -/
structure VRR where
  d : BitVec 5
  a : BitVec 5
  ta : Bool
  ty : ElemType
deriving DecidableEq, Repr

/-- RRR of a VEC word whose B field is an immediate or names an x register (R168, R169, R177). -/
structure VRI where
  d : BitVec 5
  a : BitVec 5
  k : BitVec 5
  ta : Bool
  ty : ElemType
deriving DecidableEq, Repr

/-- The VM layout (R36, R39). -/
structure VM where
  v : BitVec 5
  d : BitVec 6
  x0 : BitVec 5
  x1 : BitVec 5
deriving DecidableEq, Repr

/-- The VG layout (R36, R182). -/
structure VG where
  v : BitVec 5
  d : BitVec 6
  vi : BitVec 5
  p : BitVec 3
deriving DecidableEq, Repr

/-- The CMD layout in full (R36). -/
structure CMD where
  d1 : BitVec 6
  d2 : BitVec 6
  n : BitVec 3
  s : BitVec 4
  q : BitVec 3
deriving DecidableEq, Repr

/-- The five register fields of an X form's second word (R40). -/
structure XRegs where
  x0 : BitVec 5
  x1 : BitVec 5
  x2 : BitVec 5
  x3 : BitVec 5
  x4 : BitVec 5
deriving DecidableEq, Repr

/-- A single CMD word executes with coordinates and scalar operand all x0 (R38). -/
def XRegs.zero : XRegs := ⟨0, 0, 0, 0, 0⟩

/-- A notice (R227); its reserved fields are zero and v is 1. -/
structure Notice where
  tag : BitVec 32
  size : BitVec 20
  cls : BitVec 4
  prio : BitVec 6
  src : QuayAddr
  moor : BitVec 8
  gen : BitVec 8
  cidx : BitVec 6
  grp : Bool
  off : BitVec 18
  cmp : BitVec 16
  ctx : BitVec 4
deriving DecidableEq, Repr

/-- A bind record (R317). -/
structure BindRecord where
  widlo : BitVec 64
  widhi : BitVec 64
  mask : BitVec 64
  timeline : BitVec 4
  ctx : BitVec 4
  valid : Bool
deriving DecidableEq, Repr

/-- A range-table entry (R155). -/
structure RangeEntry where
  vbase : BitVec 40
  vlast : BitVec 40
  pbase : BitVec 40
  perm : BitVec 8
  valid : Bool
  demand : Bool
  pg2m : Bool
deriving DecidableEq, Repr

/-- A route-table entry (R399). -/
structure RouteEntry where
  port : BitVec 4
  alt : BitVec 4
  dclass : BitVec 3
  altv : Bool
  valid : Bool
deriving DecidableEq, Repr

/-- A communicator entry of a collective engine (R405). -/
structure CommEntry where
  rank : BitVec 12
  sizem1 : BitVec 12
  vc : BitVec 3
  prio : BitVec 6
  mode : Bool
  pmap : BitVec 64
  sbase : BitVec 16
  slen : BitVec 16
  anchor : BitVec 16
  timeout : BitVec 16
  cmp : BitVec 16
  ctx : BitVec 4
deriving DecidableEq, Repr

/-- What the loader and harbourmaster are given at a launch (R69 to R78, R315): the VXO container's bytes, the kernel taken
from it, whether the context's policy asks for a signature, whether the budget goes beyond what the context is given, the
range-table entries that answer the .run requests, and the bind records with their die and index. -/
structure LaunchArgs where
  container : List Byte
  kernel : Nat
  needSig : Bool
  budgetShort : Bool
  ranges : List RangeEntry
  binds : List (Nat × Nat × BindRecord)
deriving DecidableEq, Repr

/-- One update of the flag unit as it arrives (R305, R306). -/
inductive FlagUpdate where
  | add (flag : BitVec 8) (rank : BitVec 3) (v : BitVec 32)
  | set (flag : BitVec 8) (mask : BitVec 8) (v : BitVec 32)
deriving DecidableEq, Repr

/-- The communicator that a collective's frame is for: the member core it is addressed to and the index (R404, R405). -/
structure CollEnd where
  member : QuayAddr
  idx : BitVec 6
deriving DecidableEq, Repr

/-- What an ACCEPT, ABSENT or NO-ROUTE answer is an answer to (R231, R238, R243, R244). -/
inductive Answered where
  | notice (moor : Nat) (gen : BitVec 8) (cidx : Nat)             -- a notice this quay sent, with its entry's generation
  | request (land : Nat) (lgen : BitVec 8) (seg : Nat)            -- a pull request this quay sent
  | ack (src : QuayAddr) (moor : BitVec 8) (gen : BitVec 8) (cidx : BitVec 6)   -- an acknowledgement or decline it sent
  | coll (dest : CollEnd) (moor gen : BitVec 8)                   -- a notice that the die's collective engine sent
  | collRequest (dest : CollEnd) (lgen : BitVec 8) (seg : Nat)    -- a pull request that it sent
  | collAck (dest : CollEnd) (src : QuayAddr) (moor gen : BitVec 8)   -- an acknowledgement that it sent
deriving DecidableEq, Repr

/-- The notice that a FULL answers (R231), with its mooring's generation: this quay's to a consumer, or one of the die's collective engine. -/
inductive FullFor where
  | quay (gen : BitVec 8) (cidx : Nat)
  | coll (dest : CollEnd) (gen : BitVec 8)
deriving DecidableEq, Repr

/-- Whose notice is sent again (R231): to a consumer of this quay's list, or by a collective engine. -/
structure ResendTo where
  cidx : Nat
  coll : Option CollEnd
deriving DecidableEq, Repr

/-- Which acknowledgement is sent again (R244): its place among those kept by this quay, or by a collective engine. -/
structure KeptAt where
  k : Nat
  coll : Option CollEnd
deriving DecidableEq, Repr

/-- What a notice to a collective engine says beside its record: its communicator, and the block's number in full (R412). -/
structure CollNote where
  dest : CollEnd
  q : BitVec 12
deriving DecidableEq, Repr

/-- A notice that arrives: at the core's quay, or at a collective engine (R231, R404). -/
structure NoticeIn where
  notice : Notice
  coll : Option CollNote
deriving DecidableEq, Repr

/-- A pull request as it reaches the producer's quay (R234), with its compartment (R419). -/
structure SegRequest where
  src : QuayAddr
  moor : BitVec 8
  gen : BitVec 8
  cidx : BitVec 6
  seg : Nat
  land : BitVec 6
  lgen : BitVec 8
  cmp : BitVec 16
  coll : Option CollEnd     -- none: for the core's quay
deriving DecidableEq, Repr

/-- What reaches a unit that pulls (R413, R416, R238): its turn, which sends its requests; the answer to a request; the time-out of a request
without an answer; the end of the wait after an ABSENT. A response carries its compartment (R419). -/
inductive PullAnswer where
  | start
  | data (cmp : BitVec 16) (seg : Nat) (bytes : List Byte)
  | done (cmp : BitVec 16)
  | stale (cmp : BitVec 16)
  | ecc (cmp : BitVec 16)
  | noRoute | refused
  | absent (seg : Nat)
  | retry (seg : Nat)
  | again (seg : Nat)
deriving DecidableEq, Repr

/-- A state element that the scan network reads (R391). -/
inductive ScanAt where
  | pc | c
  | x (k : BitVec 5) | b (k : BitVec 2) | v (k : BitVec 5) | p (k : BitVec 3) | l (k : BitVec 4) | n (k : BitVec 3) | d (k : BitVec 6)
  | tk (k : BitVec 4)
  | acc (tile : BitVec 4) (elem : Nat) | tile (k : BitVec 4)
  | full | lmax (k : BitVec 4) | region
  | sys (sel : BitVec 12)
  | granule (rank idx : Nat)
  | spad (rank off len : Nat)
  | queue (e : Eng)
  | moor (k : Nat) | inbox | land (k : Nat) | quay
  | tasks | balloons | readSets | taskUnit
  | wheel | binds (die : Nat) | ranges (ctx : BitVec 4) | context (ctx : BitVec 4)
  | handles | kvFrames | kv | collectives | flag (cell : Nat) | routes
  | core | posted | tlb | coll | keys | epochs
  | hbm (pa len : Nat)
deriving DecidableEq, Repr

/-- A task that commits, and whether it did so by retiring HALT (R114, R321, R349). -/
structure CommitAsk where
  task : BitVec 64
  halted : Bool
deriving DecidableEq, Repr

/-- What the scan network is asked for (R391). -/
structure ScanAsk where
  at_ : ScanAt
  write : Bool
deriving DecidableEq, Repr

/-- Where a host write to BAR0 lands (R387, R389): its function, and the offset. -/
structure Bar0At where
  vf : Option (BitVec 4)
  off : Nat
deriving DecidableEq, Repr

/-- A key epoch as harbourmaster installs it (R420). -/
structure EpochKey where
  epoch : BitVec 8
  key : BitVec 256
deriving DecidableEq, Repr

/-- What an attestation report is asked for with (R395, R419): the nonce, and the compartment that it speaks of. -/
structure ReportAsk where
  nonce : List Byte
  cmp : Option (BitVec 16)
deriving DecidableEq, Repr

/-- Why a collective fails (R409), in code order from 1. -/
inductive CollReason where
  | noRoute | reclaim | stale | size | step | abort | refused | ecc | addr
deriving DecidableEq, Repr

def CollReason.code : CollReason → BitVec 4
  | .noRoute => 1 | .reclaim => 2 | .stale => 3 | .size => 4 | .step => 5
  | .abort => 6 | .refused => 7 | .ecc => 8 | .addr => 9

end Sys2Proof
end

