-- ==== Sys2Proof/Syntax.lean ====
section
/-!
DEFINITION. The instruction set: one constructor per row of spec/opcode_table.json. The rows of an opcode point (R34 to R52)
carry the operand fields of their layout; the WIDE forms (R40, R41) carry their second word; the rows that are events of the
part (spec 95_what_each_step_holds.md) carry what arrives with the event and have no encoding.
The engine words stand first because Lean compiles no constructor that has fields beyond the 244th: the meanings, which put engine
words into queues, stay computable, and only the decoder and what calls it do not (Lean's kernel evaluates them all the same).
-/

namespace Sys2Proof

/-- One step of the part: an instruction word or pair, or an event. Each constructor's comment cites the rule that gives it its
effect. -/
inductive Instr where
  | scld (d a : BitVec 5) (imm : BitVec 12)   -- SCLD, R329
  | scst (d a : BitVec 5) (imm : BitVec 12)   -- SCST, R329
  | scamo (d a b : BitVec 5) (dbl : Bool) (op : BitVec 3)   -- SCAMO, R329
  | scfence   -- SCFENCE, R329
  | vadd (o : VRRR)   -- VADD, R166
  | vaddSat (o : VRRT)   -- VADD_SAT, R166
  | vsub (o : VRRR)   -- VSUB, R166
  | vsubSat (o : VRRT)   -- VSUB_SAT, R166
  | vmul (o : VRRR)   -- VMUL, R166
  | vmulHi (o : VRRT)   -- VMUL_HI, R166
  | vfma (o : VRRR)   -- VFMA, R166
  | vfmaNp (o : VRRR)   -- VFMA_NP, R166
  | vfmaNa (o : VRRR)   -- VFMA_NA, R166
  | vfmaNn (o : VRRR)   -- VFMA_NN, R166
  | vmin (o : VRRR)   -- VMIN, R166
  | vmax (o : VRRR)   -- VMAX, R166
  | vminNan (o : VRRR)   -- VMIN_NAN, R166
  | vmaxNan (o : VRRR)   -- VMAX_NAN, R166
  | vabs (o : VRRM)   -- VABS, R166
  | vabd (o : VRRR)   -- VABD, R166
  | vneg (o : VRRM)   -- VNEG, R166
  | vsign (o : VRRR)   -- VSIGN, R166
  | vclamp (o : VRRR)   -- VCLAMP, R166
  | vavg (o : VRRR)   -- VAVG, R166
  | vmov (o : VRRM)   -- VMOV, R166
  | vclz (o : VRR)   -- VCLZ, R166
  | vpopc (o : VRR)   -- VPOPC, R166
  | vscale (o : VRRR)   -- VSCALE, R166
  | vgete (o : VRRM)   -- VGETE, R166
  | vand (o : VRRT)   -- VAND, R168
  | vor (o : VRRT)   -- VOR, R168
  | vxor (o : VRRT)   -- VXOR, R168
  | vnot (o : VRR)   -- VNOT, R168
  | vshl (o : VRRT)   -- VSHL, R168
  | vshr (o : VRRT)   -- VSHR, R168
  | vsra (o : VRRT)   -- VSRA, R168
  | vshlI (o : VRI)   -- VSHL_I, R168
  | vshrI (o : VRI)   -- VSHR_I, R168
  | vsraI (o : VRI)   -- VSRA_I, R168
  | vaddI (o : VRI)   -- VADD_I, R169
  | vminI (o : VRI)   -- VMIN_I, R169
  | vmaxI (o : VRI)   -- VMAX_I, R169
  | vcmp (c : BitVec 3) (cc : BitVec 4) (a b : BitVec 5) (ty : ElemType)   -- VCMP, R170
  | vcmpI (c : BitVec 3) (cc : BitVec 4) (a : BitVec 5) (imm : BitVec 5) (ty : ElemType)   -- VCMP_I, R170
  | vsel (d a b : BitVec 5) (ta tb : Bool) (p : BitVec 3)   -- VSEL, R171
  | vmask (d : BitVec 5) (p : BitVec 3)   -- VMASK, R171
  | vmaskw (c : BitVec 3) (mode : BitVec 2) (a q w : BitVec 5)   -- VMASKW, R173
  | vcvtRne (d a : BitVec 5) (ta : Bool) (src dst : ElemType)   -- VCVT_RNE, R174
  | vcvtRz (d a : BitVec 5) (ta : Bool) (src dst : ElemType)   -- VCVT_RZ, R174
  | vcvtRd (d a : BitVec 5) (ta : Bool) (src dst : ElemType)   -- VCVT_RD, R174
  | vcvtRu (d a : BitVec 5) (ta : Bool) (src dst : ElemType)   -- VCVT_RU, R174
  | vcvtSr (d a : BitVec 5) (ta : Bool) (src dst : ElemType)   -- VCVT_SR, R174
  | vredSum (o : VRRM)   -- VRED_SUM, R175
  | vredMax (o : VRRM)   -- VRED_MAX, R175
  | vredMin (o : VRRM)   -- VRED_MIN, R175
  | vredAmax (o : VRRM)   -- VRED_AMAX, R175
  | vredSsq (o : VRRM)   -- VRED_SSQ, R175
  | vscanSum (o : VRRM)   -- VSCAN_SUM, R175
  | vscanMax (o : VRRM)   -- VSCAN_MAX, R175
  | vexp2 (o : VRR)   -- VEXP2, R176
  | vlog2 (o : VRR)   -- VLOG2, R176
  | vrcp (o : VRR)   -- VRCP, R176
  | vrsq (o : VRR)   -- VRSQ, R176
  | vperm (o : VRRT)   -- VPERM, R177
  | vpermRot (o : VRI)   -- VPERM_ROT, R177
  | vpermRev (o : VRR)   -- VPERM_REV, R177
  | vpermZip (o : VRRT)   -- VPERM_ZIP, R177
  | vpermUnz (o : VRRT)   -- VPERM_UNZ, R177
  | vbcast (o : VRI)   -- VBCAST, R177
  | vsplat (d a : BitVec 5) (ty : ElemType)   -- VSPLAT, R177
  | vsplatI (d : BitVec 5) (imm : BitVec 17)   -- VSPLAT_I, R178
  | vsplatL (d : BitVec 5) (imm : BitVec 32)   -- VSPLAT_L, R178
  | viota (d : BitVec 5) (ty : ElemType)   -- VIOTA, R177
  | pand (d a b : BitVec 3) (ta tb : Bool)   -- PAND, R172
  | por (d a b : BitVec 3) (ta tb : Bool)   -- POR, R172
  | pnot (d a : BitVec 3) (ta : Bool)   -- PNOT, R172
  | pxor (d a b : BitVec 3) (ta tb : Bool)   -- PXOR, R172
  | vldW (o : VM)   -- VLD_W, R181
  | vldC (o : VM)   -- VLD_C, R181
  | vldN (o : VM)   -- VLD_N, R181
  | vstW (o : VM)   -- VST_W, R181
  | vstN (o : VM)   -- VST_N, R181
  | vgthW (o : VG)   -- VGTH_W, R182
  | vgthC (o : VG)   -- VGTH_C, R182
  | vgthN (o : VG)   -- VGTH_N, R182
  | vsctW (o : VG)   -- VSCT_W, R182
  | vsctN (o : VG)   -- VSCT_N, R182
  | pld (p : BitVec 3) (dn : BitVec 6) (x0 x1 : BitVec 5)   -- PLD, R183
  | pst (p : BitVec 3) (dn : BitVec 6) (x0 x1 : BitVec 5)   -- PST, R183
  | vconfGap (c : BitVec 3) (a x : BitVec 5)   -- VCONF_GAP, R187
  | vconfDrift (c : BitVec 3) (a b x : BitVec 5)   -- VCONF_DRIFT, R189
  | vsig (t : BitVec 4)   -- VSIG, R190
  | vwaitk (t : BitVec 4)   -- VWAITK, R190
  | mzero (t : BitVec 4)   -- MZERO, R201
  | mzeroAll   -- MZERO_ALL, R201
  | manch (t : BitVec 4) (a : BitVec 5)   -- MANCH, R202
  | manchI (t : BitVec 4) (imm : BitVec 12)   -- MANCH_I, R202
  | mmaS8 (d1 d2 : BitVec 6) (n : BitVec 3) (t : BitVec 4) (zf : Bool)   -- MMA_S8, R198
  | mmaN8 (d1 d2 : BitVec 6) (n : BitVec 3) (t : BitVec 4) (zf : Bool)   -- MMA_N8, R198
  | mmaBfx8 (d1 d2 : BitVec 6) (n : BitVec 3) (t : BitVec 4) (zf : Bool)   -- MMA_BFX8, R198
  | mmaS16 (d1 d2 : BitVec 6) (n : BitVec 3) (t : BitVec 4) (zf : Bool)   -- MMA_S16, R198
  | mmaN16 (d1 d2 : BitVec 6) (n : BitVec 3) (t : BitVec 4) (zf : Bool)   -- MMA_N16, R198
  | mmaBfx16 (d1 d2 : BitVec 6) (n : BitVec 3) (t : BitVec 4) (zf : Bool)   -- MMA_BFX16, R198
  | mmaZS8 (d1 d2 : BitVec 6) (n : BitVec 3) (t : BitVec 4) (zf : Bool)   -- MMA_Z_S8, R198
  | mmaZN8 (d1 d2 : BitVec 6) (n : BitVec 3) (t : BitVec 4) (zf : Bool)   -- MMA_Z_N8, R198
  | mmaZS16 (d1 d2 : BitVec 6) (n : BitVec 3) (t : BitVec 4) (zf : Bool)   -- MMA_Z_S16, R198
  | mmaZN16 (d1 d2 : BitVec 6) (n : BitVec 3) (t : BitVec 4) (zf : Bool)   -- MMA_Z_N16, R198
  | mgoS8 (d1 d2 : BitVec 6) (n : BitVec 3) (t : BitVec 4) (zf : Bool)   -- MGO_S8, R199
  | mgoN8 (d1 d2 : BitVec 6) (n : BitVec 3) (t : BitVec 4) (zf : Bool)   -- MGO_N8, R199
  | mgoBfx8 (d1 d2 : BitVec 6) (n : BitVec 3) (t : BitVec 4) (zf : Bool)   -- MGO_BFX8, R199
  | mgoS16 (d1 d2 : BitVec 6) (n : BitVec 3) (t : BitVec 4) (zf : Bool)   -- MGO_S16, R199
  | mgoN16 (d1 d2 : BitVec 6) (n : BitVec 3) (t : BitVec 4) (zf : Bool)   -- MGO_N16, R199
  | mgoBfx16 (d1 d2 : BitVec 6) (n : BitVec 3) (t : BitVec 4) (zf : Bool)   -- MGO_BFX16, R199
  | mpackPi (d1 d2 : BitVec 6) (n : BitVec 3) (s : BitVec 4)   -- MPACK_PI, R203
  | mpackPb (d1 d2 : BitVec 6) (n : BitVec 3) (s : BitVec 4)   -- MPACK_PB, R203
  | mrdF32 (d1 : BitVec 6) (n : BitVec 3) (t : BitVec 4) (q : BitVec 3)   -- MRD_F32, R204
  | mrdBf16 (d1 : BitVec 6) (n : BitVec 3) (t : BitVec 4) (q : BitVec 3)   -- MRD_BF16, R204
  | mrdBfx8 (d1 : BitVec 6) (n : BitVec 3) (t : BitVec 4) (q : BitVec 3)   -- MRD_BFX8, R204
  | mrdS8 (d1 : BitVec 6) (n : BitVec 3) (t : BitVec 4) (q : BitVec 3)   -- MRD_S8, R204
  | mrdN8 (d1 : BitVec 6) (n : BitVec 3) (t : BitVec 4) (q : BitVec 3)   -- MRD_N8, R204
  | mrdS32 (d1 : BitVec 6) (n : BitVec 3) (t : BitVec 4) (q : BitVec 3)   -- MRD_S32, R204
  | mrdvF32 (v : BitVec 5) (g : BitVec 3) (t : BitVec 4) (q : BitVec 3)   -- MRDV_F32, R205
  | mrdvBf16 (v : BitVec 5) (g : BitVec 3) (t : BitVec 4) (q : BitVec 3)   -- MRDV_BF16, R205
  | mrdvS32 (v : BitVec 5) (g : BitVec 3) (t : BitVec 4) (q : BitVec 3)   -- MRDV_S32, R205
  | msta (d1 : BitVec 6) (n : BitVec 3) (t : BitVec 4)   -- MSTA, R207
  | mlda (d1 : BitVec 6) (n : BitVec 3) (t : BitVec 4)   -- MLDA, R207
  | mstat (d1 : BitVec 6) (t : BitVec 4)   -- MSTAT, R208
  | msig (t : BitVec 4)   -- MSIG, R209
  | mwaitk (t : BitVec 4)   -- MWAITK, R209
  | cpinW (d1 d2 : BitVec 6) (n : BitVec 3) (s : BitVec 4) (q : BitVec 3)   -- CPIN_W, R216
  | cpinN (d1 d2 : BitVec 6) (n : BitVec 3) (s : BitVec 4) (q : BitVec 3)   -- CPIN_N, R216
  | cpinWNt (d1 d2 : BitVec 6) (n : BitVec 3) (s : BitVec 4) (q : BitVec 3)   -- CPIN_W_NT, R216
  | cpinNNt (d1 d2 : BitVec 6) (n : BitVec 3) (s : BitVec 4) (q : BitVec 3)   -- CPIN_N_NT, R216
  | cpgathW (d1 d2 : BitVec 6) (n : BitVec 3) (s : BitVec 4) (q : BitVec 3)   -- CPGATH_W, R216
  | cpgathN (d1 d2 : BitVec 6) (n : BitVec 3) (s : BitVec 4) (q : BitVec 3)   -- CPGATH_N, R216
  | cpgathWNt (d1 d2 : BitVec 6) (n : BitVec 3) (s : BitVec 4) (q : BitVec 3)   -- CPGATH_W_NT, R216
  | cpgathNNt (d1 d2 : BitVec 6) (n : BitVec 3) (s : BitVec 4) (q : BitVec 3)   -- CPGATH_N_NT, R216
  | cpplaneW (d1 d2 : BitVec 6) (n : BitVec 3) (s : BitVec 4) (q : BitVec 3)   -- CPPLANE_W, R216
  | cpplaneN (d1 d2 : BitVec 6) (n : BitVec 3) (s : BitVec 4) (q : BitVec 3)   -- CPPLANE_N, R216
  | cpplaneWNt (d1 d2 : BitVec 6) (n : BitVec 3) (s : BitVec 4) (q : BitVec 3)   -- CPPLANE_W_NT, R216
  | cpplaneNNt (d1 d2 : BitVec 6) (n : BitVec 3) (s : BitVec 4) (q : BitVec 3)   -- CPPLANE_N_NT, R216
  | cpfillW (d1 : BitVec 6) (n : BitVec 3) (s : BitVec 4)   -- CPFILL_W, R216
  | cpfillN (d1 : BitVec 6) (n : BitVec 3) (s : BitVec 4)   -- CPFILL_N, R216
  | cpmovW (d1 d2 : BitVec 6) (n : BitVec 3) (s : BitVec 4)   -- CPMOV_W, R216
  | cpmovN (d1 d2 : BitVec 6) (n : BitVec 3) (s : BitVec 4)   -- CPMOV_N, R216
  | cppre (d1 : BitVec 6) (n : BitVec 3)   -- CPPRE, R216
  | lsig (t : BitVec 4)   -- LSIG, R224
  | lwaitk (t : BitVec 4)   -- LWAITK, R224
  | lbwait (slot : BitVec 4)   -- LBWAIT, R224
  | cpoutW (d1 d2 : BitVec 6) (n : BitVec 3) (s : BitVec 4)   -- CPOUT_W, R217
  | cpoutC (d1 d2 : BitVec 6) (n : BitVec 3) (s : BitVec 4)   -- CPOUT_C, R217
  | cpoutN (d1 d2 : BitVec 6) (n : BitVec 3) (s : BitVec 4)   -- CPOUT_N, R217
  | cpscatW (d1 d2 : BitVec 6) (n : BitVec 3) (s : BitVec 4)   -- CPSCAT_W, R217
  | cpscatC (d1 d2 : BitVec 6) (n : BitVec 3) (s : BitVec 4)   -- CPSCAT_C, R217
  | cpscatN (d1 d2 : BitVec 6) (n : BitVec 3) (s : BitVec 4)   -- CPSCAT_N, R217
  | cpdeplW (d1 d2 : BitVec 6) (n : BitVec 3) (s : BitVec 4)   -- CPDEPL_W, R217
  | cpdeplC (d1 d2 : BitVec 6) (n : BitVec 3) (s : BitVec 4)   -- CPDEPL_C, R217
  | cpdeplN (d1 d2 : BitVec 6) (n : BitVec 3) (s : BitVec 4)   -- CPDEPL_N, R217
  | cpwb (d1 : BitVec 6) (n : BitVec 3) (s : BitVec 4)   -- CPWB, R217
  | cpinv (d1 : BitVec 6) (n : BitVec 3) (s : BitVec 4)   -- CPINV, R217
  | ssig (t : BitVec 4)   -- SSIG, R224
  | swaitk (t : BitVec 4)   -- SWAITK, R224
  | sbwait (slot : BitVec 4)   -- SBWAIT, R224
  | note (d1 d2 : BitVec 6) (s : BitVec 4)   -- NOTE, R246
  | noteG (d1 : BitVec 6) (g : BitVec 6) (s : BitVec 4)   -- NOTE_G, R246
  | land (d1 : BitVec 6) (s : BitVec 4)   -- LAND, R247
  | unland   -- UNLAND, R247
  | unlandAll   -- UNLAND_ALL, R247
  | decl   -- DECL, R248
  | declAll   -- DECL_ALL, R248
  | nwait (d1 : BitVec 6)   -- NWAIT, R248
  | nwaitN (d1 : BitVec 6)   -- NWAIT_N, R248
  | nwaitTag (d1 : BitVec 6)   -- NWAIT_TAG, R248
  | landq (d1 : BitVec 6)   -- LANDQ, R248
  | ppol (d1 : BitVec 6)   -- PPOL, R249
  | ppace (d1 : BitVec 6)   -- PPACE, R249
  | pgrp (d1 : BitVec 6)   -- PGRP, R249
  | pclass   -- PCLASS, R249
  | rels   -- RELS, R250
  | relsTag   -- RELS_TAG, R250
  | retend   -- RETEND, R250
  | retendTag   -- RETEND_TAG, R250
  | moorq (d1 : BitVec 6)   -- MOORQ, R250
  | moorqTag (d1 : BitVec 6)   -- MOORQ_TAG, R250
  | psig (t : BitVec 4)   -- PSIG, R245
  | pwaitk (t : BitVec 4)   -- PWAITK, R245
  | pbwait (slot : BitVec 4)   -- PBWAIT, R245
  | kvnew (d1 : BitVec 6)   -- KVNEW, R370
  | kvappend (d1 d2 : BitVec 6)   -- KVAPPEND, R371
  | kvexit (d1 : BitVec 6)   -- KVEXIT, R366
  | kvfill (d1 d2 : BitVec 6)   -- KVFILL, R371
  | kvflush   -- KVFLUSH, R371
  | kvfork (d1 : BitVec 6)   -- KVFORK, R370
  | kvfree   -- KVFREE, R370
  | kvtrim (d1 : BitVec 6)   -- KVTRIM, R370
  | kvmapK (d1 : BitVec 6) (q : BitVec 3)   -- KVMAP_K, R372
  | kvmapV (d1 : BitVec 6) (q : BitVec 3)   -- KVMAP_V, R372
  | kvlen (d1 : BitVec 6)   -- KVLEN, R373
  | kvpol   -- KVPOL, R374
  | kvstat (d1 : BitVec 6)   -- KVSTAT, R373
  | kvowed (d1 : BitVec 6)   -- KVOWED, R373
  | kvwait   -- KVWAIT, R374
  | kvbft (d1 : BitVec 6)   -- KVBFT, R374
  | kvfenceDie   -- KVFENCE_DIE, R375
  | kvfencePkg   -- KVFENCE_PKG, R375
  | add (d a b : BitVec 5)   -- ADD, R80
  | sub (d a b : BitVec 5)   -- SUB, R80
  | and (d a b : BitVec 5)   -- AND, R80
  | or (d a b : BitVec 5)   -- OR, R80
  | xor (d a b : BitVec 5)   -- XOR, R80
  | sll (d a b : BitVec 5)   -- SLL, R80
  | srl (d a b : BitVec 5)   -- SRL, R80
  | sra (d a b : BitVec 5)   -- SRA, R80
  | mul (d a b : BitVec 5)   -- MUL, R80
  | mulhS (d a b : BitVec 5)   -- MULH_S, R80
  | mulhN (d a b : BitVec 5)   -- MULH_N, R80
  | divS (d a b : BitVec 5)   -- DIV_S, R80
  | divN (d a b : BitVec 5)   -- DIV_N, R80
  | remS (d a b : BitVec 5)   -- REM_S, R80
  | remN (d a b : BitVec 5)   -- REM_N, R80
  | minS (d a b : BitVec 5)   -- MIN_S, R80
  | minN (d a b : BitVec 5)   -- MIN_N, R80
  | maxS (d a b : BitVec 5)   -- MAX_S, R80
  | maxN (d a b : BitVec 5)   -- MAX_N, R80
  | clz (d a : BitVec 5)   -- CLZ, R80
  | popc (d a : BitVec 5)   -- POPC, R80
  | sel (d a b : BitVec 5) (c : BitVec 3)   -- SEL, R83
  | addi (d a : BitVec 5) (imm : BitVec 12)   -- ADDI, R81
  | andi (d a : BitVec 5) (imm : BitVec 12)   -- ANDI, R81
  | ori (d a : BitVec 5) (imm : BitVec 12)   -- ORI, R81
  | xori (d a : BitVec 5) (imm : BitVec 12)   -- XORI, R81
  | slli (d a : BitVec 5) (k : BitVec 6)   -- SLLI, R81
  | srli (d a : BitVec 5) (k : BitVec 6)   -- SRLI, R81
  | srai (d a : BitVec 5) (k : BitVec 6)   -- SRAI, R81
  | limm (d : BitVec 5) (imm : BitVec 17)   -- LIMM, R82
  | limmSh (d : BitVec 5) (imm : BitVec 17)   -- LIMM_SH, R82
  | cmp (c : BitVec 3) (cc : BitVec 4) (a b : BitVec 5)   -- CMP, R84
  | cmpi (c : BitVec 3) (cc : BitVec 4) (a : BitVec 5) (imm : BitVec 10)   -- CMPI, R84
  | btgt (b : BitVec 2) (off : BitVec 20)   -- BTGT, R86
  | btgtX (b : BitVec 2) (a : BitVec 5) (imm : BitVec 12)   -- BTGT_X, R86
  | brc (b : BitVec 2) (c : BitVec 3)   -- BRC, R89
  | brcF (b : BitVec 2) (c : BitVec 3)   -- BRC_F, R89
  | br (b : BitVec 2)   -- BR, R90
  | brl (b l : BitVec 2)   -- BRL, R90
  | ldBS (d a : BitVec 5) (imm : BitVec 12)   -- LD_B_S, R94
  | ldBN (d a : BitVec 5) (imm : BitVec 12)   -- LD_B_N, R94
  | ldHS (d a : BitVec 5) (imm : BitVec 12)   -- LD_H_S, R94
  | ldHN (d a : BitVec 5) (imm : BitVec 12)   -- LD_H_N, R94
  | ldWS (d a : BitVec 5) (imm : BitVec 12)   -- LD_W_S, R94
  | ldWN (d a : BitVec 5) (imm : BitVec 12)   -- LD_W_N, R94
  | ldD (d a : BitVec 5) (imm : BitVec 12)   -- LD_D, R94
  | stB (d a : BitVec 5) (imm : BitVec 12)   -- ST_B, R94
  | stH (d a : BitVec 5) (imm : BitVec 12)   -- ST_H, R94
  | stW (d a : BitVec 5) (imm : BitVec 12)   -- ST_W, R94
  | stD (d a : BitVec 5) (imm : BitVec 12)   -- ST_D, R94
  | vany (c : BitVec 3) (p : BitVec 3)   -- VANY, R85
  | vall (c : BitVec 3) (p : BitVec 3)   -- VALL, R85
  | widf (d : BitVec 5) (k : BitVec 3)   -- WIDF, R100
  | srr (d : BitVec 5) (sel : BitVec 12)   -- SRR, R101
  | srw (a : BitVec 5) (sel : BitVec 12)   -- SRW, R101
  | sig (t : BitVec 4)   -- SIG, R103
  | waitk (t : BitVec 4)   -- WAITK, R103
  | bwait (slot : BitVec 4)   -- BWAIT, R104
  | qmark   -- QMARK, R105
  | drain (mask : BitVec 6)   -- DRAIN, R106
  | qcancel (d : BitVec 5) (mask : BitVec 6)   -- QCANCEL, R108
  | safept   -- SAFEPT, R28
  | fence (scope : BitVec 3)   -- FENCE, R110
  | trap (imm : BitVec 12)   -- TRAP, R112
  | eret   -- ERET, R113
  | halt   -- HALT, R114
  | dld (dn : BitVec 6) (a : BitVec 5)   -- DLD, R98
  | nld (n : BitVec 3) (a : BitVec 5)   -- NLD, R98
  | lset (l : BitVec 4) (a : BitVec 5)   -- LSET, R99
  | lseti (l : BitVec 4) (imm : BitVec 17)   -- LSETI, R99
  | fladd (a : BitVec 5) (f : BitVec 8) (m : BitVec 3)   -- FLADD, R306
  | flset (d a : BitVec 5) (f : BitVec 8)   -- FLSET, R306
  | flwait (d a : BitVec 5) (f : BitVec 8)   -- FLWAIT, R306
  | waita (d a b : BitVec 5) (dbl : Bool)   -- WAITA, R308
  | amoAdd (d a b : BitVec 5) (dbl : Bool)   -- AMO_ADD, R307
  | amoMin (d a b : BitVec 5) (dbl uns : Bool)   -- AMO_MIN, R307
  | amoMax (d a b : BitVec 5) (dbl uns : Bool)   -- AMO_MAX, R307
  | amoAnd (d a b : BitVec 5) (dbl : Bool)   -- AMO_AND, R307
  | amoOr (d a b : BitVec 5) (dbl : Bool)   -- AMO_OR, R307
  | amoXchg (d a b : BitVec 5) (dbl : Bool)   -- AMO_XCHG, R307
  | amoCas (d a b : BitVec 5) (dbl : Bool)   -- AMO_CAS, R307
  | pgreq (a : BitVec 5) (imm : BitVec 12)   -- PGREQ, R327
  | tspawn (d a : BitVec 5)   -- TSPAWN, R352
  | tend   -- TEND, R348
  | tyield   -- TYIELD, R352
  | tabort (a : BitVec 5)   -- TABORT, R352
  | tbudget (d a : BitVec 5)   -- TBUDGET, R352
  | tstat (d a : BitVec 5)   -- TSTAT, R352
  | tfrontTs (d : BitVec 5) (t : BitVec 4)   -- TFRONT_TS, R352
  | tfrontWid (d : BitVec 5) (t : BitVec 4)   -- TFRONT_WID, R352
  | cstart (d a b : BitVec 5)   -- CSTART, R407
  | cabort (a : BitVec 5)   -- CABORT, R408
  | cstat (d a : BitVec 5)   -- CSTAT, R409
  | nop   -- NOP, R112
  | limmL (d : BitVec 5) (imm : BitVec 32)   -- LIMM_L, R41
  | limmLh (d : BitVec 5) (imm : BitVec 32)   -- LIMM_LH, R41
  | addiL (d a : BitVec 5) (imm : BitVec 32)   -- ADDI_L, R41
  | andiL (d a : BitVec 5) (imm : BitVec 32)   -- ANDI_L, R41
  | oriL (d a : BitVec 5) (imm : BitVec 32)   -- ORI_L, R41
  | xoriL (d a : BitVec 5) (imm : BitVec 32)   -- XORI_L, R41
  | xForm (base : Instr) (x : XRegs)   -- X_FORM, R40
  | cpinNL (d1 d2 : BitVec 6) (n : BitVec 3) (s : BitVec 4) (q : BitVec 3) (imm : BitVec 32)   -- CPIN_N_L, R41
  | cpfillWL (d1 : BitVec 6) (n : BitVec 3) (s : BitVec 4) (imm : BitVec 32)   -- CPFILL_W_L, R41
  | cpfillNL (d1 : BitVec 6) (n : BitVec 3) (s : BitVec 4) (imm : BitVec 32)   -- CPFILL_N_L, R41
  | cpoutNL (d1 d2 : BitVec 6) (n : BitVec 3) (s : BitVec 4) (imm : BitVec 32)   -- CPOUT_N_L, R41
  | noteL (d1 d2 : BitVec 6) (s : BitVec 4) (imm : BitVec 32)   -- NOTE_L, R41
  | landL (d1 : BitVec 6) (s : BitVec 4) (imm : BitVec 32)   -- LAND_L, R41
  | unlandL (imm : BitVec 32)   -- UNLAND_L, R41
  | declL (imm : BitVec 32)   -- DECL_L, R41
  | nwaitL (d1 : BitVec 6) (imm : BitVec 32)   -- NWAIT_L, R41
  | retendL (imm : BitVec 32)   -- RETEND_L, R41
  | kvpolL (imm : BitVec 32)   -- KVPOL_L, R41
  | kvtrimL (d1 : BitVec 6) (imm : BitVec 32)   -- KVTRIM_L, R41
  | reset   -- RESET, R19
  | freezeN (ns : Nat)   -- FREEZE_N, R390
  | tapFreeze   -- TAP_FREEZE, R390
  | scanRead (ask : ScanAsk)   -- SCAN_READ, R391
  | thermalTrip   -- THERMAL_TRIP, R396
  | powerThrottle (cycles : Nat)   -- POWER_THROTTLE, R396
  | laneFailure (boundary : Nat)   -- LANE_FAILURE, R386
  | hostLinkTraining (rates widths cxl : List Nat)   -- HOST_LINK_TRAINING: the host's rates in hundreds of megatransfers per second, widths, and types of CXL device, R387
  | doorbell (at_ : Bar0At) (addr : BitVec 64)   -- DOORBELL, R389
  | launchStart (ctx : BitVec 4) (args : LaunchArgs)   -- LAUNCH_START, R315
  | taskCreate (die : Nat)   -- TASK_CREATE, R333
  | dispatch (die : Nat)   -- DISPATCH, R321
  | bindRecordReplace (die idx : Nat) (r : BindRecord)   -- BIND_RECORD_REPLACE, R319
  | dispatchPatternLoad (die : Nat) (pat : List Byte)   -- DISPATCH_PATTERN_LOAD, R320
  | launchCompletion (launch : Nat)   -- LAUNCH_COMPLETION, R323
  | contextEnd (ctx : BitVec 4) (reason : BitVec 8)   -- CONTEXT_END, R323
  | flagUnitAssign (launch : Nat)   -- FLAG_UNIT_ASSIGN, R304
  | rangeEntryReplace (ctx : BitVec 4) (idx : Nat) (e : RangeEntry)   -- RANGE_ENTRY_REPLACE, R156
  | pageInvalidate (ctx : BitVec 4) (va : BitVec 52)   -- PAGE_INVALIDATE, R157
  | pageServiceReport (frame : Option (BitVec 64))   -- PAGE_SERVICE_REPORT, R327
  | scOperationIssue   -- SC_OPERATION_ISSUE, R329
  | waitaMonitorFire   -- WAITA_MONITOR_FIRE, R308
  | flagUpdateApply (rank : BitVec 3) (u : FlagUpdate)   -- FLAG_UPDATE_APPLY, R305
  | preemptRequest   -- PREEMPT_REQUEST, R271
  | drainLimitExpiry   -- DRAIN_LIMIT_EXPIRY, R29
  | preemptRequestDrop (land seg : Nat)   -- PREEMPT_REQUEST_DROP, R271
  | strandRestore (pa : BitVec 64)   -- STRAND_RESTORE, R31
  | engineTrapDelivery   -- ENGINE_TRAP_DELIVERY, R33
  | reclaim   -- RECLAIM, R242
  | pullfail   -- PULLFAIL, R242
  | budget   -- BUDGET, R346
  | collfail   -- COLLFAIL, R417
  | compart   -- COMPART, R421
  | budgetExhausted   -- BUDGET_EXHAUSTED, R346
  | taskBecomesNonspeculative (task : BitVec 64)   -- TASK_BECOMES_NONSPECULATIVE, R336
  | taskCommit (task : CommitAsk)   -- TASK_COMMIT, R349
  | notice (n : NoticeIn)   -- NOTICE, R231
  | accept (about : Answered)   -- ACCEPT, R244
  | full (moor : Nat) (who : FullFor)   -- FULL, R231
  | absent (about : Answered)   -- ABSENT, R244
  | noRoute (about : Answered)   -- NO_ROUTE, R243
  | present (src : QuayAddr)   -- PRESENT, R244
  | noticeResendTimeout (moor : Nat) (dst : ResendTo)   -- NOTICE_RESEND_TIMEOUT, R231
  | segmentRequestIssue   -- SEGMENT_REQUEST_ISSUE, R239
  | segmentRequest (r : SegRequest)   -- SEGMENT_REQUEST, R235
  | dataResponse (land : Nat) (lgen : BitVec 8) (seg : Nat) (cmp : BitVec 16) (data : List Byte)   -- DATA_RESPONSE, R236
  | doneResponse (land : Nat) (lgen : BitVec 8) (seg : Nat)   -- DONE_RESPONSE, R236
  | staleResponse (land : Nat) (lgen : BitVec 8) (seg : Nat)   -- STALE_RESPONSE, R243
  | eccerrResponse (land : Nat) (lgen : BitVec 8) (seg : Nat)   -- ECCERR_RESPONSE, R243
  | requestRetryTimeout (land seg : Nat)   -- REQUEST_RETRY_TIMEOUT, R238
  | absentWaitTimeout (land seg : Nat)   -- ABSENT_WAIT_TIMEOUT, R238
  | acknowledgement (src : QuayAddr) (moor : BitVec 8) (gen : BitVec 8) (cidx : BitVec 6) (coll : Option CollEnd)   -- ACKNOWLEDGEMENT, R229
  | decline (src : QuayAddr) (moor : BitVec 8) (gen : BitVec 8) (cidx : BitVec 6) (coll : Option CollEnd)   -- DECLINE, R229
  | mooringTimeout (moor : Nat)   -- MOORING_TIMEOUT, R230
  | ackResendTimeout (a : KeptAt)   -- ACK_RESEND_TIMEOUT, R244
  | communicatorCreate (idx : Nat) (e : CommEntry)   -- COMMUNICATOR_CREATE, R405
  | communicatorDestroy (ctx : BitVec 4) (idx : Nat)   -- COMMUNICATOR_DESTROY, R405
  | stepNote (ctx : BitVec 4) (idx : Nat)   -- STEP_NOTE, R413
  | stepPull (ctx : BitVec 4) (idx : Nat) (ans : PullAnswer)   -- STEP_PULL, R413
  | stepPrs (ctx : BitVec 4) (idx : Nat) (ans : PullAnswer)   -- STEP_PRS, R413
  | stepCopy (ctx : BitVec 4) (idx : Nat)   -- STEP_COPY, R413
  | stepWait (ctx : BitVec 4) (idx : Nat)   -- STEP_WAIT, R413
  | collectiveCompletion (ctx : BitVec 4) (idx : Nat)   -- COLLECTIVE_COMPLETION, R414
  | collectiveFailure (ctx : BitVec 4) (idx : Nat) (why : CollReason) (peer : BitVec 12)   -- COLLECTIVE_FAILURE, R417
  | contextSuspend (ctx : BitVec 4)   -- CONTEXT_SUSPEND, R418
  | contextResume (ctx : BitVec 4)   -- CONTEXT_RESUME, R418
  | routeEntryWrite (dev : Nat) (e : RouteEntry)   -- ROUTE_ENTRY_WRITE, R399
  | portDown (port : Nat)   -- PORT_DOWN, R400
  | portUp (port lanes : Nat)   -- PORT_UP, R400
  | pause (port vc : Nat) (on : Bool)   -- PAUSE, R402
  | compartmentAssign (ctx : BitVec 4) (cmp : BitVec 16)   -- COMPARTMENT_ASSIGN, R419
  | epochInstall (cmp : BitVec 16) (epoch : EpochKey) (revoked : Option (BitVec 12))   -- EPOCH_INSTALL, R421
  | epochExpiry (cmp : BitVec 16)   -- EPOCH_EXPIRY, R421
  | participantRevoke (cmp : BitVec 16)   -- PARTICIPANT_REVOKE, R421
  | keyEnrol (slot : Nat) (key : List Byte)   -- KEY_ENROL, R393
  | attestationReport (ask : ReportAsk)   -- ATTESTATION_REPORT, R395
  | debugUnlock (sig : List Byte)   -- DEBUG_UNLOCK, R395
  | coreOutOfService (die core : Nat)   -- CORE_OUT_OF_SERVICE, R392
  | dieDrain (die : Nat)   -- DIE_DRAIN, R392
  | hbmChannelRetrain (stack channel : Nat)   -- HBM_CHANNEL_RETRAIN, R392
  | laneRecalibrate (boundary : Nat)   -- LANE_RECALIBRATE, R392
  | firmwareUpdate   -- FIRMWARE_UPDATE, R392
  | coreFailure (die core : Nat)   -- CORE_FAILURE, R397
  | managementCoreFailure (die : Nat)   -- MANAGEMENT_CORE_FAILURE, R397
  | hubFailure   -- HUB_FAILURE, R397
  | unassignedWord (w w2 : BitVec 32) (sub : BitVec 8)   -- UNASSIGNED_WORD, R13
  | fetchFault   -- FETCH_FAULT, R32
  | microsecondTick   -- MICROSECOND_TICK, R230
  | hostWrite (pa : BitVec 64) (data : List Byte)   -- HOST_WRITE, R342
  | refused (land : Nat) (lgen : BitVec 8) (seg : Nat)   -- REFUSED, R419
  | hbmChannelFailure (stack channel : Nat)   -- HBM_CHANNEL_FAILURE, R397
  | corePowerRemoved   -- CORE_POWER_REMOVED, R396
deriving DecidableEq, Repr

end Sys2Proof
end

