-- ==== Sys2Proof/Machine/Codes.lean ====
section
/-!
DEFINITION. What the codes of the operand fields may be (R43 to R46, R101, R165, R269) and which scalar fields an X form's base
command reads (R40). The decoder and the well-formedness check share these.
-/

namespace Sys2Proof

/-- The conditions of CMP and CMPI (R45). -/
def ccScalar (cc : BitVec 4) : Bool := decide (cc.toNat ≤ 11)

/-- The conditions of VCMP and VCMP.i: 6 to 9 and 12 to 15 raise ILL (R45, R170). -/
def ccVector (cc : BitVec 4) : Bool := decide (cc.toNat ≤ 5) || cc == 10 || cc == 11

/-- The selectors that R269 lists. -/
def selAssigned (sel : BitVec 12) : Bool :=
  let n := sel.toNat
  decide (n ≤ 0x008) || (decide (0x010 ≤ n) && decide (n ≤ 0x017)) || (decide (0x020 ≤ n) && decide (n ≤ 0x026)) ||
    (decide (0x030 ≤ n) && decide (n ≤ 0x034)) || (decide (0x040 ≤ n) && decide (n ≤ 0x042))

/-- A rounding mode in M[4:3] goes with a float type; for an integer type it is 0 (R44, R165). -/
def rmOk (ty : ElemType) (rm : BitVec 2) : Bool := ty.isFloat || rm == 0

/-- Which of X0 to X4 the base command of an X form reads, bit k for Xk (R40, R212, R245, R369); none where the instruction is no
CMD-layout command of an engine with X forms. -/
def xUse : Instr → Option (BitVec 5)
  | .mzero _ => some 0b00000
  | .mzeroAll  => some 0b00000
  | .mmaS8 _ _ _ _ _ => some 0b01111
  | .mmaN8 _ _ _ _ _ => some 0b01111
  | .mmaBfx8 _ _ _ _ _ => some 0b01111
  | .mmaS16 _ _ _ _ _ => some 0b01111
  | .mmaN16 _ _ _ _ _ => some 0b01111
  | .mmaBfx16 _ _ _ _ _ => some 0b01111
  | .mmaZS8 _ _ _ _ _ => some 0b01111
  | .mmaZN8 _ _ _ _ _ => some 0b01111
  | .mmaZS16 _ _ _ _ _ => some 0b01111
  | .mmaZN16 _ _ _ _ _ => some 0b01111
  | .mgoS8 _ _ _ _ _ => some 0b01111
  | .mgoN8 _ _ _ _ _ => some 0b01111
  | .mgoBfx8 _ _ _ _ _ => some 0b01111
  | .mgoS16 _ _ _ _ _ => some 0b01111
  | .mgoN16 _ _ _ _ _ => some 0b01111
  | .mgoBfx16 _ _ _ _ _ => some 0b01111
  | .mpackPi _ _ _ _ => some 0b01111
  | .mpackPb _ _ _ _ => some 0b01111
  | .mrdF32 _ _ _ _ => some 0b00011
  | .mrdBf16 _ _ _ _ => some 0b00011
  | .mrdBfx8 _ _ _ _ => some 0b00011
  | .mrdS8 _ _ _ _ => some 0b00011
  | .mrdN8 _ _ _ _ => some 0b00011
  | .mrdS32 _ _ _ _ => some 0b00011
  | .mrdvF32 _ _ _ _ => some 0b00000
  | .mrdvBf16 _ _ _ _ => some 0b00000
  | .mrdvS32 _ _ _ _ => some 0b00000
  | .msta _ _ _ => some 0b00011
  | .mlda _ _ _ => some 0b00011
  | .mstat _ _ => some 0b00011
  | .msig _ => some 0b00000
  | .mwaitk _ => some 0b00000
  | .cpinW _ _ _ _ _ => some 0b11111
  | .cpinN _ _ _ _ _ => some 0b11111
  | .cpinWNt _ _ _ _ _ => some 0b11111
  | .cpinNNt _ _ _ _ _ => some 0b11111
  | .cpgathW _ _ _ _ _ => some 0b11111
  | .cpgathN _ _ _ _ _ => some 0b11111
  | .cpgathWNt _ _ _ _ _ => some 0b11111
  | .cpgathNNt _ _ _ _ _ => some 0b11111
  | .cpplaneW _ _ _ _ _ => some 0b11111
  | .cpplaneN _ _ _ _ _ => some 0b11111
  | .cpplaneWNt _ _ _ _ _ => some 0b11111
  | .cpplaneNNt _ _ _ _ _ => some 0b11111
  | .cpfillW _ _ _ => some 0b10011
  | .cpfillN _ _ _ => some 0b10011
  | .cpmovW _ _ _ _ => some 0b01111
  | .cpmovN _ _ _ _ => some 0b01111
  | .cppre _ _ => some 0b10011
  | .lsig _ => some 0b00000
  | .lwaitk _ => some 0b00000
  | .lbwait _ => some 0b00000
  | .ssig _ => some 0b00000
  | .swaitk _ => some 0b00000
  | .sbwait _ => some 0b00000
  | .cpoutW _ _ _ _ => some 0b11111
  | .cpoutC _ _ _ _ => some 0b11111
  | .cpoutN _ _ _ _ => some 0b11111
  | .cpscatW _ _ _ _ => some 0b11111
  | .cpscatC _ _ _ _ => some 0b11111
  | .cpscatN _ _ _ _ => some 0b11111
  | .cpdeplW _ _ _ _ => some 0b11111
  | .cpdeplC _ _ _ _ => some 0b11111
  | .cpdeplN _ _ _ _ => some 0b11111
  | .cpwb _ _ _ => some 0b10011
  | .cpinv _ _ _ => some 0b10011
  | .note _ _ _ => some 0b10000
  | .noteG _ _ _ => some 0b10000
  | .land _ _ => some 0b10000
  | .unland  => some 0b10000
  | .unlandAll  => some 0b00000
  | .decl  => some 0b10000
  | .declAll  => some 0b10000
  | .nwait _ => some 0b00000
  | .nwaitN _ => some 0b00000
  | .nwaitTag _ => some 0b10000
  | .landq _ => some 0b10000
  | .ppol _ => some 0b00000
  | .ppace _ => some 0b00000
  | .pgrp _ => some 0b10000
  | .pclass  => some 0b10000
  | .rels  => some 0b10000
  | .relsTag  => some 0b10000
  | .retend  => some 0b10000
  | .retendTag  => some 0b10000
  | .moorq _ => some 0b10000
  | .moorqTag _ => some 0b10000
  | .psig _ => some 0b00000
  | .pwaitk _ => some 0b00000
  | .pbwait _ => some 0b00000
  | .kvnew _ => some 0b10000
  | .kvappend _ _ => some 0b01111
  | .kvexit _ => some 0b10111
  | .kvfill _ _ => some 0b01111
  | .kvflush  => some 0b10101
  | .kvfork _ => some 0b00011
  | .kvfree  => some 0b00001
  | .kvtrim _ => some 0b10000
  | .kvlen _ => some 0b00101
  | .kvpol  => some 0b10000
  | .kvstat _ => some 0b00001
  | .kvowed _ => some 0b10111
  | .kvwait  => some 0b00011
  | .kvbft _ => some 0b10000
  | .kvfenceDie  => some 0b00000
  | .kvfencePkg  => some 0b00000
  | .kvmapK _ _ => some 0b10111
  | .kvmapV _ _ => some 0b10111
  | _ => none

/-- The X fields outside a base command's use are zero (R40). -/
def xUnusedZero (u : BitVec 5) (x : XRegs) : Bool :=
  (u.getLsbD 0 || x.x0 == 0) && (u.getLsbD 1 || x.x1 == 0) && (u.getLsbD 2 || x.x2 == 0) && (u.getLsbD 3 || x.x3 == 0) &&
    (u.getLsbD 4 || x.x4 == 0)

end Sys2Proof
end

