-- ==== Sys2Proof/WellFormed.lean ====
section
/-!
DEFINITION. Which instructions an encoding exists for: an operand whose type admits more than the word does is checked here, by the
conditions of R53 that a term of `Instr` can still break.
-/

namespace Sys2Proof

/-- The instruction is a word or a pair of words; the rest are events of the part. -/
def Instr.isWord : Instr → Bool
  | .reset => false
  | .freezeN _ => false
  | .tapFreeze => false
  | .scanRead _ => false
  | .thermalTrip => false
  | .powerThrottle _ => false
  | .laneFailure _ => false
  | .hostLinkTraining _ _ _ => false
  | .doorbell _ _ => false
  | .launchStart _ _ => false
  | .taskCreate _ => false
  | .dispatch _ => false
  | .bindRecordReplace _ _ _ => false
  | .dispatchPatternLoad _ _ => false
  | .launchCompletion _ => false
  | .contextEnd _ _ => false
  | .flagUnitAssign _ => false
  | .rangeEntryReplace _ _ _ => false
  | .pageInvalidate _ _ => false
  | .pageServiceReport _ => false
  | .scOperationIssue => false
  | .waitaMonitorFire => false
  | .flagUpdateApply _ _ => false
  | .preemptRequest => false
  | .drainLimitExpiry => false
  | .preemptRequestDrop _ _ => false
  | .strandRestore _ => false
  | .engineTrapDelivery => false
  | .reclaim => false
  | .pullfail => false
  | .budget => false
  | .collfail => false
  | .compart => false
  | .budgetExhausted => false
  | .taskBecomesNonspeculative _ => false
  | .taskCommit _ => false
  | .notice _ => false
  | .accept _ => false
  | .full _ _ => false
  | .absent _ => false
  | .noRoute _ => false
  | .present _ => false
  | .noticeResendTimeout _ _ => false
  | .segmentRequestIssue => false
  | .segmentRequest _ => false
  | .dataResponse _ _ _ _ _ => false
  | .doneResponse _ _ _ => false
  | .staleResponse _ _ _ => false
  | .eccerrResponse _ _ _ => false
  | .requestRetryTimeout _ _ => false
  | .absentWaitTimeout _ _ => false
  | .acknowledgement _ _ _ _ _ => false
  | .decline _ _ _ _ _ => false
  | .mooringTimeout _ => false
  | .ackResendTimeout _ => false
  | .communicatorCreate _ _ => false
  | .communicatorDestroy _ _ => false
  | .stepNote _ _ => false
  | .stepPull _ _ _ => false
  | .stepPrs _ _ _ => false
  | .stepCopy _ _ => false
  | .stepWait _ _ => false
  | .collectiveCompletion _ _ => false
  | .collectiveFailure _ _ _ _ => false
  | .contextSuspend _ => false
  | .contextResume _ => false
  | .routeEntryWrite _ _ => false
  | .portDown _ => false
  | .portUp _ _ => false
  | .pause _ _ _ => false
  | .compartmentAssign _ _ => false
  | .epochInstall _ _ _ => false
  | .epochExpiry _ => false
  | .participantRevoke _ => false
  | .keyEnrol _ _ => false
  | .attestationReport _ => false
  | .debugUnlock _ => false
  | .coreOutOfService _ _ => false
  | .dieDrain _ => false
  | .hbmChannelRetrain _ _ => false
  | .laneRecalibrate _ => false
  | .firmwareUpdate => false
  | .coreFailure _ _ => false
  | .managementCoreFailure _ => false
  | .hubFailure => false
  | .unassignedWord _ _ _ => false
  | .fetchFault => false
  | .microsecondTick => false
  | .hostWrite _ _ => false
  | .refused _ _ _ => false
  | .hbmChannelFailure _ _ => false
  | .corePowerRemoved => false
  | _ => true

/-- The checks of a single word or a long form. -/
def Instr.wfPlain : Instr → Bool
  | .cmp _ cc _ _ => ccScalar cc
  | .cmpi _ cc _ _ => ccScalar cc
  | .widf _ k => decide (k.toNat ≤ 5)
  | .srr _ k => selAssigned k
  | .srw _ k => selAssigned k
  | .drain mask => mask != 0
  | .qcancel _ mask => mask != 0
  | .fence scope => decide (scope.toNat ≤ 5)
  | .scamo _ _ _ _ o => o != 7
  | .vadd o => rmOk o.ty o.rm
  | .vaddSat o => !o.ty.isFloat
  | .vsub o => rmOk o.ty o.rm
  | .vsubSat o => !o.ty.isFloat
  | .vmul o => rmOk o.ty o.rm
  | .vmulHi o => !o.ty.isFloat
  | .vfma o => rmOk o.ty o.rm
  | .vfmaNp o => rmOk o.ty o.rm
  | .vfmaNa o => rmOk o.ty o.rm
  | .vfmaNn o => rmOk o.ty o.rm
  | .vmin o => rmOk o.ty o.rm
  | .vmax o => rmOk o.ty o.rm
  | .vminNan o => rmOk o.ty o.rm && o.ty.isFloat
  | .vmaxNan o => rmOk o.ty o.rm && o.ty.isFloat
  | .vabs o => rmOk o.ty o.rm
  | .vabd o => rmOk o.ty o.rm
  | .vneg o => rmOk o.ty o.rm
  | .vsign o => rmOk o.ty o.rm
  | .vclamp o => rmOk o.ty o.rm
  | .vavg o => rmOk o.ty o.rm
  | .vmov o => rmOk o.ty o.rm
  | .vclz o => !o.ty.isFloat
  | .vpopc o => !o.ty.isFloat
  | .vscale o => rmOk o.ty o.rm && o.ty.isFloat
  | .vgete o => rmOk o.ty o.rm && o.ty.isFloat
  | .vshl o => !o.ty.isFloat
  | .vshr o => !o.ty.isFloat
  | .vsra o => o.ty.isSigned
  | .vshlI o => !o.ty.isFloat && decide (o.k.toNat < o.ty.bits)
  | .vshrI o => !o.ty.isFloat && decide (o.k.toNat < o.ty.bits)
  | .vsraI o => o.ty.isSigned && decide (o.k.toNat < o.ty.bits)
  | .vaddI o => !o.ty.isFloat
  | .vminI o => !o.ty.isFloat
  | .vmaxI o => !o.ty.isFloat
  | .vcmp c cc _ _ _ => c != 0 && ccVector cc
  | .vcmpI c cc _ _ _ => c != 0 && ccVector cc
  | .vmaskw c mode _ _ x => c != 0 && (mode != 1 || x == 0)
  | .vredSum o => rmOk o.ty o.rm
  | .vredMax o => rmOk o.ty o.rm
  | .vredMin o => rmOk o.ty o.rm
  | .vredAmax o => rmOk o.ty o.rm
  | .vredSsq o => rmOk o.ty o.rm
  | .vscanSum o => rmOk o.ty o.rm
  | .vscanMax o => rmOk o.ty o.rm
  | .vexp2 o => o.ty.isFloat
  | .vlog2 o => o.ty.isFloat
  | .vrcp o => o.ty.isFloat
  | .vrsq o => o.ty.isFloat
  | .viota _ ty => !ty.isFloat
  | .pand d _ _ _ _ => d != 0
  | .por d _ _ _ _ => d != 0
  | .pxor d _ _ _ _ => d != 0
  | .pnot d _ _ => d != 0
  | .pld p _ _ _ => p != 0
  | .vconfGap c _ _ => c != 0
  | .vconfDrift c _ _ _ => c != 0
  | .mrdF32 _ _ _ q => decide (q.toNat ≤ 4)
  | .mrdBf16 _ _ _ q => decide (q.toNat ≤ 4)
  | .mrdBfx8 _ _ _ q => decide (q.toNat ≤ 4)
  | .mrdS8 _ _ _ q => decide (q.toNat ≤ 4)
  | .mrdN8 _ _ _ q => decide (q.toNat ≤ 4)
  | .mrdS32 _ _ _ q => decide (q.toNat ≤ 4)
  | .mrdvF32 v _ _ q => decide (q.toNat ≤ 4) && v != 31
  | .mrdvBf16 _ _ _ q => decide (q.toNat ≤ 4)
  | .mrdvS32 v _ _ q => decide (q.toNat ≤ 4) && v != 31
  | .cpinW _ _ _ _ q => decide (q.toNat ≤ 4)
  | .cpinN _ _ _ _ q => decide (q.toNat ≤ 4)
  | .cpinWNt _ _ _ _ q => decide (q.toNat ≤ 4)
  | .cpinNNt _ _ _ _ q => decide (q.toNat ≤ 4)
  | .cpgathW _ _ _ _ q => decide (q.toNat ≤ 4)
  | .cpgathN _ _ _ _ q => decide (q.toNat ≤ 4)
  | .cpgathWNt _ _ _ _ q => decide (q.toNat ≤ 4)
  | .cpgathNNt _ _ _ _ q => decide (q.toNat ≤ 4)
  | .cpplaneW _ _ _ _ q => decide (q.toNat ≤ 4)
  | .cpplaneN _ _ _ _ q => decide (q.toNat ≤ 4)
  | .cpplaneWNt _ _ _ _ q => decide (q.toNat ≤ 4)
  | .cpplaneNNt _ _ _ _ q => decide (q.toNat ≤ 4)
  | .kvmapK _ q => decide (q.toNat ≤ 4)
  | .kvmapV _ q => decide (q.toNat ≤ 4)
  | .cpinNL _ _ _ _ q _ => decide (q.toNat ≤ 4)
  | .xForm _ _ => false
  | _ => true

/-- The instruction is one that the encoding can express. An X form has a CMD-layout engine command as its base and names only the
registers that the command reads (R40). -/
def Instr.wellFormed : Instr → Bool
  | .xForm base x =>
    match xUse base with
    | some u => base.wfPlain && xUnusedZero u x
    | none => false
  | i => i.wfPlain

end Sys2Proof
end

