-- ==== Sys2Proof/Decode.lean ====
section
/-!
DEFINITION. The decoder (R34 to R53), total on any words and rejecting by the name of R53's condition, and the encoder written from
the same tables.
-/

namespace Sys2Proof

/-! ## Fields of the layouts of R36 -/

def fEng (w : IWord) : BitVec 3 := w.extractLsb' 29 3
def fOp (w : IWord) : BitVec 7 := w.extractLsb' 22 7
def fRest (w : IWord) : BitVec 22 := w.extractLsb' 0 22
def fD (w : IWord) : BitVec 5 := w.extractLsb' 17 5
def fA (w : IWord) : BitVec 5 := w.extractLsb' 12 5
def fB (w : IWord) : BitVec 5 := w.extractLsb' 7 5
def fTA (w : IWord) : Bool := w.getLsbD 6
def fTB (w : IWord) : Bool := w.getLsbD 5
def fM (w : IWord) : BitVec 5 := w.extractLsb' 0 5
def fRm (w : IWord) : BitVec 2 := w.extractLsb' 3 2
def fI12 (w : IWord) : BitVec 12 := w.extractLsb' 0 12
def fI17 (w : IWord) : BitVec 17 := w.extractLsb' 0 17
def fBr (w : IWord) : BitVec 2 := w.extractLsb' 20 2
def fOff (w : IWord) : BitVec 20 := w.extractLsb' 0 20
def fC (w : IWord) : BitVec 3 := w.extractLsb' 19 3
def fCC (w : IWord) : BitVec 4 := w.extractLsb' 15 4
def fCA (w : IWord) : BitVec 5 := w.extractLsb' 10 5
def fCB (w : IWord) : BitVec 5 := w.extractLsb' 5 5
def fI10 (w : IWord) : BitVec 10 := w.extractLsb' 0 10
def fD1 (w : IWord) : BitVec 6 := w.extractLsb' 16 6
def fD2 (w : IWord) : BitVec 6 := w.extractLsb' 10 6
def fN (w : IWord) : BitVec 3 := w.extractLsb' 7 3
def fS (w : IWord) : BitVec 4 := w.extractLsb' 3 4
def fQ (w : IWord) : BitVec 3 := w.extractLsb' 0 3
def fVD (w : IWord) : BitVec 6 := w.extractLsb' 11 6
def fX0 (w : IWord) : BitVec 5 := w.extractLsb' 6 5
def fX1 (w : IWord) : BitVec 5 := w.extractLsb' 1 5
def fZ0 (w : IWord) : Bool := w.getLsbD 0
def fP (w : IWord) : BitVec 3 := w.extractLsb' 3 3
def fLow3 (w : IWord) : BitVec 3 := w.extractLsb' 0 3
def fRA (w : IWord) : BitVec 5 := w.extractLsb' 11 5
def fLow11 (w : IWord) : BitVec 11 := w.extractLsb' 0 11
def fTgt (w : IWord) : BitVec 3 := w.extractLsb' 26 3
def fSub (w : IWord) : BitVec 4 := w.extractLsb' 22 4

/-- The element type of M[2:0] (R43). -/
def vty (w : IWord) : ElemType := ElemType.ofCode (w.extractLsb' 0 3)

/-! ## Rejection (R53) -/

/-- An instruction and the conditions of R53 that would reject its word. -/
abbrev Row := Instr × List (Bool × IllSub)

def IllSub.all : List IllSub := [.op, .wide, .xform, .reserved, .index, .dest, .type, .code, .imm]

/-- The first condition, in the order of R53's table, that holds. -/
def firstIll (bad : List (Bool × IllSub)) : Option IllSub :=
  IllSub.all.find? fun e => bad.any fun p => p.1 && p.2 == e

/-- A row's instruction, unless a condition rejects its word. -/
def Row.finish (r : Row) : Except IllSub Instr :=
  match firstIll r.2 with
  | some e => .error e
  | none => .ok r.1

inductive CmdField where
  | d1 | d2 | n | s | q
deriving DecidableEq, Repr

/-- A CMD field is nonzero. -/
def CmdField.nonzero (w : IWord) : CmdField → Bool
  | .d1 => fD1 w != 0 | .d2 => fD2 w != 0 | .n => fN w != 0 | .s => fS w != 0 | .q => fQ w != 0

/-- The CMD fields that a command does not use are reserved (R36). -/
def cmd0 (w : IWord) (unused : List CmdField) : List (Bool × IllSub) := unused.map fun f => (f.nonzero w, .reserved)
/-- Trap bits of a word that has none are zero (R37). -/
def t0 (w : IWord) : List (Bool × IllSub) := [(fTA w, .reserved), (fTB w, .reserved)]
def tb0 (w : IWord) : List (Bool × IllSub) := [(fTB w, .reserved)]
def m0 (w : IWord) : List (Bool × IllSub) := t0 w ++ [(fM w != 0, .reserved)]
def b0 (w : IWord) : List (Bool × IllSub) := [(fB w != 0, .reserved)]
/-- M[4:3] of an integer type is 0 (R165). -/
def rm0 (w : IWord) : List (Bool × IllSub) := [(!rmOk (vty w) (fRm w), .reserved)]

/-- The conditions of R53 that reject a CTL word, by OP (R48). -/
def decodeCtlBad (op : Nat) (w : IWord) : Option (List (Bool × IllSub)) :=
  match op with
  | 0x01 => some (m0 w)
  | 0x02 => some (m0 w)
  | 0x03 => some (m0 w)
  | 0x04 => some (m0 w)
  | 0x05 => some (m0 w)
  | 0x06 => some (m0 w)
  | 0x07 => some (m0 w)
  | 0x08 => some (m0 w)
  | 0x09 => some (m0 w)
  | 0x0A => some (m0 w)
  | 0x0B => some (m0 w)
  | 0x0C => some (m0 w)
  | 0x0D => some (m0 w)
  | 0x0E => some (m0 w)
  | 0x0F => some (m0 w)
  | 0x10 => some (m0 w)
  | 0x11 => some (m0 w)
  | 0x12 => some (m0 w)
  | 0x13 => some (m0 w)
  | 0x14 => some (b0 w ++ m0 w)
  | 0x15 => some (b0 w ++ m0 w)
  | 0x16 => some (t0 w ++ [(fRm w != 0, .reserved)])
  | 0x18 => some ([])
  | 0x19 => some ([])
  | 0x1A => some ([])
  | 0x1B => some ([])
  | 0x1C => some ([((fI12 w).extractLsb' 6 6 != 0, .imm)])
  | 0x1D => some ([((fI12 w).extractLsb' 6 6 != 0, .imm)])
  | 0x1E => some ([((fI12 w).extractLsb' 6 6 != 0, .imm)])
  | 0x20 => some ([])
  | 0x21 => some ([])
  | 0x22 => some ([(fM w != 0, .reserved), (!ccScalar (fCC w), .code)])
  | 0x23 => some ([(!ccScalar (fCC w), .code)])
  | 0x24 => some ([])
  | 0x25 => some ([((fD w).extractLsb' 2 3 != 0, .index)])
  | 0x26 => some ([((fOff w).extractLsb' 0 16 != 0, .reserved)])
  | 0x27 => some ([(fOff w != 0, .reserved)])
  | 0x28 => some ([((fOff w).extractLsb' 0 18 != 0, .reserved)])
  | 0x30 => some ([])
  | 0x31 => some ([])
  | 0x32 => some ([])
  | 0x33 => some ([])
  | 0x34 => some ([])
  | 0x35 => some ([])
  | 0x36 => some ([])
  | 0x38 => some ([])
  | 0x39 => some ([])
  | 0x3A => some ([])
  | 0x3B => some ([])
  | 0x3C => some ([(fCC w != 0, .reserved), (fCB w != 0, .reserved), (fM w != 0, .reserved), ((fCA w).extractLsb' 3 2 != 0, .index)])
  | 0x3D => some ([(fCC w != 0, .reserved), (fCB w != 0, .reserved), (fM w != 0, .reserved), ((fCA w).extractLsb' 3 2 != 0, .index)])
  | 0x40 => some ([(fA w != 0, .reserved), (decide (5 < (fI12 w).toNat), .imm)])
  | 0x41 => some ([(fA w != 0, .reserved), (!selAssigned (fI12 w), .code)])
  | 0x42 => some ([(fD w != 0, .reserved), (!selAssigned (fI12 w), .code)])
  | 0x43 => some (cmd0 w [.d1, .d2, .n, .q])
  | 0x44 => some (cmd0 w [.d1, .d2, .n, .q])
  | 0x45 => some (cmd0 w [.d1, .d2, .n, .q])
  | 0x46 => some ([(fRest w != 0, .reserved)])
  | 0x47 => some ([(fD w != 0, .reserved), (fA w != 0, .reserved), ((fI12 w).extractLsb' 6 6 != 0, .reserved), (((fI12 w).extractLsb' 0 6) == 0, .imm)])
  | 0x48 => some ([(fA w != 0, .reserved), ((fI12 w).extractLsb' 6 6 != 0, .reserved), (((fI12 w).extractLsb' 0 6) == 0, .imm)])
  | 0x49 => some ([(fRest w != 0, .reserved)])
  | 0x4A => some ([(fD w != 0, .reserved), (fA w != 0, .reserved), ((fI12 w).extractLsb' 3 9 != 0, .reserved), (decide (5 < ((fI12 w).extractLsb' 0 3).toNat), .code)])
  | 0x4B => some ([(fD w != 0, .reserved), (fA w != 0, .reserved)])
  | 0x4C => some ([(fRest w != 0, .reserved)])
  | 0x4D => some ([(fRest w != 0, .reserved)])
  | 0x50 => some ([(fLow11 w != 0, .reserved)])
  | 0x51 => some ([(fLow11 w != 0, .reserved), ((fD1 w).extractLsb' 3 3 != 0, .index)])
  | 0x52 => some ([(fI12 w != 0, .reserved), ((fD w).extractLsb' 4 1 != 0, .index)])
  | 0x53 => some ([((fD w).extractLsb' 4 1 != 0, .index)])
  | 0x58 => some ([(fD w != 0, .reserved), ((fI12 w).extractLsb' 11 1 != 0, .reserved)])
  | 0x59 => some ([((fI12 w).extractLsb' 8 4 != 0, .reserved)])
  | 0x5A => some ([((fI12 w).extractLsb' 8 4 != 0, .reserved)])
  | 0x5B => some (t0 w ++ [((fM w).extractLsb' 2 3 != 0, .reserved), ((fM w).extractLsb' 1 1 == 0, .code)])
  | 0x60 => some (t0 w ++ [((fM w).extractLsb' 2 3 != 0, .reserved), ((fM w).extractLsb' 1 1 == 0, .code)])
  | 0x61 => some (t0 w ++ [(fRm w != 0, .reserved), ((fM w).extractLsb' 1 1 == 0, .code)])
  | 0x62 => some (t0 w ++ [(fRm w != 0, .reserved), ((fM w).extractLsb' 1 1 == 0, .code)])
  | 0x63 => some (t0 w ++ [((fM w).extractLsb' 2 3 != 0, .reserved), ((fM w).extractLsb' 1 1 == 0, .code)])
  | 0x64 => some (t0 w ++ [((fM w).extractLsb' 2 3 != 0, .reserved), ((fM w).extractLsb' 1 1 == 0, .code)])
  | 0x65 => some (t0 w ++ [((fM w).extractLsb' 2 3 != 0, .reserved), ((fM w).extractLsb' 1 1 == 0, .code)])
  | 0x66 => some (t0 w ++ [((fM w).extractLsb' 2 3 != 0, .reserved), ((fM w).extractLsb' 1 1 == 0, .code)])
  | 0x68 => some ([])
  | 0x69 => some ([])
  | 0x6A => some (t0 w ++ [((fM w).extractLsb' 1 1 == 0, .code), ((fM w).extractLsb' 2 3 == 7, .code)])
  | 0x6B => some ([(fRest w != 0, .reserved)])
  | 0x6C => some ([(fD w != 0, .reserved)])
  | 0x70 => some ([(fI12 w != 0, .reserved)])
  | 0x71 => some ([(fRest w != 0, .reserved)])
  | 0x72 => some ([(fRest w != 0, .reserved)])
  | 0x73 => some ([(fD w != 0, .reserved), (fI12 w != 0, .reserved)])
  | 0x74 => some ([(fI12 w != 0, .reserved)])
  | 0x75 => some ([(fI12 w != 0, .reserved)])
  | 0x76 => some ([(fA w != 0, .reserved), ((fI12 w).extractLsb' 5 7 != 0, .reserved)])
  | 0x78 => some (m0 w)
  | 0x79 => some ([(fD w != 0, .reserved), (fI12 w != 0, .reserved)])
  | 0x7A => some ([(fI12 w != 0, .reserved)])
  | 0x7F => some ([(fRest w != 0, .reserved)])
  | _ => none

/-- The instruction of a CTL word, by OP (R48). -/
noncomputable def decodeCtlInstr (op : Nat) (w : IWord) : Option Instr :=
  match op with
  | 0x01 => some (.add (fD w) (fA w) (fB w))
  | 0x02 => some (.sub (fD w) (fA w) (fB w))
  | 0x03 => some (.and (fD w) (fA w) (fB w))
  | 0x04 => some (.or (fD w) (fA w) (fB w))
  | 0x05 => some (.xor (fD w) (fA w) (fB w))
  | 0x06 => some (.sll (fD w) (fA w) (fB w))
  | 0x07 => some (.srl (fD w) (fA w) (fB w))
  | 0x08 => some (.sra (fD w) (fA w) (fB w))
  | 0x09 => some (.mul (fD w) (fA w) (fB w))
  | 0x0A => some (.mulhS (fD w) (fA w) (fB w))
  | 0x0B => some (.mulhN (fD w) (fA w) (fB w))
  | 0x0C => some (.divS (fD w) (fA w) (fB w))
  | 0x0D => some (.divN (fD w) (fA w) (fB w))
  | 0x0E => some (.remS (fD w) (fA w) (fB w))
  | 0x0F => some (.remN (fD w) (fA w) (fB w))
  | 0x10 => some (.minS (fD w) (fA w) (fB w))
  | 0x11 => some (.minN (fD w) (fA w) (fB w))
  | 0x12 => some (.maxS (fD w) (fA w) (fB w))
  | 0x13 => some (.maxN (fD w) (fA w) (fB w))
  | 0x14 => some (.clz (fD w) (fA w))
  | 0x15 => some (.popc (fD w) (fA w))
  | 0x16 => some (.sel (fD w) (fA w) (fB w) ((fM w).extractLsb' 0 3))
  | 0x18 => some (.addi (fD w) (fA w) (fI12 w))
  | 0x19 => some (.andi (fD w) (fA w) (fI12 w))
  | 0x1A => some (.ori (fD w) (fA w) (fI12 w))
  | 0x1B => some (.xori (fD w) (fA w) (fI12 w))
  | 0x1C => some (.slli (fD w) (fA w) ((fI12 w).extractLsb' 0 6))
  | 0x1D => some (.srli (fD w) (fA w) ((fI12 w).extractLsb' 0 6))
  | 0x1E => some (.srai (fD w) (fA w) ((fI12 w).extractLsb' 0 6))
  | 0x20 => some (.limm (fD w) (fI17 w))
  | 0x21 => some (.limmSh (fD w) (fI17 w))
  | 0x22 => some (.cmp (fC w) (fCC w) (fCA w) (fCB w))
  | 0x23 => some (.cmpi (fC w) (fCC w) (fCA w) (fI10 w))
  | 0x24 => some (.btgt (fBr w) (fOff w))
  | 0x25 => some (.btgtX ((fD w).extractLsb' 0 2) (fA w) (fI12 w))
  | 0x26 => some (if (fOff w).getLsbD 16 then .brcF (fBr w) ((fOff w).extractLsb' 17 3) else .brc (fBr w) ((fOff w).extractLsb' 17 3))
  | 0x27 => some (.br (fBr w))
  | 0x28 => some (.brl (fBr w) ((fOff w).extractLsb' 18 2))
  | 0x30 => some (.ldBS (fD w) (fA w) (fI12 w))
  | 0x31 => some (.ldBN (fD w) (fA w) (fI12 w))
  | 0x32 => some (.ldHS (fD w) (fA w) (fI12 w))
  | 0x33 => some (.ldHN (fD w) (fA w) (fI12 w))
  | 0x34 => some (.ldWS (fD w) (fA w) (fI12 w))
  | 0x35 => some (.ldWN (fD w) (fA w) (fI12 w))
  | 0x36 => some (.ldD (fD w) (fA w) (fI12 w))
  | 0x38 => some (.stB (fD w) (fA w) (fI12 w))
  | 0x39 => some (.stH (fD w) (fA w) (fI12 w))
  | 0x3A => some (.stW (fD w) (fA w) (fI12 w))
  | 0x3B => some (.stD (fD w) (fA w) (fI12 w))
  | 0x3C => some (.vany (fC w) ((fCA w).extractLsb' 0 3))
  | 0x3D => some (.vall (fC w) ((fCA w).extractLsb' 0 3))
  | 0x40 => some (.widf (fD w) ((fI12 w).extractLsb' 0 3))
  | 0x41 => some (.srr (fD w) (fI12 w))
  | 0x42 => some (.srw (fA w) (fI12 w))
  | 0x43 => some (.sig (fS w))
  | 0x44 => some (.waitk (fS w))
  | 0x45 => some (.bwait (fS w))
  | 0x46 => some (.qmark)
  | 0x47 => some (.drain ((fI12 w).extractLsb' 0 6))
  | 0x48 => some (.qcancel (fD w) ((fI12 w).extractLsb' 0 6))
  | 0x49 => some (.safept)
  | 0x4A => some (.fence ((fI12 w).extractLsb' 0 3))
  | 0x4B => some (.trap (fI12 w))
  | 0x4C => some (.eret)
  | 0x4D => some (.halt)
  | 0x50 => some (.dld (fD1 w) (fRA w))
  | 0x51 => some (.nld ((fD1 w).extractLsb' 0 3) (fRA w))
  | 0x52 => some (.lset ((fD w).extractLsb' 0 4) (fA w))
  | 0x53 => some (.lseti ((fD w).extractLsb' 0 4) (fI17 w))
  | 0x58 => some (.fladd (fA w) ((fI12 w).extractLsb' 0 8) ((fI12 w).extractLsb' 8 3))
  | 0x59 => some (.flset (fD w) (fA w) ((fI12 w).extractLsb' 0 8))
  | 0x5A => some (.flwait (fD w) (fA w) ((fI12 w).extractLsb' 0 8))
  | 0x5B => some (.waita (fD w) (fA w) (fB w) ((fM w).getLsbD 0))
  | 0x60 => some (.amoAdd (fD w) (fA w) (fB w) ((fM w).getLsbD 0))
  | 0x61 => some (.amoMin (fD w) (fA w) (fB w) ((fM w).getLsbD 0) ((fM w).getLsbD 2))
  | 0x62 => some (.amoMax (fD w) (fA w) (fB w) ((fM w).getLsbD 0) ((fM w).getLsbD 2))
  | 0x63 => some (.amoAnd (fD w) (fA w) (fB w) ((fM w).getLsbD 0))
  | 0x64 => some (.amoOr (fD w) (fA w) (fB w) ((fM w).getLsbD 0))
  | 0x65 => some (.amoXchg (fD w) (fA w) (fB w) ((fM w).getLsbD 0))
  | 0x66 => some (.amoCas (fD w) (fA w) (fB w) ((fM w).getLsbD 0))
  | 0x68 => some (.scld (fD w) (fA w) (fI12 w))
  | 0x69 => some (.scst (fD w) (fA w) (fI12 w))
  | 0x6A => some (.scamo (fD w) (fA w) (fB w) ((fM w).getLsbD 0) ((fM w).extractLsb' 2 3))
  | 0x6B => some (.scfence)
  | 0x6C => some (.pgreq (fA w) (fI12 w))
  | 0x70 => some (.tspawn (fD w) (fA w))
  | 0x71 => some (.tend)
  | 0x72 => some (.tyield)
  | 0x73 => some (.tabort (fA w))
  | 0x74 => some (.tbudget (fD w) (fA w))
  | 0x75 => some (.tstat (fD w) (fA w))
  | 0x76 => some (if (fI12 w).getLsbD 4 then .tfrontWid (fD w) ((fI12 w).extractLsb' 0 4) else .tfrontTs (fD w) ((fI12 w).extractLsb' 0 4))
  | 0x78 => some (.cstart (fD w) (fA w) (fB w))
  | 0x79 => some (.cabort (fA w))
  | 0x7A => some (.cstat (fD w) (fA w))
  | 0x7F => some (.nop)
  | _ => none

/-- CTL, ENG 0 (R48). -/
noncomputable def decodeCtl (op : Nat) (w : IWord) : Option Row :=
  match decodeCtlInstr op w, decodeCtlBad op w with
  | some i, some bad => some (i, bad)
  | _, _ => none

/-- VEC, ENG 1 (R49). -/
def decodeVec (op : Nat) (w : IWord) : Option Row :=
  match op with
  | 0x01 => some (.vadd ⟨fD w, fA w, fB w, fTA w, fTB w, fRm w, vty w⟩, rm0 w)
  | 0x02 => some (.vaddSat ⟨fD w, fA w, fB w, fTA w, fTB w, vty w⟩, [(fRm w != 0, .reserved)] ++ [((vty w).isFloat, .type)])
  | 0x03 => some (.vsub ⟨fD w, fA w, fB w, fTA w, fTB w, fRm w, vty w⟩, rm0 w)
  | 0x04 => some (.vsubSat ⟨fD w, fA w, fB w, fTA w, fTB w, vty w⟩, [(fRm w != 0, .reserved)] ++ [((vty w).isFloat, .type)])
  | 0x05 => some (.vmul ⟨fD w, fA w, fB w, fTA w, fTB w, fRm w, vty w⟩, rm0 w)
  | 0x06 => some (.vmulHi ⟨fD w, fA w, fB w, fTA w, fTB w, vty w⟩, [(fRm w != 0, .reserved)] ++ [((vty w).isFloat, .type)])
  | 0x07 => some (.vfma ⟨fD w, fA w, fB w, fTA w, fTB w, fRm w, vty w⟩, rm0 w)
  | 0x08 => some (.vfmaNp ⟨fD w, fA w, fB w, fTA w, fTB w, fRm w, vty w⟩, rm0 w)
  | 0x09 => some (.vfmaNa ⟨fD w, fA w, fB w, fTA w, fTB w, fRm w, vty w⟩, rm0 w)
  | 0x0A => some (.vfmaNn ⟨fD w, fA w, fB w, fTA w, fTB w, fRm w, vty w⟩, rm0 w)
  | 0x0B => some (.vmin ⟨fD w, fA w, fB w, fTA w, fTB w, fRm w, vty w⟩, rm0 w)
  | 0x0C => some (.vmax ⟨fD w, fA w, fB w, fTA w, fTB w, fRm w, vty w⟩, rm0 w)
  | 0x0D => some (.vminNan ⟨fD w, fA w, fB w, fTA w, fTB w, fRm w, vty w⟩, rm0 w ++ [(!(vty w).isFloat, .type)])
  | 0x0E => some (.vmaxNan ⟨fD w, fA w, fB w, fTA w, fTB w, fRm w, vty w⟩, rm0 w ++ [(!(vty w).isFloat, .type)])
  | 0x0F => some (.vabs ⟨fD w, fA w, fTA w, fRm w, vty w⟩, b0 w ++ tb0 w ++ rm0 w)
  | 0x10 => some (.vabd ⟨fD w, fA w, fB w, fTA w, fTB w, fRm w, vty w⟩, rm0 w)
  | 0x11 => some (.vneg ⟨fD w, fA w, fTA w, fRm w, vty w⟩, b0 w ++ tb0 w ++ rm0 w)
  | 0x12 => some (.vsign ⟨fD w, fA w, fB w, fTA w, fTB w, fRm w, vty w⟩, rm0 w)
  | 0x13 => some (.vclamp ⟨fD w, fA w, fB w, fTA w, fTB w, fRm w, vty w⟩, rm0 w)
  | 0x14 => some (.vavg ⟨fD w, fA w, fB w, fTA w, fTB w, fRm w, vty w⟩, rm0 w)
  | 0x15 => some (.vmov ⟨fD w, fA w, fTA w, fRm w, vty w⟩, b0 w ++ tb0 w ++ rm0 w)
  | 0x16 => some (.vclz ⟨fD w, fA w, fTA w, vty w⟩, b0 w ++ tb0 w ++ [(fRm w != 0, .reserved)] ++ [((vty w).isFloat, .type)])
  | 0x17 => some (.vpopc ⟨fD w, fA w, fTA w, vty w⟩, b0 w ++ tb0 w ++ [(fRm w != 0, .reserved)] ++ [((vty w).isFloat, .type)])
  | 0x18 => some (.vscale ⟨fD w, fA w, fB w, fTA w, fTB w, fRm w, vty w⟩, rm0 w ++ [(!(vty w).isFloat, .type)])
  | 0x19 => some (.vgete ⟨fD w, fA w, fTA w, fRm w, vty w⟩, b0 w ++ tb0 w ++ rm0 w ++ [(!(vty w).isFloat, .type)])
  | 0x20 => some (.vand ⟨fD w, fA w, fB w, fTA w, fTB w, vty w⟩, [(fRm w != 0, .reserved)])
  | 0x21 => some (.vor ⟨fD w, fA w, fB w, fTA w, fTB w, vty w⟩, [(fRm w != 0, .reserved)])
  | 0x22 => some (.vxor ⟨fD w, fA w, fB w, fTA w, fTB w, vty w⟩, [(fRm w != 0, .reserved)])
  | 0x23 => some (.vnot ⟨fD w, fA w, fTA w, vty w⟩, b0 w ++ tb0 w ++ [(fRm w != 0, .reserved)])
  | 0x24 => some (.vshl ⟨fD w, fA w, fB w, fTA w, fTB w, vty w⟩, [(fRm w != 0, .reserved)] ++ [((vty w).isFloat, .type)])
  | 0x25 => some (.vshr ⟨fD w, fA w, fB w, fTA w, fTB w, vty w⟩, [(fRm w != 0, .reserved)] ++ [((vty w).isFloat, .type)])
  | 0x26 => some (.vsra ⟨fD w, fA w, fB w, fTA w, fTB w, vty w⟩, [(fRm w != 0, .reserved)] ++ [(!(vty w).isSigned, .type)])
  | 0x27 => some (.vshlI ⟨fD w, fA w, fB w, fTA w, vty w⟩, tb0 w ++ [(fRm w != 0, .reserved)] ++ [((vty w).isFloat, .type)] ++ [(decide ((vty w).bits ≤ (fB w).toNat), .imm)])
  | 0x28 => some (.vshrI ⟨fD w, fA w, fB w, fTA w, vty w⟩, tb0 w ++ [(fRm w != 0, .reserved)] ++ [((vty w).isFloat, .type)] ++ [(decide ((vty w).bits ≤ (fB w).toNat), .imm)])
  | 0x29 => some (.vsraI ⟨fD w, fA w, fB w, fTA w, vty w⟩, tb0 w ++ [(fRm w != 0, .reserved)] ++ [(!(vty w).isSigned, .type)] ++ [(decide ((vty w).bits ≤ (fB w).toNat), .imm)])
  | 0x2A => some (.vaddI ⟨fD w, fA w, fB w, fTA w, vty w⟩, tb0 w ++ [(fRm w != 0, .reserved)] ++ [((vty w).isFloat, .type)])
  | 0x2B => some (.vminI ⟨fD w, fA w, fB w, fTA w, vty w⟩, tb0 w ++ [(fRm w != 0, .reserved)] ++ [((vty w).isFloat, .type)])
  | 0x2C => some (.vmaxI ⟨fD w, fA w, fB w, fTA w, vty w⟩, tb0 w ++ [(fRm w != 0, .reserved)] ++ [((vty w).isFloat, .type)])
  | 0x30 => some (.vcmp (fC w) (fCC w) (fCA w) (fCB w) (vty w), [(fRm w != 0, .reserved), (fC w == 0, .dest), (!ccVector (fCC w), .code)])
  | 0x31 => some (.vcmpI (fC w) (fCC w) (fCA w) (fCB w) (vty w), [(fRm w != 0, .reserved), (fC w == 0, .dest), (!ccVector (fCC w), .code)])
  | 0x32 => some (.vsel (fD w) (fA w) (fB w) (fTA w) (fTB w) ((fM w).extractLsb' 0 3), [(fRm w != 0, .reserved)])
  | 0x33 => some (.vmask (fD w) ((fA w).extractLsb' 0 3), b0 w ++ m0 w ++ [((fA w).extractLsb' 3 2 != 0, .index)])
  | 0x34 => some (.vmaskw (fC w) ((fCC w).extractLsb' 0 2) (fCA w) (fCB w) (fM w), [(fC w == 0, .dest), ((fCC w).extractLsb' 2 2 != 0, .code), (fCC w == 1 && fM w != 0, .reserved)])
  | 0x38 => some (.vcvtRne (fD w) (fA w) (fTA w) (vty w) (ElemType.ofCode ((fB w).extractLsb' 2 3)), tb0 w ++ [(fRm w != 0, .reserved), ((fB w).extractLsb' 0 2 != 0, .reserved)])
  | 0x39 => some (.vcvtRz (fD w) (fA w) (fTA w) (vty w) (ElemType.ofCode ((fB w).extractLsb' 2 3)), tb0 w ++ [(fRm w != 0, .reserved), ((fB w).extractLsb' 0 2 != 0, .reserved)])
  | 0x3A => some (.vcvtRd (fD w) (fA w) (fTA w) (vty w) (ElemType.ofCode ((fB w).extractLsb' 2 3)), tb0 w ++ [(fRm w != 0, .reserved), ((fB w).extractLsb' 0 2 != 0, .reserved)])
  | 0x3B => some (.vcvtRu (fD w) (fA w) (fTA w) (vty w) (ElemType.ofCode ((fB w).extractLsb' 2 3)), tb0 w ++ [(fRm w != 0, .reserved), ((fB w).extractLsb' 0 2 != 0, .reserved)])
  | 0x3C => some (.vcvtSr (fD w) (fA w) (fTA w) (vty w) (ElemType.ofCode ((fB w).extractLsb' 2 3)), tb0 w ++ [(fRm w != 0, .reserved), ((fB w).extractLsb' 0 2 != 0, .reserved)])
  | 0x40 => some (.vredSum ⟨fD w, fA w, fTA w, fRm w, vty w⟩, b0 w ++ tb0 w ++ rm0 w)
  | 0x41 => some (.vredMax ⟨fD w, fA w, fTA w, fRm w, vty w⟩, b0 w ++ tb0 w ++ rm0 w)
  | 0x42 => some (.vredMin ⟨fD w, fA w, fTA w, fRm w, vty w⟩, b0 w ++ tb0 w ++ rm0 w)
  | 0x43 => some (.vredAmax ⟨fD w, fA w, fTA w, fRm w, vty w⟩, b0 w ++ tb0 w ++ rm0 w)
  | 0x44 => some (.vredSsq ⟨fD w, fA w, fTA w, fRm w, vty w⟩, b0 w ++ tb0 w ++ rm0 w)
  | 0x45 => some (.vscanSum ⟨fD w, fA w, fTA w, fRm w, vty w⟩, b0 w ++ tb0 w ++ rm0 w)
  | 0x46 => some (.vscanMax ⟨fD w, fA w, fTA w, fRm w, vty w⟩, b0 w ++ tb0 w ++ rm0 w)
  | 0x48 => some (.vexp2 ⟨fD w, fA w, fTA w, vty w⟩, b0 w ++ tb0 w ++ [(fRm w != 0, .reserved)] ++ [(!(vty w).isFloat, .type)])
  | 0x49 => some (.vlog2 ⟨fD w, fA w, fTA w, vty w⟩, b0 w ++ tb0 w ++ [(fRm w != 0, .reserved)] ++ [(!(vty w).isFloat, .type)])
  | 0x4A => some (.vrcp ⟨fD w, fA w, fTA w, vty w⟩, b0 w ++ tb0 w ++ [(fRm w != 0, .reserved)] ++ [(!(vty w).isFloat, .type)])
  | 0x4B => some (.vrsq ⟨fD w, fA w, fTA w, vty w⟩, b0 w ++ tb0 w ++ [(fRm w != 0, .reserved)] ++ [(!(vty w).isFloat, .type)])
  | 0x50 => some (.vperm ⟨fD w, fA w, fB w, fTA w, fTB w, vty w⟩, [(fRm w != 0, .reserved)])
  | 0x51 => some (.vpermRot ⟨fD w, fA w, fB w, fTA w, vty w⟩, tb0 w ++ [(fRm w != 0, .reserved)])
  | 0x52 => some (.vpermRev ⟨fD w, fA w, fTA w, vty w⟩, b0 w ++ tb0 w ++ [(fRm w != 0, .reserved)])
  | 0x53 => some (.vpermZip ⟨fD w, fA w, fB w, fTA w, fTB w, vty w⟩, [(fRm w != 0, .reserved)])
  | 0x54 => some (.vpermUnz ⟨fD w, fA w, fB w, fTA w, fTB w, vty w⟩, [(fRm w != 0, .reserved)])
  | 0x55 => some (.vbcast ⟨fD w, fA w, fB w, fTA w, vty w⟩, tb0 w ++ [(fRm w != 0, .reserved)])
  | 0x56 => some (.vsplat (fD w) (fA w) (vty w), b0 w ++ t0 w ++ [(fRm w != 0, .reserved)])
  | 0x57 => some (.vsplatI (fD w) (fI17 w), [])
  | 0x58 => some (.viota (fD w) (vty w), b0 w ++ t0 w ++ [(fA w != 0, .reserved), (fRm w != 0, .reserved), ((vty w).isFloat, .type)])
  | 0x5C => some (.pand ((fD w).extractLsb' 0 3) ((fA w).extractLsb' 0 3) ((fB w).extractLsb' 0 3) (fTA w) (fTB w), [(fM w != 0, .reserved), ((fD w).extractLsb' 3 2 != 0, .index), ((fA w).extractLsb' 3 2 != 0, .index), ((fB w).extractLsb' 3 2 != 0, .index), (fD w == 0, .dest)])
  | 0x5D => some (.por ((fD w).extractLsb' 0 3) ((fA w).extractLsb' 0 3) ((fB w).extractLsb' 0 3) (fTA w) (fTB w), [(fM w != 0, .reserved), ((fD w).extractLsb' 3 2 != 0, .index), ((fA w).extractLsb' 3 2 != 0, .index), ((fB w).extractLsb' 3 2 != 0, .index), (fD w == 0, .dest)])
  | 0x5E => some (.pnot ((fD w).extractLsb' 0 3) ((fA w).extractLsb' 0 3) (fTA w), b0 w ++ tb0 w ++ [(fM w != 0, .reserved), ((fD w).extractLsb' 3 2 != 0, .index), ((fA w).extractLsb' 3 2 != 0, .index), (fD w == 0, .dest)])
  | 0x5F => some (.pxor ((fD w).extractLsb' 0 3) ((fA w).extractLsb' 0 3) ((fB w).extractLsb' 0 3) (fTA w) (fTB w), [(fM w != 0, .reserved), ((fD w).extractLsb' 3 2 != 0, .index), ((fA w).extractLsb' 3 2 != 0, .index), ((fB w).extractLsb' 3 2 != 0, .index), (fD w == 0, .dest)])
  | 0x60 => some (.vldW ⟨fD w, fVD w, fX0 w, fX1 w⟩, [(fZ0 w, .reserved)])
  | 0x61 => some (.vldC ⟨fD w, fVD w, fX0 w, fX1 w⟩, [(fZ0 w, .reserved)])
  | 0x62 => some (.vldN ⟨fD w, fVD w, fX0 w, fX1 w⟩, [(fZ0 w, .reserved)])
  | 0x63 => some (.vstW ⟨fD w, fVD w, fX0 w, fX1 w⟩, [(fZ0 w, .reserved)])
  | 0x64 => some (.vstN ⟨fD w, fVD w, fX0 w, fX1 w⟩, [(fZ0 w, .reserved)])
  | 0x65 => some (.vgthW ⟨fD w, fVD w, fX0 w, fP w⟩, [(fLow3 w != 0, .reserved)])
  | 0x66 => some (.vgthC ⟨fD w, fVD w, fX0 w, fP w⟩, [(fLow3 w != 0, .reserved)])
  | 0x67 => some (.vgthN ⟨fD w, fVD w, fX0 w, fP w⟩, [(fLow3 w != 0, .reserved)])
  | 0x68 => some (.vsctW ⟨fD w, fVD w, fX0 w, fP w⟩, [(fLow3 w != 0, .reserved)])
  | 0x69 => some (.vsctN ⟨fD w, fVD w, fX0 w, fP w⟩, [(fLow3 w != 0, .reserved)])
  | 0x6A => some (.pld (fC w) (fVD w) (fX0 w) (fX1 w), [(fZ0 w, .reserved), ((fD w).extractLsb' 0 2 != 0, .reserved), (fC w == 0, .dest)])
  | 0x6B => some (.pst (fC w) (fVD w) (fX0 w) (fX1 w), [(fZ0 w, .reserved), ((fD w).extractLsb' 0 2 != 0, .reserved)])
  | 0x70 => some (.vconfGap (fC w) (fCA w) (fM w), [(fCC w != 0, .reserved), (fCB w != 0, .reserved), (fC w == 0, .dest)])
  | 0x71 => some (.vconfDrift (fC w) (fCA w) (fCB w) (fM w), [(fCC w != 0, .reserved), (fC w == 0, .dest)])
  | 0x78 => some (.vsig (fS w), cmd0 w [.d1, .d2, .n, .q])
  | 0x79 => some (.vwaitk (fS w), cmd0 w [.d1, .d2, .n, .q])
  | _ => none

/-- MTX, ENG 2 (R50). A nonzero D2[5] of MRDV is an index beyond its set, by the model's choice between two conditions of R53: log entry 86. -/
def decodeMtx (op : Nat) (w : IWord) : Option Row :=
  match op with
  | 0x01 => some (.mzero (fS w), cmd0 w [.d1, .d2, .n, .q])
  | 0x02 => some (.mzeroAll, cmd0 w [.d1, .d2, .n, .s, .q])
  | 0x03 => some (.manch ((fD w).extractLsb' 0 4) (fA w), [((fD w).extractLsb' 4 1 != 0, .index), (fI12 w != 0, .reserved)])
  | 0x04 => some (.manchI ((fD w).extractLsb' 0 4) (fI12 w), [((fD w).extractLsb' 4 1 != 0, .index), (fA w != 0, .reserved)])
  | 0x08 => some (.mmaS8 (fD1 w) (fD2 w) (fN w) (fS w) ((fQ w).getLsbD 0), [((fQ w).extractLsb' 1 2 != 0, .reserved)])
  | 0x09 => some (.mmaN8 (fD1 w) (fD2 w) (fN w) (fS w) ((fQ w).getLsbD 0), [((fQ w).extractLsb' 1 2 != 0, .reserved)])
  | 0x0A => some (.mmaBfx8 (fD1 w) (fD2 w) (fN w) (fS w) ((fQ w).getLsbD 0), [((fQ w).extractLsb' 1 2 != 0, .reserved)])
  | 0x0B => some (.mmaS16 (fD1 w) (fD2 w) (fN w) (fS w) ((fQ w).getLsbD 0), [((fQ w).extractLsb' 1 2 != 0, .reserved)])
  | 0x0C => some (.mmaN16 (fD1 w) (fD2 w) (fN w) (fS w) ((fQ w).getLsbD 0), [((fQ w).extractLsb' 1 2 != 0, .reserved)])
  | 0x0D => some (.mmaBfx16 (fD1 w) (fD2 w) (fN w) (fS w) ((fQ w).getLsbD 0), [((fQ w).extractLsb' 1 2 != 0, .reserved)])
  | 0x10 => some (.mmaZS8 (fD1 w) (fD2 w) (fN w) (fS w) ((fQ w).getLsbD 0), [((fQ w).extractLsb' 1 2 != 0, .reserved)])
  | 0x11 => some (.mmaZN8 (fD1 w) (fD2 w) (fN w) (fS w) ((fQ w).getLsbD 0), [((fQ w).extractLsb' 1 2 != 0, .reserved)])
  | 0x12 => some (.mmaZS16 (fD1 w) (fD2 w) (fN w) (fS w) ((fQ w).getLsbD 0), [((fQ w).extractLsb' 1 2 != 0, .reserved)])
  | 0x13 => some (.mmaZN16 (fD1 w) (fD2 w) (fN w) (fS w) ((fQ w).getLsbD 0), [((fQ w).extractLsb' 1 2 != 0, .reserved)])
  | 0x18 => some (.mgoS8 (fD1 w) (fD2 w) (fN w) (fS w) ((fQ w).getLsbD 0), [((fQ w).extractLsb' 1 2 != 0, .reserved)])
  | 0x19 => some (.mgoN8 (fD1 w) (fD2 w) (fN w) (fS w) ((fQ w).getLsbD 0), [((fQ w).extractLsb' 1 2 != 0, .reserved)])
  | 0x1A => some (.mgoBfx8 (fD1 w) (fD2 w) (fN w) (fS w) ((fQ w).getLsbD 0), [((fQ w).extractLsb' 1 2 != 0, .reserved)])
  | 0x1B => some (.mgoS16 (fD1 w) (fD2 w) (fN w) (fS w) ((fQ w).getLsbD 0), [((fQ w).extractLsb' 1 2 != 0, .reserved)])
  | 0x1C => some (.mgoN16 (fD1 w) (fD2 w) (fN w) (fS w) ((fQ w).getLsbD 0), [((fQ w).extractLsb' 1 2 != 0, .reserved)])
  | 0x1D => some (.mgoBfx16 (fD1 w) (fD2 w) (fN w) (fS w) ((fQ w).getLsbD 0), [((fQ w).extractLsb' 1 2 != 0, .reserved)])
  | 0x20 => some (.mpackPi (fD1 w) (fD2 w) (fN w) (fS w), cmd0 w [.q])
  | 0x21 => some (.mpackPb (fD1 w) (fD2 w) (fN w) (fS w), cmd0 w [.q])
  | 0x28 => some (.mrdF32 (fD1 w) (fN w) (fS w) (fQ w), cmd0 w [.d2] ++ [(decide (4 < (fQ w).toNat), .code)])
  | 0x29 => some (.mrdBf16 (fD1 w) (fN w) (fS w) (fQ w), cmd0 w [.d2] ++ [(decide (4 < (fQ w).toNat), .code)])
  | 0x2A => some (.mrdBfx8 (fD1 w) (fN w) (fS w) (fQ w), cmd0 w [.d2] ++ [(decide (4 < (fQ w).toNat), .code)])
  | 0x2B => some (.mrdS8 (fD1 w) (fN w) (fS w) (fQ w), cmd0 w [.d2] ++ [(decide (4 < (fQ w).toNat), .code)])
  | 0x2C => some (.mrdN8 (fD1 w) (fN w) (fS w) (fQ w), cmd0 w [.d2] ++ [(decide (4 < (fQ w).toNat), .code)])
  | 0x2D => some (.mrdS32 (fD1 w) (fN w) (fS w) (fQ w), cmd0 w [.d2] ++ [(decide (4 < (fQ w).toNat), .code)])
  | 0x30 => some (.mrdvF32 ((fD2 w).extractLsb' 0 5) (fN w) (fS w) (fQ w), cmd0 w [.d1] ++ [((fD2 w).extractLsb' 5 1 != 0, .index), (decide (4 < (fQ w).toNat), .code)] ++ [((fD2 w).extractLsb' 0 5 == 31, .dest)])
  | 0x31 => some (.mrdvBf16 ((fD2 w).extractLsb' 0 5) (fN w) (fS w) (fQ w), cmd0 w [.d1] ++ [((fD2 w).extractLsb' 5 1 != 0, .index), (decide (4 < (fQ w).toNat), .code)])
  | 0x32 => some (.mrdvS32 ((fD2 w).extractLsb' 0 5) (fN w) (fS w) (fQ w), cmd0 w [.d1] ++ [((fD2 w).extractLsb' 5 1 != 0, .index), (decide (4 < (fQ w).toNat), .code)] ++ [((fD2 w).extractLsb' 0 5 == 31, .dest)])
  | 0x38 => some (.msta (fD1 w) (fN w) (fS w), cmd0 w [.d2, .q])
  | 0x39 => some (.mlda (fD1 w) (fN w) (fS w), cmd0 w [.d2, .q])
  | 0x3C => some (.mstat (fD1 w) (fS w), cmd0 w [.d2, .n, .q])
  | 0x3E => some (.msig (fS w), cmd0 w [.d1, .d2, .n, .q])
  | 0x3F => some (.mwaitk (fS w), cmd0 w [.d1, .d2, .n, .q])
  | _ => none

/-- LDQ, ENG 3 (R51). -/
def decodeLdq (op : Nat) (w : IWord) : Option Row :=
  match op with
  | 0x01 => some (.cpinW (fD1 w) (fD2 w) (fN w) (fS w) (fQ w), cmd0 w [] ++ [(decide (4 < (fQ w).toNat), .code)])
  | 0x02 => some (.cpinN (fD1 w) (fD2 w) (fN w) (fS w) (fQ w), cmd0 w [] ++ [(decide (4 < (fQ w).toNat), .code)])
  | 0x03 => some (.cpinWNt (fD1 w) (fD2 w) (fN w) (fS w) (fQ w), cmd0 w [] ++ [(decide (4 < (fQ w).toNat), .code)])
  | 0x04 => some (.cpinNNt (fD1 w) (fD2 w) (fN w) (fS w) (fQ w), cmd0 w [] ++ [(decide (4 < (fQ w).toNat), .code)])
  | 0x05 => some (.cpgathW (fD1 w) (fD2 w) (fN w) (fS w) (fQ w), cmd0 w [] ++ [(decide (4 < (fQ w).toNat), .code)])
  | 0x06 => some (.cpgathN (fD1 w) (fD2 w) (fN w) (fS w) (fQ w), cmd0 w [] ++ [(decide (4 < (fQ w).toNat), .code)])
  | 0x07 => some (.cpgathWNt (fD1 w) (fD2 w) (fN w) (fS w) (fQ w), cmd0 w [] ++ [(decide (4 < (fQ w).toNat), .code)])
  | 0x08 => some (.cpgathNNt (fD1 w) (fD2 w) (fN w) (fS w) (fQ w), cmd0 w [] ++ [(decide (4 < (fQ w).toNat), .code)])
  | 0x09 => some (.cpplaneW (fD1 w) (fD2 w) (fN w) (fS w) (fQ w), cmd0 w [] ++ [(decide (4 < (fQ w).toNat), .code)])
  | 0x0A => some (.cpplaneN (fD1 w) (fD2 w) (fN w) (fS w) (fQ w), cmd0 w [] ++ [(decide (4 < (fQ w).toNat), .code)])
  | 0x0B => some (.cpplaneWNt (fD1 w) (fD2 w) (fN w) (fS w) (fQ w), cmd0 w [] ++ [(decide (4 < (fQ w).toNat), .code)])
  | 0x0C => some (.cpplaneNNt (fD1 w) (fD2 w) (fN w) (fS w) (fQ w), cmd0 w [] ++ [(decide (4 < (fQ w).toNat), .code)])
  | 0x0D => some (.cpfillW (fD1 w) (fN w) (fS w), cmd0 w [.d2, .q])
  | 0x0E => some (.cpfillN (fD1 w) (fN w) (fS w), cmd0 w [.d2, .q])
  | 0x0F => some (.cpmovW (fD1 w) (fD2 w) (fN w) (fS w), cmd0 w [.q])
  | 0x10 => some (.cpmovN (fD1 w) (fD2 w) (fN w) (fS w), cmd0 w [.q])
  | 0x11 => some (.cppre (fD1 w) (fN w), cmd0 w [.d2, .s, .q])
  | 0x20 => some (.lsig (fS w), cmd0 w [.d1, .d2, .n, .q])
  | 0x21 => some (.lwaitk (fS w), cmd0 w [.d1, .d2, .n, .q])
  | 0x22 => some (.lbwait (fS w), cmd0 w [.d1, .d2, .n, .q])
  | _ => none

/-- STQ, ENG 4 (R51). -/
def decodeStq (op : Nat) (w : IWord) : Option Row :=
  match op with
  | 0x01 => some (.cpoutW (fD1 w) (fD2 w) (fN w) (fS w), cmd0 w [.q])
  | 0x02 => some (.cpoutC (fD1 w) (fD2 w) (fN w) (fS w), cmd0 w [.q])
  | 0x03 => some (.cpoutN (fD1 w) (fD2 w) (fN w) (fS w), cmd0 w [.q])
  | 0x04 => some (.cpscatW (fD1 w) (fD2 w) (fN w) (fS w), cmd0 w [.q])
  | 0x05 => some (.cpscatC (fD1 w) (fD2 w) (fN w) (fS w), cmd0 w [.q])
  | 0x06 => some (.cpscatN (fD1 w) (fD2 w) (fN w) (fS w), cmd0 w [.q])
  | 0x07 => some (.cpdeplW (fD1 w) (fD2 w) (fN w) (fS w), cmd0 w [.q])
  | 0x08 => some (.cpdeplC (fD1 w) (fD2 w) (fN w) (fS w), cmd0 w [.q])
  | 0x09 => some (.cpdeplN (fD1 w) (fD2 w) (fN w) (fS w), cmd0 w [.q])
  | 0x0A => some (.cpwb (fD1 w) (fN w) (fS w), cmd0 w [.d2, .q])
  | 0x0B => some (.cpinv (fD1 w) (fN w) (fS w), cmd0 w [.d2, .q])
  | 0x20 => some (.ssig (fS w), cmd0 w [.d1, .d2, .n, .q])
  | 0x21 => some (.swaitk (fS w), cmd0 w [.d1, .d2, .n, .q])
  | 0x22 => some (.sbwait (fS w), cmd0 w [.d1, .d2, .n, .q])
  | _ => none

/-- PRT, ENG 5 (R52, R245). -/
def decodePrt (op : Nat) (w : IWord) : Option Row :=
  match op with
  | 0x01 => some (.note (fD1 w) (fD2 w) (fS w), cmd0 w [.n, .q])
  | 0x02 => some (.noteG (fD1 w) (fD2 w) (fS w), cmd0 w [.n, .q])
  | 0x08 => some (.land (fD1 w) (fS w), cmd0 w [.d2, .n, .q])
  | 0x09 => some (.unland, cmd0 w [.d1, .d2, .n, .s, .q])
  | 0x0A => some (.unlandAll, cmd0 w [.d1, .d2, .n, .s, .q])
  | 0x0B => some (.decl, cmd0 w [.d1, .d2, .n, .s, .q])
  | 0x0C => some (.declAll, cmd0 w [.d1, .d2, .n, .s, .q])
  | 0x10 => some (.nwait (fD1 w), cmd0 w [.d2, .n, .s, .q])
  | 0x11 => some (.nwaitN (fD1 w), cmd0 w [.d2, .n, .s, .q])
  | 0x12 => some (.nwaitTag (fD1 w), cmd0 w [.d2, .n, .s, .q])
  | 0x13 => some (.landq (fD1 w), cmd0 w [.d2, .n, .s, .q])
  | 0x18 => some (.ppol (fD1 w), cmd0 w [.d2, .n, .s, .q])
  | 0x19 => some (.ppace (fD1 w), cmd0 w [.d2, .n, .s, .q])
  | 0x1A => some (.pgrp (fD1 w), cmd0 w [.d2, .n, .s, .q])
  | 0x1B => some (.pclass, cmd0 w [.d1, .d2, .n, .s, .q])
  | 0x20 => some (.rels, cmd0 w [.d1, .d2, .n, .s, .q])
  | 0x21 => some (.relsTag, cmd0 w [.d1, .d2, .n, .s, .q])
  | 0x22 => some (.retend, cmd0 w [.d1, .d2, .n, .s, .q])
  | 0x23 => some (.retendTag, cmd0 w [.d1, .d2, .n, .s, .q])
  | 0x24 => some (.moorq (fD1 w), cmd0 w [.d2, .n, .s, .q])
  | 0x25 => some (.moorqTag (fD1 w), cmd0 w [.d2, .n, .s, .q])
  | 0x38 => some (.psig (fS w), cmd0 w [.d1, .d2, .n, .q])
  | 0x39 => some (.pwaitk (fS w), cmd0 w [.d1, .d2, .n, .q])
  | 0x3A => some (.pbwait (fS w), cmd0 w [.d1, .d2, .n, .q])
  | _ => none

/-- KVC, ENG 6 (R52, R369). -/
def decodeKvc (op : Nat) (w : IWord) : Option Row :=
  match op with
  | 0x01 => some (.kvnew (fD1 w), cmd0 w [.d2, .n, .s, .q])
  | 0x02 => some (.kvappend (fD1 w) (fD2 w), cmd0 w [.n, .s, .q])
  | 0x03 => some (.kvexit (fD1 w), cmd0 w [.d2, .n, .s, .q])
  | 0x04 => some (.kvfill (fD1 w) (fD2 w), cmd0 w [.n, .s, .q])
  | 0x05 => some (.kvflush, cmd0 w [.d1, .d2, .n, .s, .q])
  | 0x06 => some (.kvfork (fD1 w), cmd0 w [.d2, .n, .s, .q])
  | 0x07 => some (.kvfree, cmd0 w [.d1, .d2, .n, .s, .q])
  | 0x08 => some (.kvtrim (fD1 w), cmd0 w [.d2, .n, .s, .q])
  | 0x10 => some (.kvmapK (fD1 w) (fQ w), cmd0 w [.d2, .n, .s] ++ [(decide (4 < (fQ w).toNat), .code)])
  | 0x11 => some (.kvmapV (fD1 w) (fQ w), cmd0 w [.d2, .n, .s] ++ [(decide (4 < (fQ w).toNat), .code)])
  | 0x12 => some (.kvlen (fD1 w), cmd0 w [.d2, .n, .s, .q])
  | 0x13 => some (.kvpol, cmd0 w [.d1, .d2, .n, .s, .q])
  | 0x14 => some (.kvstat (fD1 w), cmd0 w [.d2, .n, .s, .q])
  | 0x15 => some (.kvowed (fD1 w), cmd0 w [.d2, .n, .s, .q])
  | 0x16 => some (.kvwait, cmd0 w [.d1, .d2, .n, .s, .q])
  | 0x17 => some (.kvbft (fD1 w), cmd0 w [.d2, .n, .s, .q])
  | 0x20 => some (.kvfenceDie, cmd0 w [.d1, .d2, .n, .s, .q])
  | 0x21 => some (.kvfencePkg, cmd0 w [.d1, .d2, .n, .s, .q])
  | _ => none

/-- The row of an engine's OP (R49 to R52). -/
def decodeEngine (eng op : Nat) (w : IWord) : Option Row :=
  match eng with
  | 1 => decodeVec op w
  | 2 => decodeMtx op w
  | 3 => decodeLdq op w
  | 4 => decodeStq op w
  | 5 => decodePrt op w
  | 6 => decodeKvc op w
  | _ => none

/-- The row of an (ENG, OP) point. -/
noncomputable def decodeRow (eng op : Nat) (w : IWord) : Option Row :=
  if eng = 0 then decodeCtl op w else decodeEngine eng op w

/-- The word of the base command of an X form: its engine, BOP and the first word's fields (R40). -/
def xBaseWord (w w2 : IWord) : IWord := fTgt w ++ (w2.extractLsb' 25 7) ++ fRest w

def xRegsOf (w2 : IWord) : XRegs :=
  ⟨w2.extractLsb' 20 5, w2.extractLsb' 15 5, w2.extractLsb' 10 5, w2.extractLsb' 5 5, w2.extractLsb' 0 5⟩

/-- An X form (R40). -/
noncomputable def decodeX (w w2 : IWord) : Except IllSub Instr :=
  match decodeEngine (fTgt w).toNat (w2.extractLsb' 25 7).toNat (xBaseWord w w2) with
  | none => .error .xform
  | some (base, bad) =>
    match xUse base with
    | none => .error .xform
    | some u => Row.finish (.xForm base (xRegsOf w2), (!xUnusedZero u (xRegsOf w2), .reserved) :: bad)

/-- The conditions of R53 that reject a long form, by 16 · TGT + SUB (R41). A nonzero D1[5] or D2[5] is a reserved field, by the model's choice between two
conditions of R53: log entry 86. -/
def decodeLongBad (ts : Nat) (w : IWord) : Option (List (Bool × IllSub)) :=
  match ts with
  | 0x01 => some (cmd0 w [.d2, .n, .s, .q] ++ [((fD1 w).extractLsb' 5 1 != 0, .reserved)])
  | 0x02 => some (cmd0 w [.d2, .n, .s, .q] ++ [((fD1 w).extractLsb' 5 1 != 0, .reserved)])
  | 0x03 => some (cmd0 w [.n, .s, .q] ++ [((fD1 w).extractLsb' 5 1 != 0, .reserved), ((fD2 w).extractLsb' 5 1 != 0, .reserved)])
  | 0x04 => some (cmd0 w [.n, .s, .q] ++ [((fD1 w).extractLsb' 5 1 != 0, .reserved), ((fD2 w).extractLsb' 5 1 != 0, .reserved)])
  | 0x05 => some (cmd0 w [.n, .s, .q] ++ [((fD1 w).extractLsb' 5 1 != 0, .reserved), ((fD2 w).extractLsb' 5 1 != 0, .reserved)])
  | 0x06 => some (cmd0 w [.n, .s, .q] ++ [((fD1 w).extractLsb' 5 1 != 0, .reserved), ((fD2 w).extractLsb' 5 1 != 0, .reserved)])
  | 0x11 => some (cmd0 w [.d2, .n, .s, .q] ++ [((fD1 w).extractLsb' 5 1 != 0, .reserved)])
  | 0x31 => some (cmd0 w [] ++ [(decide (4 < (fQ w).toNat), .code)])
  | 0x32 => some (cmd0 w [.d2, .q])
  | 0x33 => some (cmd0 w [.d2, .q])
  | 0x41 => some (cmd0 w [.q])
  | 0x51 => some (cmd0 w [.n, .q])
  | 0x52 => some (cmd0 w [.d2, .n, .q])
  | 0x53 => some (cmd0 w [.d1, .d2, .n, .s, .q])
  | 0x54 => some (cmd0 w [.d1, .d2, .n, .s, .q])
  | 0x55 => some (cmd0 w [.d2, .n, .s, .q])
  | 0x56 => some (cmd0 w [.d1, .d2, .n, .s, .q])
  | 0x61 => some (cmd0 w [.d1, .d2, .n, .s, .q])
  | 0x62 => some (cmd0 w [.d2, .n, .s, .q])
  | _ => none

/-- The instruction of a long form. -/
noncomputable def decodeLongInstr (ts : Nat) (w imm : IWord) : Option Instr :=
  match ts with
  | 0x01 => some (.limmL ((fD1 w).extractLsb' 0 5) imm)
  | 0x02 => some (.limmLh ((fD1 w).extractLsb' 0 5) imm)
  | 0x03 => some (.addiL ((fD1 w).extractLsb' 0 5) ((fD2 w).extractLsb' 0 5) imm)
  | 0x04 => some (.andiL ((fD1 w).extractLsb' 0 5) ((fD2 w).extractLsb' 0 5) imm)
  | 0x05 => some (.oriL ((fD1 w).extractLsb' 0 5) ((fD2 w).extractLsb' 0 5) imm)
  | 0x06 => some (.xoriL ((fD1 w).extractLsb' 0 5) ((fD2 w).extractLsb' 0 5) imm)
  | 0x11 => some (.vsplatL ((fD1 w).extractLsb' 0 5) imm)
  | 0x31 => some (.cpinNL (fD1 w) (fD2 w) (fN w) (fS w) (fQ w) imm)
  | 0x32 => some (.cpfillWL (fD1 w) (fN w) (fS w) imm)
  | 0x33 => some (.cpfillNL (fD1 w) (fN w) (fS w) imm)
  | 0x41 => some (.cpoutNL (fD1 w) (fD2 w) (fN w) (fS w) imm)
  | 0x51 => some (.noteL (fD1 w) (fD2 w) (fS w) imm)
  | 0x52 => some (.landL (fD1 w) (fS w) imm)
  | 0x53 => some (.unlandL imm)
  | 0x54 => some (.declL imm)
  | 0x55 => some (.nwaitL (fD1 w) imm)
  | 0x56 => some (.retendL imm)
  | 0x61 => some (.kvpolL imm)
  | 0x62 => some (.kvtrimL (fD1 w) imm)
  | _ => none

/-- The long forms of R41 by 16 · TGT + SUB. -/
noncomputable def decodeLong (ts : Nat) (w imm : IWord) : Option Row :=
  match decodeLongInstr ts w imm, decodeLongBad ts w with
  | some i, some bad => some (i, bad)
  | _, _ => none

/-- The instruction of a word, with the word after it for a WIDE pair (R34, R40). -/
noncomputable def decode (w w2 : IWord) : Except IllSub Instr :=
  if fEng w = 7 then
    if fSub w = 0 ∧ 2 ≤ (fTgt w).toNat ∧ (fTgt w).toNat ≤ 6 then decodeX w w2
    else match decodeLong (16 * (fTgt w).toNat + (fSub w).toNat) w w2 with
      | some r => r.finish
      | none => .error .wide
  else match decodeRow (fEng w).toNat (fOp w).toNat w with
    | some r => r.finish
    | none => .error .op

/-- The condition of R53 that rejects a word, with the word after it for a WIDE pair: what the decoder answers, without the instruction. -/
def rejects (w w2 : IWord) : Option IllSub :=
  if fEng w = 7 then
    if fSub w = 0 ∧ 2 ≤ (fTgt w).toNat ∧ (fTgt w).toNat ≤ 6 then
      match decodeEngine (fTgt w).toNat (w2.extractLsb' 25 7).toNat (xBaseWord w w2) with
      | none => some .xform
      | some (base, bad) =>
        match xUse base with
        | none => some .xform
        | some u => firstIll ((!xUnusedZero u (xRegsOf w2), .reserved) :: bad)
    else match decodeLongBad (16 * (fTgt w).toNat + (fSub w).toNat) w with
      | some bad => firstIll bad
      | none => some .wide
  else if fEng w = 0 then
    match decodeCtlBad (fOp w).toNat w with
    | some bad => firstIll bad
    | none => some .op
  else match decodeEngine (fEng w).toNat (fOp w).toNat w with
    | some (_, bad) => firstIll bad
    | none => some .op

/-! ## The encoder -/

def bit (b : Bool) : BitVec 1 := BitVec.ofBool b
def encRest (eng : BitVec 3) (op : BitVec 7) (r : BitVec 22) : IWord := eng ++ op ++ r
def encRRR (eng : BitVec 3) (op : BitVec 7) (d a b : BitVec 5) (ta tb : Bool) (m : BitVec 5) : IWord :=
  eng ++ op ++ d ++ a ++ b ++ bit ta ++ bit tb ++ m
def encRRI (eng : BitVec 3) (op : BitVec 7) (d a : BitVec 5) (i : BitVec 12) : IWord := eng ++ op ++ d ++ a ++ i
def encRI17 (eng : BitVec 3) (op : BitVec 7) (d : BitVec 5) (i : BitVec 17) : IWord := eng ++ op ++ d ++ i
def encBT (eng : BitVec 3) (op : BitVec 7) (b : BitVec 2) (off : BitVec 20) : IWord := eng ++ op ++ b ++ off
def encCMP (eng : BitVec 3) (op : BitVec 7) (c : BitVec 3) (cc : BitVec 4) (a b m : BitVec 5) : IWord :=
  eng ++ op ++ c ++ cc ++ a ++ b ++ m
def encCMPI (eng : BitVec 3) (op : BitVec 7) (c : BitVec 3) (cc : BitVec 4) (a : BitVec 5) (i : BitVec 10) : IWord :=
  eng ++ op ++ c ++ cc ++ a ++ i
def encCMD (eng : BitVec 3) (op : BitVec 7) (d1 d2 : BitVec 6) (n : BitVec 3) (s : BitVec 4) (q : BitVec 3) : IWord :=
  eng ++ op ++ d1 ++ d2 ++ n ++ s ++ q
def encVM (eng : BitVec 3) (op : BitVec 7) (v : BitVec 5) (d : BitVec 6) (x0 x1 : BitVec 5) : IWord :=
  eng ++ op ++ v ++ d ++ x0 ++ x1 ++ 0#1
def encVG (eng : BitVec 3) (op : BitVec 7) (v : BitVec 5) (d : BitVec 6) (vi : BitVec 5) (p : BitVec 3) : IWord :=
  eng ++ op ++ v ++ d ++ vi ++ p ++ 0#3
def encRD (eng : BitVec 3) (op : BitVec 7) (d : BitVec 6) (a : BitVec 5) : IWord := eng ++ op ++ d ++ a ++ 0#11
/-- The first word of a WIDE pair (R40). -/
def encWide (tgt : BitVec 3) (sub : BitVec 4) (d1 d2 : BitVec 6) (n : BitVec 3) (s : BitVec 4) (q : BitVec 3) : IWord :=
  7#3 ++ tgt ++ sub ++ d1 ++ d2 ++ n ++ s ++ q

/-- The word of an instruction that is one word. -/
def encodeWord : Instr → Option IWord
  | .add d a b => some (encRRR 0 0x01 d a b false false 0)
  | .sub d a b => some (encRRR 0 0x02 d a b false false 0)
  | .and d a b => some (encRRR 0 0x03 d a b false false 0)
  | .or d a b => some (encRRR 0 0x04 d a b false false 0)
  | .xor d a b => some (encRRR 0 0x05 d a b false false 0)
  | .sll d a b => some (encRRR 0 0x06 d a b false false 0)
  | .srl d a b => some (encRRR 0 0x07 d a b false false 0)
  | .sra d a b => some (encRRR 0 0x08 d a b false false 0)
  | .mul d a b => some (encRRR 0 0x09 d a b false false 0)
  | .mulhS d a b => some (encRRR 0 0x0A d a b false false 0)
  | .mulhN d a b => some (encRRR 0 0x0B d a b false false 0)
  | .divS d a b => some (encRRR 0 0x0C d a b false false 0)
  | .divN d a b => some (encRRR 0 0x0D d a b false false 0)
  | .remS d a b => some (encRRR 0 0x0E d a b false false 0)
  | .remN d a b => some (encRRR 0 0x0F d a b false false 0)
  | .minS d a b => some (encRRR 0 0x10 d a b false false 0)
  | .minN d a b => some (encRRR 0 0x11 d a b false false 0)
  | .maxS d a b => some (encRRR 0 0x12 d a b false false 0)
  | .maxN d a b => some (encRRR 0 0x13 d a b false false 0)
  | .clz d a => some (encRRR 0 0x14 d a 0 false false 0)
  | .popc d a => some (encRRR 0 0x15 d a 0 false false 0)
  | .sel d a b c => some (encRRR 0 0x16 d a b false false (0#2 ++ c))
  | .addi d a imm => some (encRRI 0 0x18 d a imm)
  | .andi d a imm => some (encRRI 0 0x19 d a imm)
  | .ori d a imm => some (encRRI 0 0x1A d a imm)
  | .xori d a imm => some (encRRI 0 0x1B d a imm)
  | .slli d a k => some (encRRI 0 0x1C d a (0#6 ++ k))
  | .srli d a k => some (encRRI 0 0x1D d a (0#6 ++ k))
  | .srai d a k => some (encRRI 0 0x1E d a (0#6 ++ k))
  | .limm d imm => some (encRI17 0 0x20 d imm)
  | .limmSh d imm => some (encRI17 0 0x21 d imm)
  | .cmp c cc a b => some (encCMP 0 0x22 c cc a b 0)
  | .cmpi c cc a imm => some (encCMPI 0 0x23 c cc a imm)
  | .btgt b off => some (encBT 0 0x24 b off)
  | .btgtX b a imm => some (encRRI 0 0x25 (0#3 ++ b) a imm)
  | .brc b c => some (encBT 0 0x26 b (c ++ 0#1 ++ 0#16))
  | .brcF b c => some (encBT 0 0x26 b (c ++ 1#1 ++ 0#16))
  | .br b => some (encBT 0 0x27 b 0)
  | .brl b l => some (encBT 0 0x28 b (l ++ 0#18))
  | .ldBS d a imm => some (encRRI 0 0x30 d a imm)
  | .ldBN d a imm => some (encRRI 0 0x31 d a imm)
  | .ldHS d a imm => some (encRRI 0 0x32 d a imm)
  | .ldHN d a imm => some (encRRI 0 0x33 d a imm)
  | .ldWS d a imm => some (encRRI 0 0x34 d a imm)
  | .ldWN d a imm => some (encRRI 0 0x35 d a imm)
  | .ldD d a imm => some (encRRI 0 0x36 d a imm)
  | .stB d a imm => some (encRRI 0 0x38 d a imm)
  | .stH d a imm => some (encRRI 0 0x39 d a imm)
  | .stW d a imm => some (encRRI 0 0x3A d a imm)
  | .stD d a imm => some (encRRI 0 0x3B d a imm)
  | .vany c p => some (encCMP 0 0x3C c 0 (0#2 ++ p) 0 0)
  | .vall c p => some (encCMP 0 0x3D c 0 (0#2 ++ p) 0 0)
  | .widf d k => some (encRRI 0 0x40 d 0 (0#9 ++ k))
  | .srr d k => some (encRRI 0 0x41 d 0 k)
  | .srw a k => some (encRRI 0 0x42 0 a k)
  | .sig t => some (encCMD 0 0x43 0 0 0 t 0)
  | .waitk t => some (encCMD 0 0x44 0 0 0 t 0)
  | .bwait slot => some (encCMD 0 0x45 0 0 0 slot 0)
  | .qmark => some (encRest 0 0x46 0)
  | .drain mask => some (encRRI 0 0x47 0 0 (0#6 ++ mask))
  | .qcancel d mask => some (encRRI 0 0x48 d 0 (0#6 ++ mask))
  | .safept => some (encRest 0 0x49 0)
  | .fence scope => some (encRRI 0 0x4A 0 0 (0#9 ++ scope))
  | .trap imm => some (encRRI 0 0x4B 0 0 imm)
  | .eret => some (encRest 0 0x4C 0)
  | .halt => some (encRest 0 0x4D 0)
  | .dld dn a => some (encRD 0 0x50 dn a)
  | .nld n a => some (encRD 0 0x51 (0#3 ++ n) a)
  | .lset l a => some (encRRI 0 0x52 (0#1 ++ l) a 0)
  | .lseti l imm => some (encRI17 0 0x53 (0#1 ++ l) imm)
  | .fladd a f m => some (encRRI 0 0x58 0 a (0#1 ++ m ++ f))
  | .flset d a f => some (encRRI 0 0x59 d a (0#4 ++ f))
  | .flwait d a f => some (encRRI 0 0x5A d a (0#4 ++ f))
  | .waita d a b dbl => some (encRRR 0 0x5B d a b false false (0#3 ++ 1#1 ++ bit dbl))
  | .amoAdd d a b dbl => some (encRRR 0 0x60 d a b false false (0#3 ++ 1#1 ++ bit dbl))
  | .amoMin d a b dbl uns => some (encRRR 0 0x61 d a b false false (0#2 ++ bit uns ++ 1#1 ++ bit dbl))
  | .amoMax d a b dbl uns => some (encRRR 0 0x62 d a b false false (0#2 ++ bit uns ++ 1#1 ++ bit dbl))
  | .amoAnd d a b dbl => some (encRRR 0 0x63 d a b false false (0#3 ++ 1#1 ++ bit dbl))
  | .amoOr d a b dbl => some (encRRR 0 0x64 d a b false false (0#3 ++ 1#1 ++ bit dbl))
  | .amoXchg d a b dbl => some (encRRR 0 0x65 d a b false false (0#3 ++ 1#1 ++ bit dbl))
  | .amoCas d a b dbl => some (encRRR 0 0x66 d a b false false (0#3 ++ 1#1 ++ bit dbl))
  | .scld d a imm => some (encRRI 0 0x68 d a imm)
  | .scst d a imm => some (encRRI 0 0x69 d a imm)
  | .scamo d a b dbl o => some (encRRR 0 0x6A d a b false false (o ++ 1#1 ++ bit dbl))
  | .scfence => some (encRest 0 0x6B 0)
  | .pgreq a imm => some (encRRI 0 0x6C 0 a imm)
  | .tspawn d a => some (encRRI 0 0x70 d a 0)
  | .tend => some (encRest 0 0x71 0)
  | .tyield => some (encRest 0 0x72 0)
  | .tabort a => some (encRRI 0 0x73 0 a 0)
  | .tbudget d a => some (encRRI 0 0x74 d a 0)
  | .tstat d a => some (encRRI 0 0x75 d a 0)
  | .tfrontTs d t => some (encRRI 0 0x76 d 0 (0#7 ++ 0#1 ++ t))
  | .tfrontWid d t => some (encRRI 0 0x76 d 0 (0#7 ++ 1#1 ++ t))
  | .cstart d a b => some (encRRR 0 0x78 d a b false false 0)
  | .cabort a => some (encRRI 0 0x79 0 a 0)
  | .cstat d a => some (encRRI 0 0x7A d a 0)
  | .nop => some (encRest 0 0x7F 0)
  | .vadd o => some (encRRR 1 0x01 o.d o.a o.b o.ta o.tb (o.rm ++ o.ty.code))
  | .vaddSat o => some (encRRR 1 0x02 o.d o.a o.b o.ta o.tb (0#2 ++ o.ty.code))
  | .vsub o => some (encRRR 1 0x03 o.d o.a o.b o.ta o.tb (o.rm ++ o.ty.code))
  | .vsubSat o => some (encRRR 1 0x04 o.d o.a o.b o.ta o.tb (0#2 ++ o.ty.code))
  | .vmul o => some (encRRR 1 0x05 o.d o.a o.b o.ta o.tb (o.rm ++ o.ty.code))
  | .vmulHi o => some (encRRR 1 0x06 o.d o.a o.b o.ta o.tb (0#2 ++ o.ty.code))
  | .vfma o => some (encRRR 1 0x07 o.d o.a o.b o.ta o.tb (o.rm ++ o.ty.code))
  | .vfmaNp o => some (encRRR 1 0x08 o.d o.a o.b o.ta o.tb (o.rm ++ o.ty.code))
  | .vfmaNa o => some (encRRR 1 0x09 o.d o.a o.b o.ta o.tb (o.rm ++ o.ty.code))
  | .vfmaNn o => some (encRRR 1 0x0A o.d o.a o.b o.ta o.tb (o.rm ++ o.ty.code))
  | .vmin o => some (encRRR 1 0x0B o.d o.a o.b o.ta o.tb (o.rm ++ o.ty.code))
  | .vmax o => some (encRRR 1 0x0C o.d o.a o.b o.ta o.tb (o.rm ++ o.ty.code))
  | .vminNan o => some (encRRR 1 0x0D o.d o.a o.b o.ta o.tb (o.rm ++ o.ty.code))
  | .vmaxNan o => some (encRRR 1 0x0E o.d o.a o.b o.ta o.tb (o.rm ++ o.ty.code))
  | .vabs o => some (encRRR 1 0x0F o.d o.a 0 o.ta false (o.rm ++ o.ty.code))
  | .vabd o => some (encRRR 1 0x10 o.d o.a o.b o.ta o.tb (o.rm ++ o.ty.code))
  | .vneg o => some (encRRR 1 0x11 o.d o.a 0 o.ta false (o.rm ++ o.ty.code))
  | .vsign o => some (encRRR 1 0x12 o.d o.a o.b o.ta o.tb (o.rm ++ o.ty.code))
  | .vclamp o => some (encRRR 1 0x13 o.d o.a o.b o.ta o.tb (o.rm ++ o.ty.code))
  | .vavg o => some (encRRR 1 0x14 o.d o.a o.b o.ta o.tb (o.rm ++ o.ty.code))
  | .vmov o => some (encRRR 1 0x15 o.d o.a 0 o.ta false (o.rm ++ o.ty.code))
  | .vclz o => some (encRRR 1 0x16 o.d o.a 0 o.ta false (0#2 ++ o.ty.code))
  | .vpopc o => some (encRRR 1 0x17 o.d o.a 0 o.ta false (0#2 ++ o.ty.code))
  | .vscale o => some (encRRR 1 0x18 o.d o.a o.b o.ta o.tb (o.rm ++ o.ty.code))
  | .vgete o => some (encRRR 1 0x19 o.d o.a 0 o.ta false (o.rm ++ o.ty.code))
  | .vand o => some (encRRR 1 0x20 o.d o.a o.b o.ta o.tb (0#2 ++ o.ty.code))
  | .vor o => some (encRRR 1 0x21 o.d o.a o.b o.ta o.tb (0#2 ++ o.ty.code))
  | .vxor o => some (encRRR 1 0x22 o.d o.a o.b o.ta o.tb (0#2 ++ o.ty.code))
  | .vnot o => some (encRRR 1 0x23 o.d o.a 0 o.ta false (0#2 ++ o.ty.code))
  | .vshl o => some (encRRR 1 0x24 o.d o.a o.b o.ta o.tb (0#2 ++ o.ty.code))
  | .vshr o => some (encRRR 1 0x25 o.d o.a o.b o.ta o.tb (0#2 ++ o.ty.code))
  | .vsra o => some (encRRR 1 0x26 o.d o.a o.b o.ta o.tb (0#2 ++ o.ty.code))
  | .vshlI o => some (encRRR 1 0x27 o.d o.a o.k o.ta false (0#2 ++ o.ty.code))
  | .vshrI o => some (encRRR 1 0x28 o.d o.a o.k o.ta false (0#2 ++ o.ty.code))
  | .vsraI o => some (encRRR 1 0x29 o.d o.a o.k o.ta false (0#2 ++ o.ty.code))
  | .vaddI o => some (encRRR 1 0x2A o.d o.a o.k o.ta false (0#2 ++ o.ty.code))
  | .vminI o => some (encRRR 1 0x2B o.d o.a o.k o.ta false (0#2 ++ o.ty.code))
  | .vmaxI o => some (encRRR 1 0x2C o.d o.a o.k o.ta false (0#2 ++ o.ty.code))
  | .vcmp c cc a b ty => some (encCMP 1 0x30 c cc a b (0#2 ++ ty.code))
  | .vcmpI c cc a imm ty => some (encCMP 1 0x31 c cc a imm (0#2 ++ ty.code))
  | .vsel d a b ta tb p => some (encRRR 1 0x32 d a b ta tb (0#2 ++ p))
  | .vmask d p => some (encRRR 1 0x33 d (0#2 ++ p) 0 false false 0)
  | .vmaskw c mode a q x => some (encCMP 1 0x34 c (0#2 ++ mode) a q x)
  | .vcvtRne d a ta src dst => some (encRRR 1 0x38 d a (dst.code ++ 0#2) ta false (0#2 ++ src.code))
  | .vcvtRz d a ta src dst => some (encRRR 1 0x39 d a (dst.code ++ 0#2) ta false (0#2 ++ src.code))
  | .vcvtRd d a ta src dst => some (encRRR 1 0x3A d a (dst.code ++ 0#2) ta false (0#2 ++ src.code))
  | .vcvtRu d a ta src dst => some (encRRR 1 0x3B d a (dst.code ++ 0#2) ta false (0#2 ++ src.code))
  | .vcvtSr d a ta src dst => some (encRRR 1 0x3C d a (dst.code ++ 0#2) ta false (0#2 ++ src.code))
  | .vredSum o => some (encRRR 1 0x40 o.d o.a 0 o.ta false (o.rm ++ o.ty.code))
  | .vredMax o => some (encRRR 1 0x41 o.d o.a 0 o.ta false (o.rm ++ o.ty.code))
  | .vredMin o => some (encRRR 1 0x42 o.d o.a 0 o.ta false (o.rm ++ o.ty.code))
  | .vredAmax o => some (encRRR 1 0x43 o.d o.a 0 o.ta false (o.rm ++ o.ty.code))
  | .vredSsq o => some (encRRR 1 0x44 o.d o.a 0 o.ta false (o.rm ++ o.ty.code))
  | .vscanSum o => some (encRRR 1 0x45 o.d o.a 0 o.ta false (o.rm ++ o.ty.code))
  | .vscanMax o => some (encRRR 1 0x46 o.d o.a 0 o.ta false (o.rm ++ o.ty.code))
  | .vexp2 o => some (encRRR 1 0x48 o.d o.a 0 o.ta false (0#2 ++ o.ty.code))
  | .vlog2 o => some (encRRR 1 0x49 o.d o.a 0 o.ta false (0#2 ++ o.ty.code))
  | .vrcp o => some (encRRR 1 0x4A o.d o.a 0 o.ta false (0#2 ++ o.ty.code))
  | .vrsq o => some (encRRR 1 0x4B o.d o.a 0 o.ta false (0#2 ++ o.ty.code))
  | .vperm o => some (encRRR 1 0x50 o.d o.a o.b o.ta o.tb (0#2 ++ o.ty.code))
  | .vpermRot o => some (encRRR 1 0x51 o.d o.a o.k o.ta false (0#2 ++ o.ty.code))
  | .vpermRev o => some (encRRR 1 0x52 o.d o.a 0 o.ta false (0#2 ++ o.ty.code))
  | .vpermZip o => some (encRRR 1 0x53 o.d o.a o.b o.ta o.tb (0#2 ++ o.ty.code))
  | .vpermUnz o => some (encRRR 1 0x54 o.d o.a o.b o.ta o.tb (0#2 ++ o.ty.code))
  | .vbcast o => some (encRRR 1 0x55 o.d o.a o.k o.ta false (0#2 ++ o.ty.code))
  | .vsplat d a ty => some (encRRR 1 0x56 d a 0 false false (0#2 ++ ty.code))
  | .vsplatI d imm => some (encRI17 1 0x57 d imm)
  | .viota d ty => some (encRRR 1 0x58 d 0 0 false false (0#2 ++ ty.code))
  | .pand d a b ta tb => some (encRRR 1 0x5C (0#2 ++ d) (0#2 ++ a) (0#2 ++ b) ta tb 0)
  | .por d a b ta tb => some (encRRR 1 0x5D (0#2 ++ d) (0#2 ++ a) (0#2 ++ b) ta tb 0)
  | .pxor d a b ta tb => some (encRRR 1 0x5F (0#2 ++ d) (0#2 ++ a) (0#2 ++ b) ta tb 0)
  | .pnot d a ta => some (encRRR 1 0x5E (0#2 ++ d) (0#2 ++ a) 0 ta false 0)
  | .vldW o => some (encVM 1 0x60 o.v o.d o.x0 o.x1)
  | .vldC o => some (encVM 1 0x61 o.v o.d o.x0 o.x1)
  | .vldN o => some (encVM 1 0x62 o.v o.d o.x0 o.x1)
  | .vstW o => some (encVM 1 0x63 o.v o.d o.x0 o.x1)
  | .vstN o => some (encVM 1 0x64 o.v o.d o.x0 o.x1)
  | .vgthW o => some (encVG 1 0x65 o.v o.d o.vi o.p)
  | .vgthC o => some (encVG 1 0x66 o.v o.d o.vi o.p)
  | .vgthN o => some (encVG 1 0x67 o.v o.d o.vi o.p)
  | .vsctW o => some (encVG 1 0x68 o.v o.d o.vi o.p)
  | .vsctN o => some (encVG 1 0x69 o.v o.d o.vi o.p)
  | .pld p dn x0 x1 => some (encVM 1 0x6A (p ++ 0#2) dn x0 x1)
  | .pst p dn x0 x1 => some (encVM 1 0x6B (p ++ 0#2) dn x0 x1)
  | .vconfGap c a x => some (encCMP 1 0x70 c 0 a 0 x)
  | .vconfDrift c a b x => some (encCMP 1 0x71 c 0 a b x)
  | .vsig t => some (encCMD 1 0x78 0 0 0 t 0)
  | .vwaitk t => some (encCMD 1 0x79 0 0 0 t 0)
  | .mzero t => some (encCMD 2 0x01 0 0 0 t 0)
  | .mzeroAll => some (encCMD 2 0x02 0 0 0 0 0)
  | .manch t a => some (encRRI 2 0x03 (0#1 ++ t) a 0)
  | .manchI t imm => some (encRRI 2 0x04 (0#1 ++ t) 0 imm)
  | .mmaS8 d1 d2 n t zf => some (encCMD 2 0x08 d1 d2 n t (0#2 ++ bit zf))
  | .mmaN8 d1 d2 n t zf => some (encCMD 2 0x09 d1 d2 n t (0#2 ++ bit zf))
  | .mmaBfx8 d1 d2 n t zf => some (encCMD 2 0x0A d1 d2 n t (0#2 ++ bit zf))
  | .mmaS16 d1 d2 n t zf => some (encCMD 2 0x0B d1 d2 n t (0#2 ++ bit zf))
  | .mmaN16 d1 d2 n t zf => some (encCMD 2 0x0C d1 d2 n t (0#2 ++ bit zf))
  | .mmaBfx16 d1 d2 n t zf => some (encCMD 2 0x0D d1 d2 n t (0#2 ++ bit zf))
  | .mmaZS8 d1 d2 n t zf => some (encCMD 2 0x10 d1 d2 n t (0#2 ++ bit zf))
  | .mmaZN8 d1 d2 n t zf => some (encCMD 2 0x11 d1 d2 n t (0#2 ++ bit zf))
  | .mmaZS16 d1 d2 n t zf => some (encCMD 2 0x12 d1 d2 n t (0#2 ++ bit zf))
  | .mmaZN16 d1 d2 n t zf => some (encCMD 2 0x13 d1 d2 n t (0#2 ++ bit zf))
  | .mgoS8 d1 d2 n t zf => some (encCMD 2 0x18 d1 d2 n t (0#2 ++ bit zf))
  | .mgoN8 d1 d2 n t zf => some (encCMD 2 0x19 d1 d2 n t (0#2 ++ bit zf))
  | .mgoBfx8 d1 d2 n t zf => some (encCMD 2 0x1A d1 d2 n t (0#2 ++ bit zf))
  | .mgoS16 d1 d2 n t zf => some (encCMD 2 0x1B d1 d2 n t (0#2 ++ bit zf))
  | .mgoN16 d1 d2 n t zf => some (encCMD 2 0x1C d1 d2 n t (0#2 ++ bit zf))
  | .mgoBfx16 d1 d2 n t zf => some (encCMD 2 0x1D d1 d2 n t (0#2 ++ bit zf))
  | .mpackPi d1 d2 n s => some (encCMD 2 0x20 d1 d2 n s 0)
  | .mpackPb d1 d2 n s => some (encCMD 2 0x21 d1 d2 n s 0)
  | .mrdF32 d1 n t q => some (encCMD 2 0x28 d1 0 n t q)
  | .mrdBf16 d1 n t q => some (encCMD 2 0x29 d1 0 n t q)
  | .mrdBfx8 d1 n t q => some (encCMD 2 0x2A d1 0 n t q)
  | .mrdS8 d1 n t q => some (encCMD 2 0x2B d1 0 n t q)
  | .mrdN8 d1 n t q => some (encCMD 2 0x2C d1 0 n t q)
  | .mrdS32 d1 n t q => some (encCMD 2 0x2D d1 0 n t q)
  | .mrdvF32 v g t q => some (encCMD 2 0x30 0 (0#1 ++ v) g t q)
  | .mrdvBf16 v g t q => some (encCMD 2 0x31 0 (0#1 ++ v) g t q)
  | .mrdvS32 v g t q => some (encCMD 2 0x32 0 (0#1 ++ v) g t q)
  | .msta d1 n t => some (encCMD 2 0x38 d1 0 n t 0)
  | .mlda d1 n t => some (encCMD 2 0x39 d1 0 n t 0)
  | .mstat d1 t => some (encCMD 2 0x3C d1 0 0 t 0)
  | .msig t => some (encCMD 2 0x3E 0 0 0 t 0)
  | .mwaitk t => some (encCMD 2 0x3F 0 0 0 t 0)
  | .cpinW d1 d2 n s q => some (encCMD 3 0x01 d1 d2 n s q)
  | .cpinN d1 d2 n s q => some (encCMD 3 0x02 d1 d2 n s q)
  | .cpinWNt d1 d2 n s q => some (encCMD 3 0x03 d1 d2 n s q)
  | .cpinNNt d1 d2 n s q => some (encCMD 3 0x04 d1 d2 n s q)
  | .cpgathW d1 d2 n s q => some (encCMD 3 0x05 d1 d2 n s q)
  | .cpgathN d1 d2 n s q => some (encCMD 3 0x06 d1 d2 n s q)
  | .cpgathWNt d1 d2 n s q => some (encCMD 3 0x07 d1 d2 n s q)
  | .cpgathNNt d1 d2 n s q => some (encCMD 3 0x08 d1 d2 n s q)
  | .cpplaneW d1 d2 n s q => some (encCMD 3 0x09 d1 d2 n s q)
  | .cpplaneN d1 d2 n s q => some (encCMD 3 0x0A d1 d2 n s q)
  | .cpplaneWNt d1 d2 n s q => some (encCMD 3 0x0B d1 d2 n s q)
  | .cpplaneNNt d1 d2 n s q => some (encCMD 3 0x0C d1 d2 n s q)
  | .cpfillW d1 n s => some (encCMD 3 0x0D d1 0 n s 0)
  | .cpfillN d1 n s => some (encCMD 3 0x0E d1 0 n s 0)
  | .cpmovW d1 d2 n s => some (encCMD 3 0x0F d1 d2 n s 0)
  | .cpmovN d1 d2 n s => some (encCMD 3 0x10 d1 d2 n s 0)
  | .cppre d1 n => some (encCMD 3 0x11 d1 0 n 0 0)
  | .lsig t => some (encCMD 3 0x20 0 0 0 t 0)
  | .lwaitk t => some (encCMD 3 0x21 0 0 0 t 0)
  | .lbwait slot => some (encCMD 3 0x22 0 0 0 slot 0)
  | .ssig t => some (encCMD 4 0x20 0 0 0 t 0)
  | .swaitk t => some (encCMD 4 0x21 0 0 0 t 0)
  | .sbwait slot => some (encCMD 4 0x22 0 0 0 slot 0)
  | .cpoutW d1 d2 n s => some (encCMD 4 0x01 d1 d2 n s 0)
  | .cpoutC d1 d2 n s => some (encCMD 4 0x02 d1 d2 n s 0)
  | .cpoutN d1 d2 n s => some (encCMD 4 0x03 d1 d2 n s 0)
  | .cpscatW d1 d2 n s => some (encCMD 4 0x04 d1 d2 n s 0)
  | .cpscatC d1 d2 n s => some (encCMD 4 0x05 d1 d2 n s 0)
  | .cpscatN d1 d2 n s => some (encCMD 4 0x06 d1 d2 n s 0)
  | .cpdeplW d1 d2 n s => some (encCMD 4 0x07 d1 d2 n s 0)
  | .cpdeplC d1 d2 n s => some (encCMD 4 0x08 d1 d2 n s 0)
  | .cpdeplN d1 d2 n s => some (encCMD 4 0x09 d1 d2 n s 0)
  | .cpwb d1 n s => some (encCMD 4 0x0A d1 0 n s 0)
  | .cpinv d1 n s => some (encCMD 4 0x0B d1 0 n s 0)
  | .note d1 d2 s => some (encCMD 5 0x01 d1 d2 0 s 0)
  | .noteG d1 g s => some (encCMD 5 0x02 d1 g 0 s 0)
  | .land d1 s => some (encCMD 5 0x08 d1 0 0 s 0)
  | .unland => some (encCMD 5 0x09 0 0 0 0 0)
  | .unlandAll => some (encCMD 5 0x0A 0 0 0 0 0)
  | .decl => some (encCMD 5 0x0B 0 0 0 0 0)
  | .declAll => some (encCMD 5 0x0C 0 0 0 0 0)
  | .nwait d1 => some (encCMD 5 0x10 d1 0 0 0 0)
  | .nwaitN d1 => some (encCMD 5 0x11 d1 0 0 0 0)
  | .nwaitTag d1 => some (encCMD 5 0x12 d1 0 0 0 0)
  | .landq d1 => some (encCMD 5 0x13 d1 0 0 0 0)
  | .ppol d1 => some (encCMD 5 0x18 d1 0 0 0 0)
  | .ppace d1 => some (encCMD 5 0x19 d1 0 0 0 0)
  | .pgrp d1 => some (encCMD 5 0x1A d1 0 0 0 0)
  | .pclass => some (encCMD 5 0x1B 0 0 0 0 0)
  | .rels => some (encCMD 5 0x20 0 0 0 0 0)
  | .relsTag => some (encCMD 5 0x21 0 0 0 0 0)
  | .retend => some (encCMD 5 0x22 0 0 0 0 0)
  | .retendTag => some (encCMD 5 0x23 0 0 0 0 0)
  | .moorq d1 => some (encCMD 5 0x24 d1 0 0 0 0)
  | .moorqTag d1 => some (encCMD 5 0x25 d1 0 0 0 0)
  | .psig t => some (encCMD 5 0x38 0 0 0 t 0)
  | .pwaitk t => some (encCMD 5 0x39 0 0 0 t 0)
  | .pbwait slot => some (encCMD 5 0x3A 0 0 0 slot 0)
  | .kvnew d1 => some (encCMD 6 0x01 d1 0 0 0 0)
  | .kvappend d1 d2 => some (encCMD 6 0x02 d1 d2 0 0 0)
  | .kvexit d1 => some (encCMD 6 0x03 d1 0 0 0 0)
  | .kvfill d1 d2 => some (encCMD 6 0x04 d1 d2 0 0 0)
  | .kvflush => some (encCMD 6 0x05 0 0 0 0 0)
  | .kvfork d1 => some (encCMD 6 0x06 d1 0 0 0 0)
  | .kvfree => some (encCMD 6 0x07 0 0 0 0 0)
  | .kvtrim d1 => some (encCMD 6 0x08 d1 0 0 0 0)
  | .kvlen d1 => some (encCMD 6 0x12 d1 0 0 0 0)
  | .kvpol => some (encCMD 6 0x13 0 0 0 0 0)
  | .kvstat d1 => some (encCMD 6 0x14 d1 0 0 0 0)
  | .kvowed d1 => some (encCMD 6 0x15 d1 0 0 0 0)
  | .kvwait => some (encCMD 6 0x16 0 0 0 0 0)
  | .kvbft d1 => some (encCMD 6 0x17 d1 0 0 0 0)
  | .kvfenceDie => some (encCMD 6 0x20 0 0 0 0 0)
  | .kvfencePkg => some (encCMD 6 0x21 0 0 0 0 0)
  | .kvmapK d1 q => some (encCMD 6 0x10 d1 0 0 0 q)
  | .kvmapV d1 q => some (encCMD 6 0x11 d1 0 0 0 q)
  | .limmL _ _ => none
  | .limmLh _ _ => none
  | .addiL _ _ _ => none
  | .andiL _ _ _ => none
  | .oriL _ _ _ => none
  | .xoriL _ _ _ => none
  | .vsplatL _ _ => none
  | .cpinNL _ _ _ _ _ _ => none
  | .cpfillWL _ _ _ _ => none
  | .cpfillNL _ _ _ _ => none
  | .cpoutNL _ _ _ _ _ => none
  | .noteL _ _ _ _ => none
  | .landL _ _ _ => none
  | .unlandL _ => none
  | .declL _ => none
  | .nwaitL _ _ => none
  | .retendL _ => none
  | .kvpolL _ => none
  | .kvtrimL _ _ => none
  | .xForm _ _ => none
  | .reset => none
  | .freezeN _ => none
  | .tapFreeze => none
  | .scanRead _ => none
  | .thermalTrip => none
  | .powerThrottle _ => none
  | .laneFailure _ => none
  | .hostLinkTraining _ _ _ => none
  | .doorbell _ _ => none
  | .launchStart _ _ => none
  | .taskCreate _ => none
  | .dispatch _ => none
  | .bindRecordReplace _ _ _ => none
  | .dispatchPatternLoad _ _ => none
  | .launchCompletion _ => none
  | .contextEnd _ _ => none
  | .flagUnitAssign _ => none
  | .rangeEntryReplace _ _ _ => none
  | .pageInvalidate _ _ => none
  | .pageServiceReport _ => none
  | .scOperationIssue => none
  | .waitaMonitorFire => none
  | .flagUpdateApply _ _ => none
  | .preemptRequest => none
  | .drainLimitExpiry => none
  | .preemptRequestDrop _ _ => none
  | .strandRestore _ => none
  | .engineTrapDelivery => none
  | .reclaim => none
  | .pullfail => none
  | .budget => none
  | .collfail => none
  | .compart => none
  | .budgetExhausted => none
  | .taskBecomesNonspeculative _ => none
  | .taskCommit _ => none
  | .notice _ => none
  | .accept _ => none
  | .full _ _ => none
  | .absent _ => none
  | .noRoute _ => none
  | .present _ => none
  | .noticeResendTimeout _ _ => none
  | .segmentRequestIssue => none
  | .segmentRequest _ => none
  | .dataResponse _ _ _ _ _ => none
  | .doneResponse _ _ _ => none
  | .staleResponse _ _ _ => none
  | .eccerrResponse _ _ _ => none
  | .requestRetryTimeout _ _ => none
  | .absentWaitTimeout _ _ => none
  | .acknowledgement _ _ _ _ _ => none
  | .decline _ _ _ _ _ => none
  | .mooringTimeout _ => none
  | .ackResendTimeout _ => none
  | .communicatorCreate _ _ => none
  | .communicatorDestroy _ _ => none
  | .stepNote _ _ => none
  | .stepPull _ _ _ => none
  | .stepPrs _ _ _ => none
  | .stepCopy _ _ => none
  | .stepWait _ _ => none
  | .collectiveCompletion _ _ => none
  | .collectiveFailure _ _ _ _ => none
  | .contextSuspend _ => none
  | .contextResume _ => none
  | .routeEntryWrite _ _ => none
  | .portDown _ => none
  | .portUp _ _ => none
  | .pause _ _ _ => none
  | .compartmentAssign _ _ => none
  | .epochInstall _ _ _ => none
  | .epochExpiry _ => none
  | .participantRevoke _ => none
  | .keyEnrol _ _ => none
  | .attestationReport _ => none
  | .debugUnlock _ => none
  | .coreOutOfService _ _ => none
  | .dieDrain _ => none
  | .hbmChannelRetrain _ _ => none
  | .laneRecalibrate _ => none
  | .firmwareUpdate => none
  | .coreFailure _ _ => none
  | .managementCoreFailure _ => none
  | .hubFailure => none
  | .unassignedWord _ _ _ => none
  | .fetchFault => none
  | .microsecondTick => none
  | .hostWrite _ _ => none
  | .refused _ _ _ => none
  | .hbmChannelFailure _ _ => none
  | .corePowerRemoved => none

/-- The words of a WIDE pair. -/
def encodePair : Instr → Option (IWord × IWord)
  | .xForm base x =>
    match encodeWord base with
    | some b => some (7#3 ++ fEng b ++ 0#4 ++ fRest b, fOp b ++ x.x0 ++ x.x1 ++ x.x2 ++ x.x3 ++ x.x4)
    | none => none
  | .limmL d imm => some (encWide 0 1 (0#1 ++ d) 0 0 0 0, imm)
  | .limmLh d imm => some (encWide 0 2 (0#1 ++ d) 0 0 0 0, imm)
  | .addiL d a imm => some (encWide 0 3 (0#1 ++ d) (0#1 ++ a) 0 0 0, imm)
  | .andiL d a imm => some (encWide 0 4 (0#1 ++ d) (0#1 ++ a) 0 0 0, imm)
  | .oriL d a imm => some (encWide 0 5 (0#1 ++ d) (0#1 ++ a) 0 0 0, imm)
  | .xoriL d a imm => some (encWide 0 6 (0#1 ++ d) (0#1 ++ a) 0 0 0, imm)
  | .vsplatL d imm => some (encWide 1 1 (0#1 ++ d) 0 0 0 0, imm)
  | .cpinNL d1 d2 n s q imm => some (encWide 3 1 d1 d2 n s q, imm)
  | .cpfillWL d1 n s imm => some (encWide 3 2 d1 0 n s 0, imm)
  | .cpfillNL d1 n s imm => some (encWide 3 3 d1 0 n s 0, imm)
  | .cpoutNL d1 d2 n s imm => some (encWide 4 1 d1 d2 n s 0, imm)
  | .noteL d1 d2 s imm => some (encWide 5 1 d1 d2 0 s 0, imm)
  | .landL d1 s imm => some (encWide 5 2 d1 0 0 s 0, imm)
  | .unlandL imm => some (encWide 5 3 0 0 0 0 0, imm)
  | .declL imm => some (encWide 5 4 0 0 0 0 0, imm)
  | .nwaitL d1 imm => some (encWide 5 5 d1 0 0 0 0, imm)
  | .retendL imm => some (encWide 5 6 0 0 0 0 0, imm)
  | .kvpolL imm => some (encWide 6 1 0 0 0 0 0, imm)
  | .kvtrimL d1 imm => some (encWide 6 2 d1 0 0 0 0, imm)
  | _ => none

/-- The words of an instruction: one, two for a WIDE pair, none for an event. -/
def encode (i : Instr) : List IWord :=
  match encodeWord i, encodePair i with
  | some w, _ => [w]
  | none, some (w, w2) => [w, w2]
  | none, none => []

/-- The decoder on a list of words. -/
noncomputable def decodeWords : List IWord → Except IllSub Instr
  | [] => .error .op
  | [w] => decode w 0
  | w :: w2 :: _ => decode w w2

/-! ## Bytes (R34: little-endian) -/

/-- Four bytes as a word, the first the least significant. -/
def wordOfBytes (b0 b1 b2 b3 : Byte) : IWord := b3 ++ b2 ++ b1 ++ b0

/-- The instruction at the head of a byte string, and the bytes after it. Where fewer than four bytes remain there is no word. -/
noncomputable def decodeBytes : List Byte → Except IllSub (Instr × List Byte)
  | b0 :: b1 :: b2 :: b3 :: rest =>
    let w := wordOfBytes b0 b1 b2 b3
    if fEng w = 7 then
      match rest with
      | c0 :: c1 :: c2 :: c3 :: rest' => (decode w (wordOfBytes c0 c1 c2 c3)).map fun i => (i, rest')
      | _ => .error .wide
    else (decode w 0).map fun i => (i, rest)
  | _ => .error .op

/-- `n` bytes of a number, the least significant first. -/
def bytesOfNat : Nat → Nat → List Byte
  | 0, _ => []
  | n + 1, v => BitVec.ofNat 8 v :: bytesOfNat n (v / 256)

/-- The instruction that the decoder reads from the bits `w` of a row of the opcode table; the bits above the row's are zero, up to
the two words of a WIDE pair. -/
noncomputable def decodeTableWord (nbits w : Nat) : Option Instr :=
  match decodeBytes (bytesOfNat 8 (w % 2 ^ nbits)) with
  | .ok (i, _) => some i
  | .error _ => none

end Sys2Proof
end

