-- ==== Sys2Proof/Config.lean ====
section
/-!
DEFINITION. What the manual leaves open (free values, with no body: nothing can evaluate them) and the constants of one
implementation. Each free value is named in a row of notes/assumptions.
-/

namespace Sys2Proof.Config

/-- Which free frame of its pool the KV engine takes (R360, R370 say "takes a frame" and name none). Applied to the model's
own counter `State.freeNo`. Log entry 7. -/
opaque freeChoice : Nat → Nat

/-- The pending target that a delay record holds when its count is 0, which R92 does not give. Applied to `State.freeNo`.
Log entry 9. -/
opaque noTarget : Nat → BitVec 64

/-- The cause-specific field of a RANGE that a command raises at its start, before it forms an address (R262 says "the address").
Applied to `State.freeNo`. Log entry 10. -/
opaque noAddress : Nat → BitVec 64

/-- A firmware image (R393, R394) by its number, the management image 0 or the hub image 1. Log entry 8. -/
opaque firmwareImage : Nat → Nat → List Byte

/-- The signature that a firmware image carries (R394). Log entry 8. -/
opaque firmwareSig : Nat → Nat → List Byte

/-- The public half of the firmware key, fixed in hub ROM (R394). Log entry 8. -/
opaque firmwareKey : List Byte

/-- The private attestation key that the identity seed and the measurements of both images give, and the private device identity key (R393): private keys
never leave the security root, so they are free. Log entry 8. -/
opaque attestKeyOf : List Byte → List Byte → Nat
opaque identityKey : Nat

/-- The nonce of an ECDSA signature, by a number (R5, R393): that of the certificate by its firmware image, that of a report by `State.freeNo`.
Log entry 8. -/
opaque certNonce : Nat → Nat
opaque reportNonce : Nat → Nat

/-- The hub's challenge for a debug unlock (R395). Applied to `State.freeNo`. Log entry 8. -/
opaque challenge : Nat → Vector Byte 48

/-- The device serial (R395). Log entry 8. -/
opaque serial : Vector Byte 16

/-- The bit of a context's status word, above bits 0 to 2, that tells of a write which the host has refused (R388, R389): no rule names it. Taken mod 61.
Log entry 70. -/
opaque refusedBit : Nat

/-- Byte `i` of the 64 of the header of a KV page or tail with a reference count and the 64 entry states (R358, R359 give what it holds and no layout).
Log entry 30. -/
opaque pageHeader : Nat → List (BitVec 2) → Nat → Byte

/-- Byte `i` of a page-map frame, whose layout is the KV engine's own (R357); by the handle's index and the entries (layer, page, frame). Log entry 30. -/
opaque pageMapByte : Nat → List (Nat × Nat × Nat) → Nat → Byte

/-- Where a function's BAR2 window begins in HBM (R387): the implementation's; the window of 1 GiB lies in HBM as a whole (`Machine.windowAt`).
Log entry 70. -/
opaque windowBase : Option (BitVec 4) → Nat

/-- What a byte of global memory that nothing has written reads as (R324 gives HBM no reset contents). Log entry 2. -/
def unwrittenByte : Byte := 0

/-- End of the HBM of the package (R324): physical addresses 0 to 0x5F_FFFF_FFFF. -/
def hbmEnd : Nat := 0x6000000000

/-- First physical address of host memory (R324, R388). -/
def hostBase : Nat := 2 ^ 51

/-- Size of one core's scratchpad (R138). -/
def spadSize : Nat := 0x400000

/-- Granules in one scratchpad (R138). -/
def spadGranules : Nat := 262144

end Sys2Proof.Config
end

