-- ==== Sys2Proof/Machine/State.lean ====
section
/-!
DEFINITION. The state of the machine: one core of a DN40 package with everything the manual gives it, the die's and
package's units that its words act on, and the schedule that says which agent moves next. All plain data. INVENTORY.md,
"## State", lists every field with its rule and reset value.
-/

namespace Sys2Proof.Machine

/-- Memory: strictly rising addresses, no byte listed that equals what an unlisted address reads as. -/
abbrev Memory := List Host.Cell

/-- State of a granule (R141); EMPTY is code 0, FULL 1, MOORED 2. -/
inductive GState where
  | empty | full | moored
deriving DecidableEq, Repr

/-- The granules that are not EMPTY, by strictly rising index. The index of granule g of the core of cluster rank r is
r · 262,144 + g (R138, R296). -/
abbrev Granules := List (Nat × GState)

/-- One accumulator element (R131): NF, and the 136-bit two's-complement G formed by GX and X. -/
structure AccElem where
  nf : BitVec 2
  g : BitVec 136
deriving DecidableEq, Repr

/-- One accumulator tile (R131, R145): element (i, j) at 32 · i + j, anchor and RANGE status. -/
structure Tile where
  elems : Vector AccElem 1024
  anchor : BitVec 16
  range : Bool
deriving DecidableEq, Repr

/-- A trap on its way to a handler: code and what sr.cause records (R260 to R262), IterVec() of an engine trap, and what it waits for. -/
structure TrapRec where
  code : BitVec 8
  eng : BitVec 3
  sub : BitVec 8
  hent : Bool
  op : BitVec 7
  form : BitVec 2
  info : BitVec 64
  iter : BitVec 96
  kept : Nat                -- the handler for whose ERET it waits, counted by `Core.depth`; 0 if for none (R263, R264)
deriving DecidableEq, Repr

/-- A delay region in progress (R87, R92): control words of it not yet completed, and the target of a taken transfer. -/
structure Region where
  left : Nat
  target : Option Word
deriving DecidableEq, Repr

/-- A trap waiting to be taken at the next control word (R242, R262), in the order of R263. -/
inductive Posted where
  | compart (cmp : BitVec 16)
  | collfail (comm : BitVec 6)
  | budget (task : BitVec 64)
  | reclaim (moor : BitVec 8) (gen : BitVec 8)
  | pullfail (land : BitVec 6) (lgen : BitVec 8) (reason : BitVec 4)
deriving DecidableEq, Repr

/-- The system registers of R269 that are stored. sr.frontier and sr.now are read from the task unit and the clock. -/
structure SysRegs where
  status : BitVec 9
  causelo : BitVec 64
  causehi : BitVec 64
  epc : BitVec 64
  dtgt : BitVec 64
  dleft : BitVec 2
  iterlo : BitVec 64
  iterhi : BitVec 32
  tvec : BitVec 64
  uvec : BitVec 64
  ucauselo : BitVec 64
  ucausehi : BitVec 64
  uepc : BitVec 64
  udtgt : BitVec 64
  udleft : BitVec 2
  uiterlo : BitVec 64
  uiterhi : BitVec 32
  wid : BitVec 64
  ts : BitVec 64
  task : BitVec 64
  budget : BitVec 32
  ctx : BitVec 12
  ntag : BitVec 33
  bbase : BitVec 22
  bphase : BitVec 64
  seed : BitVec 64
  resp : BitVec 3
  confrec : BitVec 22
  ptroot : BitVec 64
  self : BitVec 32
deriving DecidableEq, Repr

/-- What the strand is doing. -/
inductive Phase where
  | idle        -- free: no task has been dispatched to it, or its task has ended (R321)
  | running     -- a task runs
  | parked      -- its speculative task is parked with a saved trap (R345, R346)
  | halted      -- HALT has retired (R114)
  | stopped     -- DoubleStop (R264), or the context was ended (R311)
deriving DecidableEq, Repr

/-- How the strand's current word waits. -/
inductive Wait where
  | none                          -- it does not, or in one of the waits out of which a posted trap is taken (R242, R271)
  | room                          -- an engine word, for room in its queue (R14)
  | regs (e : Eng) (v : BitVec 32) (p : BitVec 8) (a : BitVec 16)   -- an engine word, for other queues' use of the registers that it writes (R22)
  | shut                          -- for an engine or a register
  | pred (p : BitVec 3)           -- VANY or VALL, for a predicate that it found EMPTY (R23)
  | spec                          -- until its task is non-speculative (R339, R341, R344, R348)
  | sc (i : Instr) (at_ : BitVec 64)  -- an SC word, for its wheel position, which begins at this cycle (R329)
  | page (va : BitVec 64)           -- PGREQ waits for the page service (R327)
deriving DecidableEq, Repr

/-- Where an aligned 16-byte piece lies: a scratchpad granule of the cluster, or a piece of global memory by its physical
address divided by 16 (R140, R299). -/
inductive Loc where
  | spad (g : Nat)
  | glob (piece : Nat)
deriving DecidableEq, Repr

/-- Who reads and writes pieces: the strand, an engine with a command of this number, or the quay with a landing. -/
inductive Agent where
  | strand
  | eng (e : Eng) (no : Nat)
  | quay
deriving DecidableEq, Repr

/-- A write of a piece that some agent need not see yet: its bytes, and what the piece held before and holds since. The rest says what it is ordered
before (R253 to R255, R259): `seen` has the bits of the agents that an edge has ordered after it, the engines by number and the strand sixth; the commands
numbered from `from_` on; the counts of tokens, each with how many counts stand before it; the granules whose state was set after it; the phases, by
their object's address and number, towards which it was counted; and the numbers of the QMARKs of which one half has left after it. `iter` is its
command's iteration. -/
structure Recent where
  writer : Agent
  iter : Nat
  loc : Loc
  mask : BitVec 16
  old : BitVec 128
  new : BitVec 128
  seen : BitVec 7
  from_ : Option Nat
  toks : List (BitVec 4 × Nat)
  grans : List Nat
  phases : List (Nat × Nat)
  marks : List Nat
deriving DecidableEq, Repr

/-- A part of a scalar access: bytes of an aligned piece of global memory or of a scratchpad, or of a granule-state array (R94, R95). -/
inductive AccessPart where
  | glob (pa n : Nat)
  | spad (a n : Nat)
  | gran (rank off n : Nat)
deriving DecidableEq, Repr

/-- What a scalar access is for: a load that writes an x register from its low bits, widened with sign or zeros; of a descriptor; of a loop nest; or a store
(R94, R98). -/
inductive AccessFor where
  | x (r : BitVec 5) (bits : Nat) (signed : Bool)
  | d (k : BitVec 6)
  | n (k : BitVec 3)
  | store
deriving DecidableEq, Repr

/-- A part of such an access with its bytes: those that a store writes; of a load those that it has read, or, while it is still to be performed, those that
it found when it was issued. -/
structure PartDue where
  part : AccessPart
  bytes : List Byte
  done : Bool
deriving DecidableEq, Repr

/-- A scalar access that has retired with parts of it not yet performed (R16, R79, R97): its parts in address order, all the bytes that a load found when it
was issued, and the tokens that the strand has signalled since. -/
structure PendingAccess where
  use : AccessFor
  parts : List PartDue
  was : List Byte
  signalled : BitVec 16
deriving DecidableEq, Repr

/-- A link whose region could not be fetched to its end: the link register, the address at which the walk of R90 stopped, and the control words
of the region that still lie from there on. -/
structure LinkDue where
  reg : BitVec 2
  at_ : Nat
  left : Nat
deriving DecidableEq, Repr

/-- The architected registers of the strand (R19) and its control state. c0 is bit 0 of `c`. -/
structure Core where
  pc : Word
  x : Vector Word 32
  b : Vector Word 4
  c : BitVec 8
  v : Vector (BitVec 2048) 32
  p : Vector (BitVec 256) 8
  a : Vector Tile 16
  l : Vector (BitVec 32) 16
  n : Vector (BitVec 1024) 8
  d : Vector (BitVec 256) 64
  tk : Vector (BitVec 16) 16
  vfull : BitVec 32
  pfull : BitVec 8
  afull : BitVec 16
  lmax : Vector (BitVec 32) 16
  sys : SysRegs
  region : Option Region
  phase : Phase
  wait : Wait
  monitor : Option Nat              -- the line WAITA's monitor is armed on (R308)
  drainFrom : Option (BitVec 64)    -- cycle of the first drain begun for a pre-emption request (R29, R271)
  saved : Option (TrapRec × Word × Option Region)   -- the trap a parked task saved (R345)
  budgetStopped : Bool              -- between the delivery of PREEMPT and its ERET (R271)
  mtxDone : BitVec 32               -- MTX commands completed since the launch began (R208)
  icache : List (Nat × BitVec 32)   -- words that the instruction cache holds, by physical address (R55)
  linkDue : List LinkDue            -- links still to be found (R90)
  pending : List PendingAccess      -- scalar accesses still to be performed, in program order (R16, R79)
  depth : Nat                       -- handlers entered and not yet returned from (R264, R266)
  kept : List (Posted × Nat)        -- posted traps that wait for a handler's ERET, with that handler's depth (R242, R263)
deriving DecidableEq, Repr

/-- One queue entry: the base command, how its word was written (form and the op that sr.cause records), and what the
splitter captured (R17, R40, R41): five scalar values and the loop registers. `no` is its place in the order of enqueueing, and
`depth` the handler that issued it (R266). -/
structure Entry where
  instr : Instr
  form : BitVec 2
  op : BitVec 7
  x0 : Word
  x1 : Word
  x2 : Word
  x3 : Word
  x4 : Word
  loops : Vector (BitVec 32) 16
  no : Nat
  depth : Nat
deriving DecidableEq, Repr

/-- How an access tests and changes the state of a granule (R142). -/
inductive Qual where
  | loadW | loadC | loadN | storeW | storeN | engine | moor
deriving DecidableEq, Repr

/-- A piece still to be read and the bytes of it that are used; `key` gives its place in ascending address order. -/
structure RVisit where
  key : Nat
  loc : Loc
  qual : Qual
  mask : BitVec 16
deriving DecidableEq, Repr

/-- A piece still to be written: the bytes of `data` whose bit of `mask` is set. -/
structure WVisit where
  key : Nat
  loc : Loc
  qual : Qual
  mask : BitVec 16
  data : BitVec 128
deriving DecidableEq, Repr

/-- A part of an operand: `n` bytes from byte `off` of a piece, or a value of `n` bytes that the checks already gave (a zero, or the
bytes of a KV row). -/
inductive Part where
  | piece (loc : Loc) (key off n : Nat)
  | lit (v n : Nat)
deriving DecidableEq, Repr

/-- Where a started command stands within its current iteration. -/
inductive Stage where
  | fresh      -- the iteration's checks have not been made
  | reading
  | writing
deriving DecidableEq, Repr

/-- An iteration that a windowed copy has begun before its turn (R221): the fault that its checks gave, or where it stands. -/
structure Ahead where
  iter : Nat
  bad : Option (BitVec 8 × BitVec 8 × BitVec 64)   -- code, subcode and cause-specific field
  stage : Stage
  reads : List RVisit
  got : List (Loc × BitVec 128)
  src : List Part
  dst : List Part
  writes : List WVisit
  count : Nat
  aux : BitVec 256
  eccAt : Option (BitVec 64)
deriving DecidableEq, Repr

/-- A started command: the descriptors, nest and engine-read registers it latched (R18, R102), its bounds and iteration,
and the pieces of the iteration still to be visited. -/
structure Running where
  entry : Entry
  d1 : BitVec 256
  d2 : BitVec 256
  d3 : BitVec 256
  bounds : List Nat
  nest : BitVec 1024
  bbase : BitVec 22
  seed : BitVec 64
  resp : BitVec 3
  confrec : BitVec 22
  ctx : BitVec 12
  ptroot : BitVec 64
  first : Nat            -- the iteration at which this run of the command began (R196)
  iter : Nat             -- iterations completed, level 0 fastest
  stage : Stage
  reads : List RVisit
  got : List (Loc × BitVec 128)
  src : List Part        -- the iteration's source parts, in the order that its action uses them
  dst : List Part        -- its destination parts
  writes : List WVisit
  count : Nat            -- bytes the iteration counts into its slot (R215)
  aux : BitVec 256       -- the residency bits of a VLD or VGTH (R159); the mooring index that a NOTE took (R246)
  also : BitVec 16       -- the tiles that it marked EMPTY when it started (R197)
  eccAt : Option (BitVec 64)   -- an uncorrectable error met while reading (R185, R223)
  rows : List Part             -- the parallel rows that the matrix engine read last, as values, and their coordinates (R200)
  rowsAt : List Int
  policy : Option (BitVec 3)   -- the context's KV policy when the row read in progress started (R363, R374)
  ahead : List Ahead           -- later iterations begun in the window of R221
deriving DecidableEq, Repr

/-- One engine queue (R14, R33, R265): ordinary entries, the started command, the handler entry and the started handler entry, the
engine's faults not yet delivered, whether the started command (or handler entry) has faulted and awaits its ERET, and whether R33
holds the queue. -/
structure Queue where
  entries : List Entry
  run : Option Running
  hentry : Option Entry
  hrun : Option Running
  faults : List TrapRec
  stuck : Bool
  hstuck : Bool
  held : Bool
deriving DecidableEq, Repr

structure Queues where
  vec : Queue
  mtx : Queue
  ldq : Queue
  stq : Queue
  prt : Queue
  kvc : Queue
deriving DecidableEq, Repr

/-- A mooring-table entry (R228), with the barrier object's address, the consumer list and the absent marks (R244). -/
structure MoorEntry where
  tag : BitVec 32
  size : BitVec 20
  cls : BitVec 4
  prio : BitVec 6
  valid : Bool
  expired : Bool
  off : BitVec 18
  gen : BitVec 8
  remain : BitVec 16
  grp : Bool
  group : BitVec 6
  slot : BitVec 4
  pending : BitVec 63
  pulled : BitVec 63
  absent : BitVec 63
  accepted : BitVec 63       -- bit i: its latest answer was ACCEPT, so that nothing is sent again (R231)
  baddr : Nat
  consumers : List QuayAddr
  ctx : BitVec 4
deriving DecidableEq, Repr

/-- A notice in the inbox (R231): reported by NWAIT, and the landing it is matched with. -/
structure InboxItem where
  notice : Notice
  reported : Bool
  land : Option Nat
deriving DecidableEq, Repr

/-- State of a landing-table entry (R232), in code order. -/
inductive LandState where
  | free | posted | pulling | failed | standing
deriving DecidableEq, Repr

/-- A segment of a pull in progress (R234 to R238): requested, answered with data, landed, counted; repetitions sent; and its granules' states and
bytes from before the pull, while it is not counted (R243). -/
structure SegState where
  seg : Nat
  requested : Bool
  answered : Bool
  landed : Bool
  counted : Bool
  tries : Nat
  absentWait : Bool
  undo : List (Nat × GState × List Byte)
deriving DecidableEq, Repr

/-- A data response whose granules are being written (R236): its landing, generation, segment and bytes, and the next granule. -/
structure Arrived where
  land : Nat
  lgen : BitVec 8
  seg : Nat
  bytes : List Byte
  next : Nat
deriving DecidableEq, Repr

/-- A landing-table entry (R232), with its barrier address, its order of posting and its pull. -/
structure LandEntry where
  tag : BitVec 32
  state : LandState
  reason : BitVec 4
  lgen : BitVec 8
  slot : BitVec 4
  off : BitVec 18
  size : BitVec 20
  landed : BitVec 32
  src : QuayAddr
  baddr : Nat
  order : Nat
  notice : Option Notice
  segs : List SegState
  removing : Bool
  failing : Option (BitVec 4 × Bool)   -- it fails once the responses that came before have landed: reason, and whether a decline goes (R243, R251)
deriving DecidableEq, Repr

/-- An acknowledgement (or, with `ack` false, a decline) kept until it is answered (R244). -/
structure KeptAck where
  dst : QuayAddr
  moor : BitVec 8
  gen : BitVec 8
  cidx : BitVec 6
  ack : Bool
deriving DecidableEq, Repr

/-- A frame of a collective engine (R404, R412, R413). -/
inductive CollFrame where
  | notice (n : Notice) (q : BitVec 12)
  | request (r : SegRequest)
  | ack (src : QuayAddr) (moor gen : BitVec 8)
  | decline (src : QuayAddr) (moor gen : BitVec 8)
  | data (r : SegRequest) (bytes : List Byte)
  | stale (r : SegRequest)
  | eccerr (r : SegRequest)
  | refused (r : SegRequest)
  | accept (about : Answered)
  | full (about : Answered)
  | absent (about : Answered)
  | noRoute (about : Answered)
  | present (src : QuayAddr)
deriving DecidableEq, Repr

/-- A frame that this core's quay or this die's collective engine has sent (R227, R234 to R244, R404). -/
inductive Frame where
  | notice (dst : QuayAddr) (n : Notice)
  | request (dst : QuayAddr) (r : SegRequest)
  | data (dst : QuayAddr) (land : BitVec 6) (lgen : BitVec 8) (seg : Nat) (cmp : BitVec 16) (bytes : List Byte)
  | doneR (dst : QuayAddr) (land : BitVec 6) (lgen : BitVec 8) (seg : Nat)
  | staleR (dst : QuayAddr) (land : BitVec 6) (lgen : BitVec 8) (seg : Nat)
  | eccerrR (dst : QuayAddr) (land : BitVec 6) (lgen : BitVec 8) (seg : Nat)
  | refusedR (dst : QuayAddr) (land : BitVec 6) (lgen : BitVec 8) (seg : Nat) (cmp : BitVec 16)
  | ack (dst src : QuayAddr) (moor : BitVec 8) (gen : BitVec 8) (cidx : BitVec 6)
  | decline (dst src : QuayAddr) (moor : BitVec 8) (gen : BitVec 8) (cidx : BitVec 6)
  | accept (dst : QuayAddr) (about : Answered)
  | fullR (dst : QuayAddr) (about : Answered)
  | absent (dst : QuayAddr) (about : Answered)
  | noRouteR (dst : QuayAddr) (about : Answered)
  | present (dst src : QuayAddr)
  | coll (dest : CollEnd) (vc : BitVec 3) (cmp : BitVec 16) (f : CollFrame)
deriving DecidableEq, Repr

/-- The core's quay (R226 to R249). -/
structure Quay where
  moor : Vector MoorEntry 256
  inbox : List InboxItem
  land : Vector LandEntry 64
  policy : Vector (BitVec 64) 16
  pace : Vector (BitVec 32) 8
  groups : Vector (List QuayAddr) 64
  overrides : List (BitVec 32 × BitVec 4)
  kept : List KeptAck
  issued : Vector Nat 16
  inFlight : List (Nat × Nat)         -- landing and segment requested and not yet landed, discarded or failed
  absent : Bool                       -- the quay's absent state (R244)
  owner : BitVec 4                    -- the context that holds it while it is absent
  owePresent : List QuayAddr          -- quays that it has told ABSENT and owes PRESENT
  lapsed : Bool                       -- the records that named the core have lapsed at a completion (R226)
  posted : Nat                        -- landings posted so far, for "oldest"
  arrived : List Arrived              -- responses whose granules are being written, oldest first
  untold : List (QuayAddr × Notice)   -- notices neither delivered nor answered ABSENT or NO-ROUTE, with their consumers (R110)
deriving DecidableEq, Repr

/-- What a task is doing (R352). -/
inductive TaskState where
  | ready | running | parked | ended
deriving DecidableEq, Repr

/-- An uncommitted task (R332, R333, R343, R352). -/
structure Task where
  num : BitVec 64
  entry : BitVec 64
  args : BitVec 64
  ts : BitVec 64
  wid : BitVec 64
  budget : BitVec 32
  prio : BitVec 6
  spec : Bool                  -- class: 0 NS, 1 SPEC
  timeline : BitVec 4
  pmask : BitVec 6
  frame : BitVec 8
  parent : BitVec 64
  dep : Bool                   -- dependent on its parent (R352)
  launch : Nat
  ctx : BitVec 4
  die : Nat
  state : TaskState
  core : Nat
  aborts : BitVec 16
  trap : BitVec 8
  nonspec : Bool               -- it has become non-speculative (R336)
  readsFrom : List (BitVec 64) -- tasks whose version it has read (R342)
  saveTk : Vector (BitVec 16) 16
  saveBphase : BitVec 64
  shut : Bool                  -- placed on a core whose quay a pre-empted context holds: the PRT bit of its mask is clear (R244)
deriving DecidableEq, Repr

/-- A writer version of a line of global memory (R339, R341): the balloon line of an uncommitted speculative task. -/
structure Version where
  task : BitVec 64
  timeline : BitVec 4
  ts : BitVec 64
  wid : BitVec 64
  line : Nat
  mask : BitVec 64
  data : BitVec 512
deriving DecidableEq, Repr

/-- A line in the read set of a speculative task (R341). -/
structure ReadMark where
  task : BitVec 64
  line : Nat
deriving DecidableEq, Repr

/-- The launch header's fields that the task unit uses (R313), and the launch's progress (R314, R323). -/
structure Launch where
  id : Nat
  ctx : BitVec 4
  entry : BitVec 64
  tsbase : BitVec 64
  args : BitVec 64
  done : BitVec 64
  doneval : BitVec 64
  budget : BitVec 32
  timeline : BitVec 4
  prio : BitVec 6
  spec : Bool
  widths : Vector (BitVec 8) 6
  exts : Vector (BitVec 64) 6
  runptr : BitVec 64           -- where its .run, .tdt, .lnd and .wheel sections are loaded
  tdtptr : BitVec 64
  lndptr : BitVec 64
  wheelptr : BitVec 64
  safedist : BitVec 32         -- the largest distance that the loader has written into .safemap (R77)
  made : List Nat              -- work items whose task has been created (R333)
  binds : List (Nat × Nat)     -- the bind records written for it: die and index (R323)
  slots : List Nat             -- the wheel positions assigned for it (R328)
  group : Nat
  complete : Bool
deriving DecidableEq, Repr

/-- One compute die's tables (R317, R320, R397). -/
structure Die where
  binds : Vector BindRecord 64
  pattern : Vector Byte 256
  ptr : Nat
  mgmtFailed : Bool
  drained : Bool
  occ : BitVec 256             -- the occupancy vector, as the task unit last wrote it (R319)
deriving DecidableEq, Repr

/-- A cached page-TLB leaf (R157): context, virtual page base, size, physical base and permission mask. -/
structure TlbEntry where
  ctx : BitVec 4
  vbase : Nat
  big : Bool
  pbase : Nat
  perm : BitVec 8
deriving DecidableEq, Repr

/-- The die task unit, the launches, and the slot wheel. -/
structure TaskUnit where
  tasks : List Task
  nextNum : BitVec 64
  frontier : Vector (BitVec 64 × BitVec 64) 16      -- (fts, fwid) of each timeline (R335)
  versions : List Version
  reads : List ReadMark
  launches : List Launch
  nextLaunch : Nat
  dies : Vector Die 4
  halted : List (Nat × Nat × Nat)                   -- (die, core, launch): its HALT has retired in that launch (R321)
  failed : List (Nat × Nat)                         -- failed cores (R2)
  outOfService : List (Nat × Nat)                   -- cores taken out of service (R392)
  wheel : List (Nat × Nat × Nat)                    -- owned positions: (position, die, core), by position (R328)
  flagOwner : Option Nat                            -- the launch that holds the cluster's flag unit (R304)
  flags : Vector (BitVec 32) 2048                   -- cell (f, r) at 8 · f + r
  flagPoison : List Nat                             -- cells that an update has marked poisoned (R312)
  flagErrs : List Nat                               -- cells with an uncorrectable error that no update has found yet
deriving DecidableEq, Repr

/-- A frame of the KV pool that holds a page or a tail (R358): its reference count and entry states. Its rows and their headers lie in memory. -/
structure KvFrame where
  ctx : BitVec 4
  num : Nat                  -- its virtual address divided by 4,096
  units : Nat                -- its size in units of 4,096 bytes
  ref : Nat
  map : Bool                 -- a page-map frame (R370)
  tail : Bool
  states : List (BitVec 2)
deriving DecidableEq, Repr

/-- A handle-table entry (R357), with its flushed counts, its pages and tails by layer, and its page-map frame. -/
structure KvHandle where
  index : Nat
  gen : BitVec 8
  tenant : BitVec 8
  ctx : BitVec 4
  model : BitVec 4
  valid : Bool
  bound : BitVec 20
  len : BitVec 20
  lo : BitVec 20
  owed : BitVec 32
  mapFrame : Nat
  fl : List Nat              -- flushed count of each layer
  pages : List (Nat × Nat × Nat)   -- (layer, page, frame); page fl(l) of a layer is its tail
  hidden : List (Nat × Nat × Nat)  -- (layer, page, position): a frame that a KVFORK shares, from whose position on it holds nothing of this handle
deriving DecidableEq, Repr

/-- A model entry (R368). -/
structure KvModel where
  entry : BitVec 64
  tsbase : BitVec 64
  sbase : BitVec 64
  budget : BitVec 32
  prio : BitVec 6
  spec : Bool
  valid : Bool
  timeline : BitVec 4
  pmask : BitVec 6
  frame : BitVec 8
  lm1 : BitVec 8
  em1 : BitVec 9
  sdl : BitVec 4
  ssize : BitVec 16
deriving DecidableEq, Repr

/-- A context's KV record (R368). -/
structure KvRecord where
  pool : BitVec 64
  frames : BitVec 32
  fsize : BitVec 16
  first : BitVec 16
  count : BitVec 16
deriving DecidableEq, Repr

/-- One hardware context (R155, R368, R374, R389, R419). -/
structure Context where
  tenant : BitVec 8
  ranges : Vector RangeEntry 128
  timelines : BitVec 16
  kvrec : KvRecord
  models : Vector KvModel 15
  policy : Vector (BitVec 3) 256
  doorbell : List (BitVec 64)
  status : BitVec 64
  codes : List (BitVec 8)      -- codes that the loader has returned to the runtime, oldest first (R75)
  cmp : BitVec 16
  suspended : Bool
  ended : Bool
deriving DecidableEq, Repr

/-- A stash slot in use (R366): which exit it serves. -/
structure Stash where
  addr : Nat
  index : Nat
  pos : Nat
deriving DecidableEq, Repr

/-- The KV engines' own tables. -/
structure Kv where
  handles : List KvHandle
  frames : List KvFrame
  stash : List Stash
  backfills : List (BitVec 64 × Nat × Nat × Nat)   -- backfill tasks created: task number, handle index, position, layer (R367)
deriving DecidableEq, Repr

/-- A mooring of a collective (R413): its place and generation in the engine's table, its consumer, the chunk (bytes that are forwarded, or
the buffer they are served from) and its timer. -/
structure CollMoor where
  slot : BitVec 8
  gen : BitVec 8
  peer : BitVec 12
  addr : QuayAddr
  data : Option (List Byte)
  buffer : Nat
  len : Nat                    -- bytes in the buffer
  wire : Bool                  -- served in wire form
  remain : Nat
  absent : Bool
  accepted : Bool              -- its notice has been answered ACCEPT
  notice : Notice
  q : BitVec 12
deriving DecidableEq, Repr

/-- A data step of a step program (R410). -/
structure DataStep where
  op : BitVec 4
  px : Bool
  pc : BitVec 12
  qa : Bool
  qd : Int
  bs : BitVec 2
  bd : BitVec 2
  wr : Bool
  fw : Bool
  raw : Bool
  ph : BitVec 4
deriving DecidableEq, Repr

/-- What a data step works on (R412, R413): its peer, that peer's member core and its mirror, its block, its tag, and its chunk's place and length in a
block. -/
structure UnitAt where
  d : DataStep
  peer : Nat
  addr : QuayAddr
  mirror : Nat
  q : Nat
  tag : BitVec 32
  off : Nat
  len : Nat
  wire : Bool
deriving DecidableEq, Repr

/-- A segment that a unit pulls: its bytes once they have landed in the partition, repetitions sent, and the wait after an ABSENT (R238). -/
structure CollSeg where
  seg : Nat
  bytes : Option (List Byte)
  tries : Nat
  absentWait : Bool
deriving DecidableEq, Repr

/-- The pull of the unit in progress (R413): the notice it answers, the number its requests carry, its segments. -/
structure CollPull where
  unit : UnitAt
  notice : Notice
  lgen : BitVec 8
  segs : List CollSeg
deriving DecidableEq, Repr

/-- A running collective (R407 to R414). -/
structure CollRun where
  prog : BitVec 64
  bufs : Vector (BitVec 64) 4
  blen : BitVec 32
  fmt : ElemType
  op : BitVec 2
  slot : BitVec 4
  st : BitVec 64
  bbase : BitVec 22
  chunk : Nat
  stepAt : Nat                 -- the step to perform next, counted from prog; the END once every chunk has passed it
  loop : Option (Nat × Nat)    -- the place of the LOOP whose body runs, and k
  moors : List CollMoor
  pull : Option CollPull
  kept : List (Nat × Nat × List Byte)   -- fixed order: contributions to the current chunk (block, rank, bytes)
  bitmap : List Nat            -- bits q · cpb + j whose latest write completed
  bytes : Nat
  failing : Option (CollReason × BitVec 12)
deriving DecidableEq, Repr

/-- A notice in a collective engine's inbox (R231, R412): its record and its block's number in full. -/
structure CollIn where
  notice : Notice
  q : BitVec 12
deriving DecidableEq, Repr

/-- A communicator (R405, R409). state, reason, step and peer are those of its last collective. -/
structure Comm where
  idx : BitVec 6
  entry : CommEntry
  member : QuayAddr              -- the own member core
  state : BitVec 2
  reason : BitVec 4
  seq : BitVec 16
  step : BitVec 12
  peer : BitVec 12
  gens : Vector (BitVec 8) 256   -- generations of the engine's mooring entries
  owe : List QuayAddr            -- peers that were answered ABSENT while the context was suspended (R418)
  inbox : List CollIn            -- notices, in arrival order (R413)
  acks : List KeptAck            -- acknowledgements without an answer yet (R244)
  owing : List CollMoor          -- moorings released while their consumer was pending, whose notice has no ACCEPT yet (R229, R231)
  pulls : BitVec 8               -- pulls so far, by which a late answer is told apart (R237)
  run : Option CollRun
deriving DecidableEq, Repr

/-- The die's collective engine. -/
structure Coll where
  comms : List Comm
  last : Nat                   -- the index last served (R415)
  owed : List (Nat × Nat)      -- Counts (barrier object, bytes) for the core while its context is away (R418)
deriving DecidableEq, Repr

/-- A compartment's key epochs (R420, R421): the one to send with and its key, those before it with the cycle in which each was replaced, oldest
first, and the devices revoked. -/
structure Epoch where
  cmp : BitVec 16
  epoch : BitVec 8
  key : BitVec 256
  prev : List (BitVec 8 × BitVec 256 × BitVec 64)
  revoked : List (BitVec 12)
deriving DecidableEq, Repr

/-- What secures a frame on a link (R420): its epoch in clear, its IV, its payload as it travels, and the tag. -/
structure Seal where
  epoch : BitVec 8
  iv : BitVec 96
  payload : List Byte
  tag : BitVec 128
deriving DecidableEq, Repr

/-- A frame on its way (R399 to R402): the port it leaves or arrives by, none inside the package, and its virtual channel. -/
structure Sent where
  port : Option (BitVec 4)
  vc : BitVec 3
  sec : Option Seal
  frame : Frame
deriving DecidableEq, Repr

/-- The part that harbourmaster is taking out of service (R392). -/
inductive Service where
  | core (die core : Nat)
  | drain (die : Nat)
deriving DecidableEq, Repr

/-- What the scan network reads out (R391). -/
inductive ScanValue where
  | none
  | word (width v : Nat)
  | words (width : Nat) (l : List Nat)
  | acc (e : AccElem)
  | tile (anchor : BitVec 16) (range : Bool)
  | full (v : BitVec 32) (p : BitVec 8) (a : BitVec 16)
  | region (r : Option Region)
  | granule (g : GState)
  | bytes (l : List Byte)
  | queue (q : Queue)
  | moor (e : MoorEntry)
  | inbox (l : List InboxItem)
  | land (e : LandEntry)
  | quay (q : Quay)
  | unit (u : TaskUnit)
  | context (c : Context)
  | kv (k : Kv)
  | tasks (l : List Task)
  | versions (l : List Version)
  | readSets (l : List ReadMark)
  | wheel (l : List (Nat × Nat × Nat))
  | die (d : Die)
  | ranges (l : List RangeEntry)
  | handles (l : List KvHandle)
  | kvFrames (l : List KvFrame)
  | collectives (l : List Comm)
  | routes (l : List (Nat × RouteEntry))
  | core (c : Core)
  | posted (l : List Posted)
  | tlb (l : List TlbEntry)
  | coll (c : Coll)
  | keys (l : List (Nat × List Byte))
  | epochs (l : List (BitVec 16 × BitVec 8 × List (BitVec 12)))
deriving DecidableEq, Repr

/-- The package and its fabric ports (R385 to R403, R419 to R421). -/
structure Package where
  frozen : Bool
  off : Bool
  thermtrip : Bool
  unlocked : Bool
  degraded : Bool
  hubFailed : Bool
  spares : Vector Nat 4          -- spare lanes left on each die boundary (R386)
  lanes : Vector Nat 4           -- working lanes of each die boundary
  linkRate : Nat
  linkX16 : Bool
  cxl : Bool
  throttle : Nat                 -- cycles for which VEC and MTX starts are withheld (R396)
  fabric : Option (BitVec 12)    -- the fabric configuration's device number, which the next reset takes (R398)
  devNo : Option (BitVec 12)     -- the device's number
  routes : List (Nat × RouteEntry)
  portLanes : Vector Nat 16
  idle : Bool                    -- the ports hold their lanes idle (R390)
  paused : List (Nat × Nat)      -- (port, virtual channel) that the link's other end has paused (R402)
  pausing : List (Nat × Nat)     -- those that this end has paused
  wire : List Sent               -- frames that have left and are on their way
  rx : List Sent                 -- frames in the ports' input buffers
  sealNo : BitVec 72             -- the IV counter (R420)
  keys : List (Nat × List Byte)  -- enrolled keys by slot (R393)
  reports : List (List Byte)     -- attestation reports given (R395)
  slotB : Bool                   -- the active firmware slot is B (R394)
  images : Vector Nat 2          -- the numbers of the firmware images in slots A and B (R392, R394)
  bootImage : Nat                -- the image that was measured at the last reset (R393)
  service : Option Service       -- the part being taken out of service (R392)
  scanOut : List ScanValue       -- what the scan network has read out (R391)
  hostReads : List (List Byte)   -- what the host has read through the BARs, oldest first (R387, R389)
  refusing : List Nat            -- pieces of host memory for which the host refuses writes (R388)
  epochs : List Epoch
  deadChannels : List (Nat × Nat)   -- HBM channels (stack, channel) whose lines are poisoned (R397)
  rewritten : List Nat           -- pieces of them that have been written whole since, and hold data again (R325)
  retired : List (Nat × Nat)     -- dead channels whose pages the last launch took from the range tables (R397)
  bootHeld : Bool                -- neither firmware slot verified: the compute dies stay in reset (R394)
deriving DecidableEq, Repr

/-- Where an uncorrectable error strikes (R185, R210, R312, R325). -/
inductive Upset where
  | piece (l : Loc)
  | tile (tile elem : Nat)
  | flag (cell : Nat)
deriving DecidableEq, Repr

/-- One item of the schedule: which agent moves next, or what arrives from outside. -/
inductive Move where
  | strand                 -- the splitter takes the next word
  | engine (e : Eng)       -- the engine visits its next piece, or starts or completes a command
  | stale (e : Eng) (views : List (Loc × Nat))   -- the same, each of these pieces taken as it was before the newest n writes of it (R255)
  | early (hent : Bool) (j m : Nat) (views : List (Loc × Nat))   -- STQ works so on the j-th iteration after its current one: its next action, or the
                                                                 -- write of its m-th piece (R221)
  | torn (cuts : List (Nat × Eng))     -- each engine's move falls between the first k pieces of the strand's scalar read and the others (R16, R94)
  | defer                              -- the strand's scalar access retires with its parts still to be performed (R16, R97)
  | perform (k : Nat)                  -- the k-th part still due of the oldest such access is performed
  | cacheWord (pa : Nat)               -- the instruction cache takes the word at an address (R55)
  | cached (first second : Bool)       -- the strand's move, its first or second word coming from the instruction cache where it is there
  | event (i : Instr)      -- an event of the part
  | pass (cycles : Nat)    -- cycles pass
  | upset (u : Upset)                  -- an uncorrectable error arises; in host memory, a read that the host completes with an error (R388)
  | refuse (piece : Nat) (on : Bool)   -- the host begins or ceases to refuse writes of a piece of its memory (R388)
  | fabric (n : Option (BitVec 12))    -- the board or the runtime writes the fabric configuration (R398)
  | window (vf : Option (BitVec 4)) (off : Nat) (data : List Byte)   -- the host writes through BAR2 of a function (R387)
  | windowRead (vf : Option (BitVec 4)) (off n : Nat)                -- the host reads through it
  | statusRead (at_ : Bar0At)                                        -- the host reads 8 bytes of BAR0 (R389)
  | frame                              -- the oldest frame that can leave the outbox goes
  | land (k : Nat)                     -- the quay writes the next granule of the k-th response (R236)
  | carry (port : Option (BitVec 4)) (vc : BitVec 3)   -- the oldest frame on a channel reaches its other end
  | arrive (f : Sent)                  -- a frame reaches a port's input buffer
  | sink (port : BitVec 4) (vc : BitVec 3)             -- the device takes the oldest frame of a channel's input buffer
deriving DecidableEq, Repr

/-- The machine. -/
structure State where
  core : Core
  q : Queues
  spad : Memory                -- the cluster's eight scratchpads, address rank · 2^22 + offset (R138, R296)
  gran : Granules
  mem : Memory                 -- global memory by physical address (R324)
  poison : List Loc            -- pieces with an uncorrectable error (R325)
  accPoison : List (Nat × Nat) -- (tile, element) with an uncorrectable error (R210)
  ctxs : Vector Context 16
  tlb : List TlbEntry
  unit : TaskUnit
  quay : Quay
  posted : List Posted
  kv : Kv
  coll : Coll
  pkg : Package
  outbox : List Frame
  now : BitVec 64              -- Now() (R64)
  agenda : List Move           -- the model's own: the schedule
  enqNo : Nat                  -- the model's own: words enqueued so far
  freeNo : Nat                 -- the model's own: free values taken so far
  recent : List Recent         -- writes that some agent need not see yet, newest first (R255)
deriving DecidableEq, Repr

/-- Why the machine stops for good. -/
inductive Fault where
  /-- Raised by `step` once the board has removed core power (R396): the package has no state until the next reset. Safe. -/
  | powerOff
deriving DecidableEq, Repr

/-- Why a step has no meaning. -/
inductive Refusal where
  /-- An arm of `exec` that has no meaning yet. Safe. -/
  | notModelled (mnemonic : String)
  /-- Raised by `step` when the schedule names an instruction word as an event: words come only from the fetch. Safe. -/
  | notAnEvent
  /-- Raised by `exec` for an X form whose base is no CMD-layout engine command, which the decoder never makes (R40). Safe. -/
  | illFormed
deriving DecidableEq, Repr

def AccElem.zero : AccElem := ⟨0, 0⟩
def Tile.zero : Tile := ⟨Vector.replicate 1024 AccElem.zero, 0, false⟩

/-- The system registers at reset (R269): all zero but sr.resp. sr.self is the core's own address; log entry 3. -/
def SysRegs.reset : SysRegs :=
  { status := 0, causelo := 0, causehi := 0, epc := 0, dtgt := 0, dleft := 0, iterlo := 0, iterhi := 0,
    tvec := 0, uvec := 0, ucauselo := 0, ucausehi := 0, uepc := 0, udtgt := 0, udleft := 0, uiterlo := 0,
    uiterhi := 0, wid := 0, ts := 0, task := 0, budget := 0, ctx := 0, ntag := 0, bbase := 0, bphase := 0,
    seed := 0, resp := 7, confrec := 0, ptroot := 0, self := 0 }

/-- The strand at reset (R19): zero, but c0 and p0, and every full/empty bit FULL. -/
def Core.reset : Core :=
  { pc := 0, x := Vector.replicate 32 0, b := Vector.replicate 4 0, c := 1, v := Vector.replicate 32 0,
    p := (Vector.replicate 8 0).set 0 (BitVec.allOnes 256), a := Vector.replicate 16 Tile.zero,
    l := Vector.replicate 16 0, n := Vector.replicate 8 0, d := Vector.replicate 64 0, tk := Vector.replicate 16 0,
    vfull := BitVec.allOnes 32, pfull := BitVec.allOnes 8, afull := BitVec.allOnes 16,
    lmax := Vector.replicate 16 0, sys := SysRegs.reset, region := none, phase := .idle, wait := .none,
    monitor := none, drainFrom := none, saved := none, budgetStopped := false, mtxDone := 0,
    icache := [], linkDue := [], pending := [], depth := 0, kept := [] }

def Queue.empty : Queue := ⟨[], none, none, none, [], false, false, false⟩
def Queues.empty : Queues := ⟨.empty, .empty, .empty, .empty, .empty, .empty⟩

def MoorEntry.free : MoorEntry :=
  { tag := 0, size := 0, cls := 0, prio := 0, valid := false, expired := false, off := 0, gen := 0, remain := 0,
    grp := false, group := 0, slot := 0, pending := 0, pulled := 0, absent := 0, accepted := 0, baddr := 0, consumers := [], ctx := 0 }

def LandEntry.free : LandEntry :=
  { tag := 0, state := .free, reason := 0, lgen := 0, slot := 0, off := 0, size := 0, landed := 0, src := 0,
    baddr := 0, order := 0, notice := none, segs := [], removing := false, failing := none }

/-- The quay at reset (R228, R232, R240, R241). -/
def Quay.reset : Quay :=
  { moor := Vector.replicate 256 MoorEntry.free, inbox := [], land := Vector.replicate 64 LandEntry.free,
    policy := Vector.replicate 16 0, pace := Vector.replicate 8 0x400, groups := Vector.replicate 64 [],
    overrides := [], kept := [], issued := Vector.replicate 16 0, inFlight := [], absent := false,
    owner := 0, owePresent := [], lapsed := false, posted := 0, arrived := [], untold := [] }

def RangeEntry.zero : RangeEntry := ⟨0, 0, 0, 0, false, false, false⟩
def BindRecord.zero : BindRecord := ⟨0, 0, 0, 0, 0, false⟩

/-- A die's tables at reset (R317, R320). -/
def Die.reset : Die :=
  { binds := Vector.replicate 64 BindRecord.zero, pattern := Vector.ofFn fun i => BitVec.ofNat 8 (i.val % 8), ptr := 0,
    mgmtFailed := false, drained := false, occ := 0 }

/-- The task unit at reset (R333, R335): the task counter at 1, every frontier all ones. -/
def TaskUnit.reset : TaskUnit :=
  { tasks := [], nextNum := 1, frontier := Vector.replicate 16 (BitVec.allOnes 64, BitVec.allOnes 64), versions := [],
    reads := [], launches := [], nextLaunch := 0, dies := Vector.replicate 4 Die.reset, halted := [], failed := [],
    outOfService := [], wheel := [], flagOwner := none, flags := Vector.replicate 2048 0, flagPoison := [], flagErrs := [] }

def KvModel.zero : KvModel := ⟨0, 0, 0, 0, 0, false, false, 0, 0, 0, 0, 0, 0, 0⟩
def KvRecord.zero : KvRecord := ⟨0, 0, 0, 0, 0⟩

/-- A context at reset: range table clear (R155), every layer's KV policy WAIT, code 1 (R374). -/
def Context.reset : Context :=
  { tenant := 0, ranges := Vector.replicate 128 RangeEntry.zero, timelines := 0, kvrec := KvRecord.zero,
    models := Vector.replicate 15 KvModel.zero, policy := Vector.replicate 256 1, doorbell := [], status := 0, codes := [],
    cmp := 0, suspended := false, ended := false }

/-- The package at reset (R386, R390): every lane working with four spares, no link trained, every port down. -/
def Package.reset : Package :=
  { frozen := false, off := false, thermtrip := false, unlocked := false, degraded := false, hubFailed := false,
    spares := Vector.replicate 4 4, lanes := Vector.replicate 4 64, linkRate := 0, linkX16 := false, cxl := false,
    throttle := 0, fabric := none, devNo := none, routes := [], portLanes := Vector.replicate 16 0, idle := false, paused := [],
    pausing := [], wire := [], rx := [], sealNo := 0, keys := [], reports := [], slotB := false, images := #v[0, 1], bootImage := 0,
    service := none, scanOut := [], hostReads := [], refusing := [], epochs := [], deadChannels := [], rewritten := [],
    retired := [], bootHeld := false }

/-- The machine right after reset (R19, R141, R228, R232, R269): no task, nothing listed in any memory. -/
def State.reset : State :=
  { core := Core.reset, q := Queues.empty, spad := [], gran := [], mem := [], poison := [], accPoison := [],
    ctxs := Vector.replicate 16 Context.reset, tlb := [], unit := TaskUnit.reset, quay := Quay.reset, posted := [],
    kv := ⟨[], [], [], []⟩, coll := ⟨[], 0, []⟩, pkg := Package.reset, outbox := [], now := 0, agenda := [], enqNo := 0,
    freeNo := 0, recent := [] }

end Sys2Proof.Machine
end

