-- ==== Sys2Proof/Machine/Memory.lean ====
section
/-!
DEFINITION. Bytes, granule states and 16-byte pieces (R138 to R142, R299), and the translation of a global virtual address
(R155 to R160).
-/

namespace Sys2Proof.Machine

/-! ## Byte strings -/

/-- A byte string read little-endian (R9). -/
def leNat : List Byte → Nat
  | [] => 0
  | b :: bs => b.toNat + 256 * leNat bs

/-- The low `n` bytes of a number, least significant first (R9). -/
def leBytes : Nat → Nat → List Byte
  | 0, _ => []
  | n + 1, v => BitVec.ofNat 8 v :: leBytes n (v / 256)

/-! ## Memory -/

/-- The byte at an address; an unlisted address reads as `Config.unwrittenByte`. -/
def Memory.get : Memory → Nat → Byte
  | [], _ => Config.unwrittenByte
  | (a, v) :: m, x => if x = a then v else if x < a then Config.unwrittenByte else Memory.get m x

/-- Stores a byte, keeping the canonical form. -/
def Memory.put : Memory → Nat → Byte → Memory
  | [], x, v => if v = Config.unwrittenByte then [] else [(x, v)]
  | (a, w) :: m, x, v =>
    if x < a then (if v = Config.unwrittenByte then (a, w) :: m else (x, v) :: (a, w) :: m)
    else if x = a then (if v = Config.unwrittenByte then m else (x, v) :: m)
    else (a, w) :: Memory.put m x v

/-- Every listed address is at least `lo`, they rise strictly, and none holds what an unlisted address reads as. -/
def Memory.wfAbove : Nat → Memory → Bool
  | _, [] => true
  | lo, (a, v) :: m => decide (lo ≤ a) && v != Config.unwrittenByte && Memory.wfAbove (a + 1) m

/-- The canonical form. -/
def Memory.wf (m : Memory) : Bool := m.wfAbove 0

/-- `n` bytes from an address upward. -/
def Memory.getN (m : Memory) (a : Nat) : Nat → List Byte
  | 0 => []
  | n + 1 => m.get a :: m.getN (a + 1) n

/-- Stores bytes from an address upward. -/
def Memory.putN (m : Memory) (a : Nat) : List Byte → Memory
  | [] => m
  | b :: bs => (m.put a b).putN (a + 1) bs

/-- The aligned 16 bytes of piece `k` (R299). -/
def Memory.piece (m : Memory) (k : Nat) : BitVec 128 := BitVec.ofNat 128 (leNat (m.getN (16 * k) 16))

/-- Byte `i` of a piece. -/
def pieceByte (d : BitVec 128) (i : Nat) : Byte := d.extractLsb' (8 * i) 8

/-- Writes, from byte `i` of a piece on, the bytes of `d` that the mask names; `n` bytes are left. -/
def Memory.putMasked (m : Memory) (k : Nat) (mask : BitVec 16) (d : BitVec 128) (i : Nat) : Nat → Memory
  | 0 => m
  | n + 1 =>
    Memory.putMasked (if mask.getLsbD i then m.put (16 * k + i) (pieceByte d i) else m) k mask d (i + 1) n

/-- Writes the bytes of a piece that the mask names (R299). -/
def Memory.putPiece (m : Memory) (k : Nat) (mask : BitVec 16) (d : BitVec 128) : Memory := m.putMasked k mask d 0 16

/-! ## Granule states (R141) -/

/-- The state of a granule; an unlisted one is EMPTY. -/
def Granules.get : Granules → Nat → GState
  | [], _ => .empty
  | (a, v) :: m, x => if x = a then v else if x < a then .empty else Granules.get m x

/-- Sets the state of a granule. -/
def Granules.put : Granules → Nat → GState → Granules
  | [], x, v => if v = .empty then [] else [(x, v)]
  | (a, w) :: m, x, v =>
    if x < a then (if v = .empty then (a, w) :: m else (x, v) :: (a, w) :: m)
    else if x = a then (if v = .empty then m else (x, v) :: m)
    else (a, w) :: Granules.put m x v

def Granules.wfAbove : Nat → Granules → Bool
  | _, [] => true
  | lo, (a, v) :: m => decide (lo ≤ a) && v != .empty && Granules.wfAbove (a + 1) m

/-- The canonical form of the granule states. -/
def Granules.wf (m : Granules) : Bool := m.wfAbove 0

/-- The 2-bit code of a state (R141). -/
def GState.code : GState → Nat
  | .empty => 0 | .full => 1 | .moored => 2

/-- The state of a code in a restore image; code 3 stores EMPTY (R141). -/
def GState.ofCode (c : Nat) : GState := if c = 1 then .full else if c = 2 then .moored else .empty

/-- Whether an access of a qualifier may proceed on a granule (R142). -/
def Qual.ready : Qual → GState → Bool
  | .loadW, g => g != .empty
  | .loadC, g => g != .empty
  | .loadN, _ => true
  | .storeW, g => g == .empty
  | .storeN, g => g != .moored
  | .engine, g => g != .moored
  | .moor, g => g == .full

/-- The state that an access leaves (R142). -/
def Qual.after : Qual → GState → GState
  | .loadW, g => g
  | .loadC, g => if g = .full then .empty else g
  | .loadN, g => g
  | .storeW, _ => .full
  | .storeN, _ => .full
  | .engine, _ => .full
  | .moor, _ => .moored

/-! ## The core's own address (R226) -/

def State.self (s : State) : QuayAddr := s.core.sys.self
def State.selfDie (s : State) : Nat := (s.self.extractLsb' 12 2).toNat
/-- Core within the die: 8 · cluster + rank. -/
def State.selfCore (s : State) : Nat := (s.self.extractLsb' 14 6).toNat
def State.selfRank (s : State) : Nat := (s.self.extractLsb' 14 3).toNat
def State.selfCluster (s : State) : Nat := (s.self.extractLsb' 17 3).toNat

/-- Address of a byte of a cluster rank's scratchpad in `State.spad`. -/
def spadAddr (rank off : Nat) : Nat := rank * Config.spadSize + off
/-- Index of a granule of a cluster rank in `State.gran`. -/
def granIdx (rank g : Nat) : Nat := rank * Config.spadGranules + g

def State.granState (s : State) (g : Nat) : GState := s.gran.get g
def State.setGran (s : State) (g : Nat) (v : GState) : State := { s with gran := s.gran.put g v }

/-! ## Physical memory -/

/-- Physical addresses that exist: HBM and host memory (R324). -/
def physExists (pa : Nat) : Bool := decide (pa < Config.hbmEnd) || (decide (Config.hostBase ≤ pa) && decide (pa < 2 ^ 52))

/-! ## Poison (R185, R325) -/

/-- Channel of an HBM address: its stack, and its place in the stack (R324, R386). -/
def channelOf (pa : Nat) : Nat × Nat :=
  (pa / 4096 % 8, pa / 256 % 16 + 16 * ((pa / 2 ^ 15 + pa / 2 ^ 16) % 2))

/-- The die boundaries on the way from a die to an address's home (R324, R385, R388): 0–1, 0–2, 1–3 and 2–3 in this order. -/
def boundaries (die pa : Nat) : List Nat :=
  let home := if pa < Config.hbmEnd then pa / 4096 % 8 / 2 else if die = 2 then 0 else if die = 3 then 1 else die
  match die, home with
  | 0, 1 => [0] | 1, 0 => [0] | 0, 2 => [1] | 2, 0 => [1] | 1, 3 => [2] | 3, 1 => [2] | 2, 3 => [3] | 3, 2 => [3]
  | 0, 3 => [0, 2] | 3, 0 => [0, 2] | 1, 2 => [0, 1] | 2, 1 => [0, 1]
  | _, _ => []

/-- A boundary with fewer than 48 lanes has failed (R386, R397). -/
def State.boundaryFailed (s : State) (b : Nat) : Bool := decide ((s.pkg.lanes[b % 4]'(Nat.mod_lt _ (by decide))) < 48)

/-- The boundaries between the hub and an address's home: the hub joins dies 0 and 1, and dies 2 and 3 behind them (R385, R397). -/
def hubBoundaries (pa : Nat) : List Nat :=
  if Config.hbmEnd ≤ pa then [] else match pa / 4096 % 8 / 2 with | 2 => [1] | 3 => [2] | _ => []

/-- An access of the hub would have to cross a failed boundary (R397). -/
def State.hubCutOff (s : State) (pa : Nat) : Bool := s.pkg.degraded && (hubBoundaries pa).any s.boundaryFailed

/-- An access from a die would have to cross a failed boundary: it takes ECC at its agent (R397). -/
def State.cutFrom (s : State) (die : Nat) : Loc → Bool
  | .spad _ => false
  | .glob k => s.pkg.degraded && (boundaries die (16 * k)).any s.boundaryFailed

/-- The same of an access of this core. -/
def State.cutOff (s : State) (l : Loc) : Bool := s.cutFrom s.selfDie l

/-- The piece holds an uncorrectable error, or its channel is dead (R325, R397). -/
def State.spoiled (s : State) (l : Loc) : Bool :=
  s.poison.contains l ||
    match l with
    | .spad _ => false
    | .glob k => s.pkg.deadChannels != [] && decide (16 * k < Config.hbmEnd) && s.pkg.deadChannels.contains (channelOf (16 * k)) &&
        !s.pkg.rewritten.contains k

/-- A read of the piece takes ECC. -/
def State.poisoned (s : State) (l : Loc) : Bool := s.spoiled l || s.cutOff l

/-- A write of the whole piece clears its poison (R325). -/
def State.clearPoison (s : State) (l : Loc) (mask : BitVec 16) : State :=
  if mask = BitVec.allOnes 16 then { s with poison := s.poison.filter (· != l) } else s

/-! ## Translation (R155 to R160) -/

/-- What becomes of a global virtual address. -/
inductive Xl where
  | ok (pa : Nat)
  | range
  | perm (sub : BitVec 8)
  | nres
  | ecc (pa : Nat)             -- the walker has read a poisoned piece, or across a failed boundary (R325, R397)
deriving DecidableEq, Repr

/-- The lowest-numbered valid entry of a kind that covers a page (R156). -/
def State.cover (s : State) (ctx : BitVec 4) (demand : Bool) (page : Nat) : Option RangeEntry :=
  (s.ctxs[ctx.toNat]'(by omega)).ranges.toList.find? fun e =>
    e.valid && e.demand == demand && decide (e.vbase.toNat ≤ page) && decide (page ≤ e.vlast.toNat)

/-- What the walker finds (R157). -/
inductive Walk where
  | leaf (perm : BitVec 8) (pa : Nat)
  | absent
  | malformed
  | ecc (pa : Nat)
deriving DecidableEq, Repr

/-- Walks the levels left, given as (lowest va bit, index width), from the table at `ta`. The last level holds the leaf. A table address without
memory, and a last entry that is no leaf, count as malformed by the model's choice: log entry 68. -/
def walkFrom (m : Memory) (bad : Loc → Bool) (va : Nat) : List (Nat × Nat) → Nat → Walk
  | [], _ => .malformed
  | (sh, bits) :: rest, ta =>
    let at_ := ta + 8 * (va / 2 ^ sh % 2 ^ bits)
    if !physExists at_ then .malformed
    else if bad (.glob (at_ / 16)) then .ecc (at_ / 16 * 16)
    else
      let w : BitVec 64 := BitVec.ofNat 64 (leNat (m.getN at_ 8))
      let perm := w.extractLsb' 2 8
      let pa := (w.extractLsb' 12 40).toNat * 4096
      if !w.getLsbD 0 then .absent
      else if w.extractLsb' 10 2 != 0 || w.extractLsb' 52 12 != 0 then .malformed
      else match rest with
        | [] => if w.getLsbD 1 && pa % 2 ^ sh == 0 && physExists pa then .leaf perm pa else .malformed
        | _ => if w.getLsbD 1 || perm != 0 then .malformed else walkFrom m bad va rest pa

/-- The walk of a demand window's page (R157). -/
def State.walk (s : State) (pg2m : Bool) (va : Nat) : Walk :=
  walkFrom s.mem s.poisoned va (if pg2m then [(39, 13), (30, 9), (21, 9)] else [(39, 13), (30, 9), (21, 9), (16, 5)])
    ((s.core.sys.ptroot.extractLsb' 12 40).toNat * 4096)

/-- Bytes in a page of a demand window (R155). -/
def pageSize (pg2m : Bool) : Nat := if pg2m then 2 ^ 21 else 2 ^ 16

/-- The cached leaf of a page. -/
def State.tlbFind (s : State) (ctx : BitVec 4) (big : Bool) (va : Nat) : Option TlbEntry :=
  s.tlb.find? fun t => t.ctx == ctx && t.big == big && decide (t.vbase = va / pageSize big * pageSize big)

/-- The leaf by which an access with the permission bits `need` goes: the cached one, unless it denies the access, in which case the
walker reads the leaf once more (R157). -/
def State.leafOf (s : State) (ctx : BitVec 4) (need : BitVec 8) (big : Bool) (va : Nat) : Walk :=
  match s.tlbFind ctx big va with
  | some t => if need &&& t.perm = need then .leaf t.perm t.pbase else s.walk big va
  | none => s.walk big va

/-- The page of a physical address lies in a channel whose pages have been taken from the range tables (R397): its 16 pieces of 256 bytes
lie in the 16 channels of one half of the stack (R386). -/
def State.pageRetired (s : State) (pa : Nat) : Bool :=
  s.pkg.retired != [] && decide (pa < Config.hbmEnd) &&
    s.pkg.retired.any fun c => c.1 == (channelOf pa).1 && c.2 / 16 == (channelOf pa).2 / 16

/-- A global virtual address under the permission bits `need` (R156, R158, R160). -/
def State.translate (s : State) (ctx : BitVec 4) (need : BitVec 8) (va : Nat) : Xl :=
  if 2 ^ 52 ≤ va then .range
  else match s.cover ctx false (va / 4096) with
    | some e =>
      if need &&& e.perm = need then
        let pa := (e.pbase.toNat + (va / 4096 - e.vbase.toNat)) * 4096 + va % 4096
        if physExists pa && !s.pageRetired pa then .ok pa else .range
      else .perm 0
    | none =>
      match s.cover ctx true (va / 4096) with
      | none => .range
      | some e =>
        if need &&& e.perm ≠ need then .perm 0
        else match s.leafOf ctx need e.pg2m va with
          | .absent => .nres
          | .malformed => .perm 1
          | .ecc pa => .ecc pa
          | .leaf perm pa => if need &&& perm = need then .ok (pa + va % pageSize e.pg2m) else .perm 0

/-- The page TLB after an access that `translate` has let through: it caches the leaf (R157). -/
def State.tlbTouch (s : State) (ctx : BitVec 4) (need : BitVec 8) (va : Nat) : State :=
  match s.cover ctx false (va / 4096), s.cover ctx true (va / 4096) with
  | none, some e =>
    match s.leafOf ctx need e.pg2m va with
    | .leaf perm pa =>
      let vb := va / pageSize e.pg2m * pageSize e.pg2m
      let others := s.tlb.filter fun t => !(t.ctx == ctx && t.big == e.pg2m && decide (t.vbase = vb))
      { s with tlb := ⟨ctx, vb, e.pg2m, pa, perm⟩ :: others }
    | _ => s
  | _, _ => s

/-! ## Pieces of an access (R299, R300) -/

/-- The aligned pieces of an access, each as its first address and length; `fuel` at least the number of pieces. -/
def pieces : Nat → Nat → Nat → List (Nat × Nat)
  | 0, _, _ => []
  | fuel + 1, a, n =>
    if n = 0 then []
    else
      let k := min n (16 - a % 16)
      (a, k) :: pieces fuel (a + k) (n - k)

/-- The parts of an access that lie in one 4 KiB frame each; `fuel` at least their number. -/
def spans : Nat → Nat → Nat → List (Nat × Nat)
  | 0, _, _ => []
  | fuel + 1, a, n =>
    if n = 0 then []
    else
      let k := min n (4096 - a % 4096)
      (a, k) :: spans fuel (a + k) (n - k)

/-- A list in pieces of `n`; `fuel` is their number. -/
def chunks {α : Type} (n : Nat) : Nat → List α → List (List α)
  | 0, _ => []
  | f + 1, l => l.take n :: chunks n f (l.drop n)

/-- Some value of 0 to n − 1 as a list, ascending. -/
def upTo (n : Nat) : List Nat := List.range n

end Sys2Proof.Machine
end

