-- ==== Sys2Proof/Machine/Spec.lean ====
section
/-!
DEFINITION. Global memory as tasks see it: balloons, read sets, versions, conflicts and aborts (R338 to R343), and the writes of agents
that belong to no task.
-/

namespace Sys2Proof.Machine

/-- The core's queue registers. -/
def Queues.get (q : Queues) : Eng → Queue
  | .vec => q.vec | .mtx => q.mtx | .ldq => q.ldq | .stq => q.stq | .prt => q.prt | .kvc => q.kvc

def Queues.set (q : Queues) (e : Eng) (v : Queue) : Queues :=
  match e with
  | .vec => { q with vec := v } | .mtx => { q with mtx := v } | .ldq => { q with ldq := v }
  | .stq => { q with stq := v } | .prt => { q with prt := v } | .kvc => { q with kvc := v }

def State.setQ (s : State) (e : Eng) (v : Queue) : State := { s with q := s.q.set e v }

/-- Task order (R7). -/
def keyLt (ts wid ts' wid' : BitVec 64) : Bool :=
  decide (ts.toNat < ts'.toNat) || (ts == ts' && decide (wid.toNat < wid'.toNat))

/-- The engine permission mask of a task where it is placed (R244, R332). -/
def Task.mask (t : Task) : BitVec 6 := if t.shut then t.pmask &&& 0x2F#6 else t.pmask

def Task.keyLt (t u : Task) : Bool := Machine.keyLt t.ts t.wid u.ts u.wid

/-- The uncommitted task of a number. -/
def State.task (s : State) (n : BitVec 64) : Option Task := s.unit.tasks.find? (·.num == n)

/-- The task that runs on this core, or that it holds parked. -/
def State.runTask (s : State) : Option Task :=
  match s.task s.core.sys.task with
  | some t =>
    if t.die = s.selfDie ∧ t.core = s.selfCore ∧ (t.state = .running ∨ t.state = .parked ∨ t.state = .ended) then some t else none
  | none => none

/-- The running task is speculative: spec of sr.status (R270, R336). -/
def State.specNow (s : State) : Bool := s.core.sys.status.getLsbD 7

def State.mapTasks (s : State) (f : Task → Task) : State :=
  { s with unit := { s.unit with tasks := s.unit.tasks.map f } }

/-! ## Placement (R318) -/

/-- A die's tables. -/
def State.die (s : State) (d : Nat) : Die := s.unit.dies[d % 4]'(Nat.mod_lt _ (by decide))

/-- The lowest-numbered valid record of a die that covers a key. -/
def State.recordOn (s : State) (die : Nat) (t : Task) : Option BindRecord :=
  (s.die die).binds.toList.find? fun r =>
    r.valid && r.timeline == t.timeline && r.ctx == t.ctx && decide (r.widlo.toNat ≤ t.wid.toNat) && decide (t.wid.toNat ≤ r.widhi.toNat)

/-- The die whose records cover a task. -/
def State.bindingDie (s : State) (t : Task) : Option Nat := (upTo 4).find? fun d => (s.recordOn d t).isSome

/-- A task as it waits in the queue of the die that binds it (R318, R319). -/
def State.queued (s : State) (t : Task) : Task := { t with die := (s.bindingDie t).getD t.die }

/-! ## Reading -/

/-- The version that serves a read of a byte by task `u`: the highest key at or below its own (R342). -/
def State.versionFor (s : State) (u : Task) (pa : Nat) : Option Version :=
  s.unit.versions.foldl (init := none) fun best v =>
    if v.timeline == u.timeline && decide (v.line = pa / 64) && v.mask.getLsbD (pa % 64) && !keyLt u.ts u.wid v.ts v.wid then
      match best with
      | some b => if keyLt b.ts b.wid v.ts v.wid then some v else some b
      | none => some v
    else best

/-- A byte of global memory as this core's task reads it. -/
def State.globByte (s : State) (pa : Nat) : Byte :=
  match s.unit.versions, s.runTask with
  | [], _ => s.mem.get pa
  | _, none => s.mem.get pa
  | _, some u =>
    match s.versionFor u pa with
    | some v => v.data.extractLsb' (8 * (pa % 64)) 8
    | none => s.mem.get pa

def State.globBytes (s : State) (pa : Nat) : Nat → List Byte
  | 0 => []
  | n + 1 => s.globByte pa :: s.globBytes (pa + 1) n

/-- The tasks other than `u` whose versions a read of these bytes uses. -/
def State.versionTasks (s : State) (u : Task) (pa n : Nat) : List (BitVec 64) :=
  ((upTo n).filterMap fun i => (s.versionFor u (pa + i)).map (·.task)).filter (· != u.num) |>.eraseDups

/-- A speculative task's read makes it depend on the tasks whose versions it used, whether the read is tracked or not (R342). -/
def State.dependRead (s : State) (pa n : Nat) : State :=
  if !s.specNow then s
  else match s.runTask with
    | none => s
    | some u =>
      let from_ := s.versionTasks u pa n
      if from_ = [] then s
      else s.mapTasks fun t => if t.num == u.num then { t with readsFrom := (t.readsFrom ++ from_).eraseDups } else t

/-- Lines that join the read set of a speculative task (R341). -/
def State.trackLines (s : State) (lines : List Nat) : State :=
  if !s.specNow then s
  else match s.runTask with
    | none => s
    | some u =>
      let new := lines.eraseDups.filter fun l => !s.unit.reads.any fun r => r.task == u.num && decide (r.line = l)
      { s with unit := { s.unit with reads := s.unit.reads ++ new.map fun l => ⟨u.num, l⟩ } }

def linesOf (pa n : Nat) : List Nat := ((upTo n).map fun i => (pa + i) / 64).eraseDups

/-- A tracked read by a speculative task joins its read set, and makes it depend on the tasks whose versions it read (R341, R342). -/
def State.trackRead (s : State) (pa n : Nat) : State := (s.dependRead pa n).trackLines (linesOf pa n)

/-! ## Aborts (R343) -/

/-- The scratchpad frame of a task on this core: its first granule (R334). -/
def frameFirst (frame : BitVec 8) : Nat := Config.spadGranules - 256 * frame.toNat

/-- Sets EMPTY every granule of the frame on a core of this cluster that is not MOORED (R334, R343). -/
def State.emptyFrameOn (s : State) (rank : Nat) (frame : BitVec 8) : State :=
  let lo := granIdx rank (frameFirst frame)
  let hi := granIdx rank Config.spadGranules
  { s with gran := s.gran.filter fun p => !(decide (lo ≤ p.1) && decide (p.1 < hi) && p.2 == .full) }

/-- The frame of a task, on the core that runs it or is to run it; cores of other clusters are not in the model. -/
def State.emptyFrame (s : State) (die core : Nat) (frame : BitVec 8) : State :=
  if die = s.selfDie ∧ core / 8 = s.selfCluster then s.emptyFrameOn (core % 8) frame else s

/-- The strand's side of an abort of the task that runs on this core: steps 1 and 3 (R343). -/
def State.abortStrand (s : State) (t : Task) : State :=
  let sys := { s.core.sys with
    status := s.core.sys.status &&& 0x133#9     -- uact, sact, held and spec end with the run
    bphase := t.saveBphase }
  let core := { s.core with
    tk := t.saveTk, sys := sys, vfull := BitVec.allOnes 32, pfull := BitVec.allOnes 8, afull := BitVec.allOnes 16,
    region := none, phase := .idle, wait := .none, monitor := none, saved := none, pending := [], depth := 0, kept := [] }
  { s with core := core, q := Queues.empty, recent := [] }

/-- Drops what the task unit and the L2 hold for a task: its balloon lines, versions and read set (R343 step 2). -/
def State.dropSpec (s : State) (n : BitVec 64) : State :=
  { s with unit := { s.unit with versions := s.unit.versions.filter (·.task != n), reads := s.unit.reads.filter (·.task != n) } }

/-- The tasks that read a version of `n` (R343 step 4). -/
def State.dependants (s : State) (n : BitVec 64) : List (BitVec 64) :=
  (s.unit.tasks.filter fun t => t.readsFrom.contains n).map (·.num)

/-- The children of a task. -/
def State.children (s : State) (n : BitVec 64) : List (BitVec 64) :=
  (s.unit.tasks.filter fun t => t.parent == n && t.num != n).map (·.num)

/-- Lowers the group count of a launch (R323). -/
def State.lowerGroup (s : State) (launch : Nat) : State :=
  { s with unit := { s.unit with launches := s.unit.launches.map fun l => if l.id = launch then { l with group := l.group - 1 } else l } }

/-- Aborts (`false`) or discards (`true`) the tasks of a work list, with the dependants and descendants of each, every task aborted at most
once (R343 steps 1 to 6). The fuel bounds the number of entries taken. -/
def abortAll : Nat → List (BitVec 64 × Bool) → State → State
  | 0, _, s => s
  | _, [], s => s
  | fuel + 1, (n, drop) :: rest, s =>
    match s.task n with
    | none => abortAll fuel rest s
    | some t =>
      let here := match s.runTask with
        | some r => r.num == n
        | none => false
      let deps := ((s.dependants n).filter fun d => !rest.any fun e => e.1 == d).map fun d => (d, false)
      let kids := (s.children n).map fun d => (d, true)
      let s := if here then s.abortStrand t else s
      let s := if t.state == .ready then s else s.emptyFrame t.die t.core t.frame
      let s := s.dropSpec n
      let s :=
        if drop then
          ({ s with unit := { s.unit with tasks := s.unit.tasks.filter (·.num != n) } }).lowerGroup t.launch
        else
          s.mapTasks fun u =>
            if u.num == n then
              { (s.queued u) with
                state := .ready, core := 0, trap := 0, readsFrom := [], shut := false
                aborts := if u.aborts = BitVec.allOnes 16 then u.aborts else u.aborts + 1 }
            else u
      abortAll fuel (rest ++ kids ++ deps) s

/-- Entries that a work list of `k` tasks can come to: each task is aborted at most once, and discarded through its parent at most twice. -/
def State.abortFuel (s : State) (k : Nat) : Nat := 3 * s.unit.tasks.length + k + 1

/-- Aborts a task (R343). -/
def State.abort (s : State) (n : BitVec 64) : State := abortAll (s.abortFuel 1) [(n, false)] s

/-- Aborts several tasks in one action, each once (R342, R343). -/
def State.abortList (s : State) (l : List (BitVec 64)) : State :=
  abortAll (s.abortFuel l.length) (l.eraseDups.map fun n => (n, false)) s

/-! ## Writing -/

/-- Any byte of the line is written: WAITA's monitor fires (R308). -/
def State.fireMonitor (s : State) (pa : Nat) : State :=
  if s.core.monitor = some (pa / 64) then { s with core := { s.core with monitor := none } } else s

/-- A write of these pieces: whoever's it is, every agent finds it from now on, unless `noteWrite` says otherwise of it (R255). -/
def State.settle (s : State) (ls : List Loc) : State :=
  if s.recent = [] then s else { s with recent := s.recent.filter fun w => !ls.contains w.loc }

/-- Memory itself takes the bytes, and whole pieces among them lose their poison. -/
def State.storeMem (s : State) (pa : Nat) (bs : List Byte) : State :=
  let s := s.settle ((pieces (bs.length + 1) pa bs.length).map fun p => .glob (p.1 / 16))
  let whole := ((pieces (bs.length + 1) pa bs.length).filter fun p => p.2 = 16).map fun p => Loc.glob (p.1 / 16)
  let fired := s.core.monitor.any fun l => decide (pa / 64 ≤ l) && decide (l ≤ (pa + bs.length - 1) / 64)
  let s := if fired && bs != [] then { s with core := { s.core with monitor := none } } else s
  let back := if s.pkg.deadChannels = [] then [] else whole.filterMap fun l => match l with | .glob k => some k | .spad _ => none
  { s with mem := s.mem.putN pa bs, poison := if s.poison = [] then [] else s.poison.filter fun l => !whole.contains l
           pkg := { s.pkg with rewritten := s.pkg.rewritten ++ back } }

/-- The tasks that a write to these lines aborts. The writer is the task `w`, or an agent that belongs to no task (R342). -/
def State.conflicting (s : State) (w : Option Task) (lines : List Nat) : List (BitVec 64) :=
  let readers := (s.unit.reads.filter fun r => lines.contains r.line).map (·.task) |>.eraseDups
  readers.filter fun n =>
    match w, s.task n with
    | some t, some u => if u.timeline == t.timeline then t.keyLt u else true
    | none, some _ => true
    | _, none => false

/-- The hub records in a context's status word that the host has refused a write. Which bit it sets is free; bits 0 to 2 have their own meanings
(R388, R389; log entry 70). -/
def State.refusedWrite (s : State) (ctx : BitVec 4) : State :=
  let c := s.ctxs[ctx.toNat]'(by omega)
  { s with ctxs := s.ctxs.set ctx.toNat { c with status := c.status ||| (1 <<< (3 + Config.refusedBit % 61)) } (by omega) }

/-- Memory takes a context's bytes, but for those that the host refuses (R388). -/
def State.storeFor (s : State) (ctx : BitVec 4) (pa : Nat) (bs : List Byte) : State :=
  if s.pkg.refusing = [] then s.storeMem pa bs
  else (pieces (bs.length + 1) pa bs.length).foldl (init := s) fun s p =>
    if s.pkg.refusing.contains (p.1 / 16) then s.refusedWrite ctx else s.storeMem p.1 ((bs.drop (p.1 - pa)).take p.2)

/-- A write straight to memory for a context, by an agent of no task or a non-speculative task (R342). -/
def State.writeBy (s : State) (w : Option Task) (ctx : BitVec 4) (pa : Nat) (bs : List Byte) : State :=
  let victims := if s.unit.reads = [] then [] else s.conflicting w (linesOf pa bs.length)
  (s.storeFor ctx pa bs).abortList victims

/-- The same for the task's context, or the running one. -/
def State.writeDirect (s : State) (w : Option Task) (pa : Nat) (bs : List Byte) : State :=
  s.writeBy w (match w with | some t => t.ctx | none => s.core.sys.ctx.extractLsb' 0 4) pa bs

/-- Merges one byte into a task's version of its line (R339). -/
def mergeByte (t : Task) (vs : List Version) (pa : Nat) (b : Byte) : List Version :=
  let sh := 8 * (pa % 64)
  let put (v : Version) : Version :=
    { v with mask := v.mask ||| (1#64 <<< (pa % 64)),
             data := (v.data &&& ~~~((0xFF#512) <<< sh)) ||| ((b.setWidth 512) <<< sh) }
  if vs.any fun v => v.task == t.num && decide (v.line = pa / 64) then
    vs.map fun v => if v.task == t.num && decide (v.line = pa / 64) then put v else v
  else vs ++ [put ⟨t.num, t.timeline, t.ts, t.wid, pa / 64, 0, 0⟩]

def mergeBytes (t : Task) (vs : List Version) (pa : Nat) : List Byte → List Version
  | [] => vs
  | b :: bs => mergeBytes t (mergeByte t vs pa b) (pa + 1) bs

/-- The other holders of versions of a line on this die, and the one of `t`'s timeline with the highest key (R342). -/
def State.lineHolders (s : State) (t : Task) (line : Nat) : List Version :=
  s.unit.versions.filter fun v =>
    decide (v.line = line) && v.task != t.num && (match s.task v.task with | some u => decide (u.die = t.die) | none => false)

def highest (vs : List Version) : Option Version :=
  vs.foldl (init := none) fun best v =>
    match best with
    | some b => if keyLt b.ts b.wid v.ts v.wid then some v else some b
    | none => some v

/-- A line's fifth version on the die: the holder of `t`'s timeline to abort, if a key above `t`'s is held (R342). -/
def State.fifth (s : State) (t : Task) (line : Nat) : Option (Option (BitVec 64)) :=
  let hs := s.lineHolders t line
  if hs.length < 4 || s.unit.versions.any (fun v => v.task == t.num && decide (v.line = line)) then none
  else match highest (hs.filter fun v => v.timeline == t.timeline) with
    | some v => if keyLt t.ts t.wid v.ts v.wid then some (some v.task) else some none
    | none => some none

/-- The flush of a version's bytes aborts readers of other timelines only: within its own timeline the write has taken place (R342). -/
def State.flushed (s : State) (t : Task) (line : Nat) : List (BitVec 64) :=
  ((s.unit.reads.filter fun r => r.line == line).map (·.task)).eraseDups.filter fun n =>
    match s.task n with
    | some u => u.timeline != t.timeline
    | none => false

/-- Numbers of lines that are no lines of memory: the entries of the KV cache that a read has looked up (R363). -/
def entryLine (index layer pos : Nat) : Nat := 2 ^ 100 + (index * 256 + layer) * 2 ^ 20 + pos

/-- Lines for which this die holds reader or writer metadata (R341). -/
def State.trackedLines (s : State) (die : Nat) : List Nat :=
  let onDie (n : BitVec 64) : Bool := match s.task n with | some u => decide (u.die = die) | none => false
  ((s.unit.versions.filter fun v => onDie v.task).map (·.line) ++
    (s.unit.reads.filter fun r => onDie r.task && decide (r.line < entryLine 0 0 0)).map (·.line)).eraseDups

/-- A speculative read or write of these lines must wait: for metadata (R341). -/
def State.metadataFull (s : State) (t : Task) (lines : List Nat) : Bool :=
  let held := s.trackedLines t.die
  decide (16384 < held.length + (lines.filter fun l => !held.contains l).length)

/-- A speculative task's read of these lines waits until it is non-speculative (R341). -/
def State.linesWait (s : State) (lines : List Nat) : Bool :=
  s.specNow && (match s.runTask with | some t => s.metadataFull t lines | none => false)

/-- The same for a read of bytes. -/
def State.readWaits (s : State) (pa n : Nat) : Bool := s.linesWait (linesOf pa n)

/-- A speculative task's write of these lines waits: its balloon is full (R339), the die holds no more metadata (R341), or a line
has four versions and no later holder (R342). -/
def State.linesHeld (s : State) (lines : List Nat) : Bool :=
  s.specNow && (match s.runTask with
    | none => false
    | some t =>
      let own := (s.unit.versions.filter fun v => v.task == t.num).map (·.line)
      decide (1024 < own.length + (lines.filter fun l => !own.contains l).length) || s.metadataFull t lines ||
        lines.any fun l => s.fifth t l == some none)

/-- The same for a write of bytes. -/
def State.writeWaits (s : State) (pa n : Nat) : Bool := s.linesHeld (linesOf pa n)

/-- A write to global memory by this core's task (R339, R342): into its balloon while it is speculative, else to memory. -/
def State.writeGlob (s : State) (pa : Nat) (bs : List Byte) : State :=
  match s.runTask with
  | none => s.writeDirect none pa bs
  | some t =>
    if s.specNow then
      let lines := linesOf pa bs.length
      let evict := lines.filterMap fun l => (s.fifth t l).join
      let s := s.abortList evict
      let victims := (s.unit.reads.filter fun r => lines.contains r.line).map (·.task) |>.eraseDups |>.filter fun n =>
        match s.task n with
        | some u => u.timeline == t.timeline && t.keyLt u
        | none => false
      ({ s with unit := { s.unit with versions := mergeBytes t s.unit.versions pa bs } }).abortList victims
    else s.writeDirect (some t) pa bs

end Sys2Proof.Machine
end

