-- ==== Sys2Proof/Machine/Words.lean ====
section
/-!
DEFINITION. What an engine word names: its destination and source registers (R21 to R23, R164, R197), its descriptors and its loop
nest (R17, R18), the scalar registers it captures (R17, R40), and whether it is supervisor-only (R47).
-/

namespace Sys2Proof.Machine

/-- A set of registers with full/empty bits. -/
structure RegSet where
  v : BitVec 32
  p : BitVec 8
  a : BitVec 16
deriving DecidableEq, Repr

def RegSet.none : RegSet := ⟨0, 0, 0⟩
def RegSet.all : RegSet := ⟨BitVec.allOnes 32, BitVec.allOnes 8, BitVec.allOnes 16⟩
def RegSet.union (x y : RegSet) : RegSet := ⟨x.v ||| y.v, x.p ||| y.p, x.a ||| y.a⟩
def RegSet.inter (x y : RegSet) : RegSet := ⟨x.v &&& y.v, x.p &&& y.p, x.a &&& y.a⟩
def RegSet.diff (x y : RegSet) : RegSet := ⟨x.v &&& ~~~y.v, x.p &&& ~~~y.p, x.a &&& ~~~y.a⟩
def RegSet.isNone (x : RegSet) : Bool := x.v == 0 && x.p == 0 && x.a == 0
def RegSet.ofV (r : BitVec 5) : RegSet := ⟨1#32 <<< r.toNat, 0, 0⟩
def RegSet.ofP (r : BitVec 3) : RegSet := ⟨0, 1#8 <<< r.toNat, 0⟩
def RegSet.ofA (r : BitVec 4) : RegSet := ⟨0, 0, 1#16 <<< r.toNat⟩

/-- The residency predicate p[sr.resp], while sr.resp is nonzero (R184). -/
def respSet (resp : BitVec 3) : RegSet := if resp = 0 then .none else .ofP resp

/-- The registers that the splitter marks EMPTY at enqueue (R21, R164, R184, R197). -/
def dests (resp : BitVec 3) : Instr → RegSet
  | .vadd o => .ofV o.d
  | .vaddSat o => .ofV o.d
  | .vsub o => .ofV o.d
  | .vsubSat o => .ofV o.d
  | .vmul o => .ofV o.d
  | .vmulHi o => .ofV o.d
  | .vfma o => .ofV o.d
  | .vfmaNp o => .ofV o.d
  | .vfmaNa o => .ofV o.d
  | .vfmaNn o => .ofV o.d
  | .vmin o => .ofV o.d
  | .vmax o => .ofV o.d
  | .vminNan o => .ofV o.d
  | .vmaxNan o => .ofV o.d
  | .vabs o => .ofV o.d
  | .vabd o => .ofV o.d
  | .vneg o => .ofV o.d
  | .vsign o => .ofV o.d
  | .vclamp o => .ofV o.d
  | .vavg o => .ofV o.d
  | .vmov o => .ofV o.d
  | .vclz o => .ofV o.d
  | .vpopc o => .ofV o.d
  | .vscale o => .ofV o.d
  | .vgete o => .ofV o.d
  | .vand o => .ofV o.d
  | .vor o => .ofV o.d
  | .vxor o => .ofV o.d
  | .vnot o => .ofV o.d
  | .vshl o => .ofV o.d
  | .vshr o => .ofV o.d
  | .vsra o => .ofV o.d
  | .vshlI o => .ofV o.d
  | .vshrI o => .ofV o.d
  | .vsraI o => .ofV o.d
  | .vaddI o => .ofV o.d
  | .vminI o => .ofV o.d
  | .vmaxI o => .ofV o.d
  | .vredSum o => .ofV o.d
  | .vredMax o => .ofV o.d
  | .vredMin o => .ofV o.d
  | .vredAmax o => .ofV o.d
  | .vredSsq o => .ofV o.d
  | .vscanSum o => .ofV o.d
  | .vscanMax o => .ofV o.d
  | .vexp2 o => .ofV o.d
  | .vlog2 o => .ofV o.d
  | .vrcp o => .ofV o.d
  | .vrsq o => .ofV o.d
  | .vperm o => .ofV o.d
  | .vpermRot o => .ofV o.d
  | .vpermRev o => .ofV o.d
  | .vpermZip o => .ofV o.d
  | .vpermUnz o => .ofV o.d
  | .vbcast o => .ofV o.d
  | .vcmp c _ _ _ _ => .ofP c
  | .vcmpI c _ _ _ _ => .ofP c
  | .vsel d _ _ _ _ _ => .ofV d
  | .vmask d _ => .ofV d
  | .vmaskw c _ _ _ _ => .ofP c
  | .vcvtRne d _ _ _ _ => .ofV d
  | .vcvtRz d _ _ _ _ => .ofV d
  | .vcvtRd d _ _ _ _ => .ofV d
  | .vcvtRu d _ _ _ _ => .ofV d
  | .vcvtSr d _ _ _ _ => .ofV d
  | .vsplat d _ _ => .ofV d
  | .vsplatI d _ => .ofV d
  | .vsplatL d _ => .ofV d
  | .viota d _ => .ofV d
  | .pand d _ _ _ _ => .ofP d
  | .por d _ _ _ _ => .ofP d
  | .pxor d _ _ _ _ => .ofP d
  | .pnot d _ _ => .ofP d
  | .vldW o => (RegSet.ofV o.v).union (respSet resp)
  | .vldC o => (RegSet.ofV o.v).union (respSet resp)
  | .vldN o => (RegSet.ofV o.v).union (respSet resp)
  | .vgthW o => (RegSet.ofV o.v).union (respSet resp)
  | .vgthC o => (RegSet.ofV o.v).union (respSet resp)
  | .vgthN o => (RegSet.ofV o.v).union (respSet resp)
  | .pld p _ _ _ => .ofP p
  | .vconfGap c _ _ => .ofP c
  | .vconfDrift c _ _ _ => .ofP c
  | .mzero t => .ofA t
  | .mzeroAll => ⟨0, 0, BitVec.allOnes 16⟩
  | .mmaS8 _ _ _ t _ => .ofA t
  | .mmaN8 _ _ _ t _ => .ofA t
  | .mmaBfx8 _ _ _ t _ => .ofA t
  | .mmaS16 _ _ _ t _ => .ofA t
  | .mmaN16 _ _ _ t _ => .ofA t
  | .mmaBfx16 _ _ _ t _ => .ofA t
  | .mmaZS8 _ _ _ t _ => .ofA t
  | .mmaZN8 _ _ _ t _ => .ofA t
  | .mmaZS16 _ _ _ t _ => .ofA t
  | .mmaZN16 _ _ _ t _ => .ofA t
  | .mgoS8 _ _ _ t _ => .ofA t
  | .mgoN8 _ _ _ t _ => .ofA t
  | .mgoBfx8 _ _ _ t _ => .ofA t
  | .mgoS16 _ _ _ t _ => .ofA t
  | .mgoN16 _ _ _ t _ => .ofA t
  | .mgoBfx16 _ _ _ t _ => .ofA t
  | .mlda _ _ t => .ofA t
  | .mrdvF32 v _ _ _ => (RegSet.ofV v).union (.ofV (v + 1))
  | .mrdvS32 v _ _ _ => (RegSet.ofV v).union (.ofV (v + 1))
  | .mrdvBf16 v _ _ _ => .ofV v
  | _ => .none

/-- A source register as its reader tests it: a vector or a predicate, and whether its trap bit is set (R23). -/
structure Src where
  pred : Bool
  idx : Nat
  trap : Bool
deriving DecidableEq, Repr

def srcV (r : BitVec 5) (trap : Bool) : Src := ⟨false, r.toNat, trap⟩
def srcP (r : BitVec 3) (trap : Bool) : Src := ⟨true, r.toNat, trap⟩

/-- The vector and predicate sources of a word (R23, R164). No command waits on a tile's bit (R197). -/
def srcs : Instr → List Src
  | .vadd o => [srcV o.a o.ta, srcV o.b o.tb]
  | .vaddSat o => [srcV o.a o.ta, srcV o.b o.tb]
  | .vsub o => [srcV o.a o.ta, srcV o.b o.tb]
  | .vsubSat o => [srcV o.a o.ta, srcV o.b o.tb]
  | .vmul o => [srcV o.a o.ta, srcV o.b o.tb]
  | .vmulHi o => [srcV o.a o.ta, srcV o.b o.tb]
  | .vfma o => [srcV o.a o.ta, srcV o.b o.tb, srcV o.d false]
  | .vfmaNp o => [srcV o.a o.ta, srcV o.b o.tb, srcV o.d false]
  | .vfmaNa o => [srcV o.a o.ta, srcV o.b o.tb, srcV o.d false]
  | .vfmaNn o => [srcV o.a o.ta, srcV o.b o.tb, srcV o.d false]
  | .vmin o => [srcV o.a o.ta, srcV o.b o.tb]
  | .vmax o => [srcV o.a o.ta, srcV o.b o.tb]
  | .vminNan o => [srcV o.a o.ta, srcV o.b o.tb]
  | .vmaxNan o => [srcV o.a o.ta, srcV o.b o.tb]
  | .vabs o => [srcV o.a o.ta]
  | .vabd o => [srcV o.a o.ta, srcV o.b o.tb]
  | .vneg o => [srcV o.a o.ta]
  | .vsign o => [srcV o.a o.ta, srcV o.b o.tb]
  | .vclamp o => [srcV o.a o.ta, srcV o.b o.tb, srcV o.d false]
  | .vavg o => [srcV o.a o.ta, srcV o.b o.tb]
  | .vmov o => [srcV o.a o.ta]
  | .vclz o => [srcV o.a o.ta]
  | .vpopc o => [srcV o.a o.ta]
  | .vscale o => [srcV o.a o.ta, srcV o.b o.tb]
  | .vgete o => [srcV o.a o.ta]
  | .vand o => [srcV o.a o.ta, srcV o.b o.tb]
  | .vor o => [srcV o.a o.ta, srcV o.b o.tb]
  | .vxor o => [srcV o.a o.ta, srcV o.b o.tb]
  | .vnot o => [srcV o.a o.ta]
  | .vshl o => [srcV o.a o.ta, srcV o.b o.tb]
  | .vshr o => [srcV o.a o.ta, srcV o.b o.tb]
  | .vsra o => [srcV o.a o.ta, srcV o.b o.tb]
  | .vshlI o => [srcV o.a o.ta]
  | .vshrI o => [srcV o.a o.ta]
  | .vsraI o => [srcV o.a o.ta]
  | .vaddI o => [srcV o.a o.ta]
  | .vminI o => [srcV o.a o.ta]
  | .vmaxI o => [srcV o.a o.ta]
  | .vredSum o => [srcV o.a o.ta]
  | .vredMax o => [srcV o.a o.ta]
  | .vredMin o => [srcV o.a o.ta]
  | .vredAmax o => [srcV o.a o.ta]
  | .vredSsq o => [srcV o.a o.ta]
  | .vscanSum o => [srcV o.a o.ta]
  | .vscanMax o => [srcV o.a o.ta]
  | .vexp2 o => [srcV o.a o.ta]
  | .vlog2 o => [srcV o.a o.ta]
  | .vrcp o => [srcV o.a o.ta]
  | .vrsq o => [srcV o.a o.ta]
  | .vperm o => [srcV o.a o.ta, srcV o.b o.tb]
  | .vpermRot o => [srcV o.a o.ta]
  | .vpermRev o => [srcV o.a o.ta]
  | .vpermZip o => [srcV o.a o.ta, srcV o.b o.tb]
  | .vpermUnz o => [srcV o.a o.ta, srcV o.b o.tb]
  | .vbcast o => [srcV o.a o.ta]
  | .vcmp _ _ a b _ => [srcV a false, srcV b false]
  | .vcmpI _ _ a _ _ => [srcV a false]
  | .vsel _ a b ta tb p => [srcV a ta, srcV b tb, srcP p false]
  | .vmask _ p => [srcP p false]
  | .vmaskw _ _ a _ _ => [srcV a false]
  | .vcvtRne _ a ta _ _ => [srcV a ta]
  | .vcvtRz _ a ta _ _ => [srcV a ta]
  | .vcvtRd _ a ta _ _ => [srcV a ta]
  | .vcvtRu _ a ta _ _ => [srcV a ta]
  | .vcvtSr _ a ta _ _ => [srcV a ta]
  | .pand _ a b ta tb => [srcP a ta, srcP b tb]
  | .por _ a b ta tb => [srcP a ta, srcP b tb]
  | .pxor _ a b ta tb => [srcP a ta, srcP b tb]
  | .pnot _ a ta => [srcP a ta]
  | .vstW o => [srcV o.v false]
  | .vstN o => [srcV o.v false]
  | .vgthW o => [srcV o.vi false, srcP o.p false]
  | .vgthC o => [srcV o.vi false, srcP o.p false]
  | .vgthN o => [srcV o.vi false, srcP o.p false]
  | .vsctW o => [srcV o.v false, srcV o.vi false, srcP o.p false]
  | .vsctN o => [srcV o.v false, srcV o.vi false, srcP o.p false]
  | .pst p _ _ _ => [srcP p false]
  | .vconfGap _ a _ => [srcV a false]
  | .vconfDrift _ a b _ => [srcV a false, srcV b false]
  | _ => []

/-- The sources as a register set. -/
def srcSet (i : Instr) : RegSet :=
  (srcs i).foldl (fun r x => r.union (if x.pred then ⟨0, 1#8 <<< x.idx, 0⟩ else ⟨1#32 <<< x.idx, 0, 0⟩)) .none

/-- The tensor descriptors that a command reads when it starts (R18), d[s] of a gather or scatter included (R213). -/
def descs (x4 : Word) : Instr → List (BitVec 6)
  | .vldW o => [o.d]
  | .vldC o => [o.d]
  | .vldN o => [o.d]
  | .vstW o => [o.d]
  | .vstN o => [o.d]
  | .vgthW o => [o.d]
  | .vgthC o => [o.d]
  | .vgthN o => [o.d]
  | .vsctW o => [o.d]
  | .vsctN o => [o.d]
  | .pld _ dn _ _ => [dn]
  | .pst _ dn _ _ => [dn]
  | .mmaS8 d1 d2 _ _ _ => [d1, d2]
  | .mmaN8 d1 d2 _ _ _ => [d1, d2]
  | .mmaBfx8 d1 d2 _ _ _ => [d1, d2]
  | .mmaS16 d1 d2 _ _ _ => [d1, d2]
  | .mmaN16 d1 d2 _ _ _ => [d1, d2]
  | .mmaBfx16 d1 d2 _ _ _ => [d1, d2]
  | .mmaZS8 d1 d2 _ _ _ => [d1, d2]
  | .mmaZN8 d1 d2 _ _ _ => [d1, d2]
  | .mmaZS16 d1 d2 _ _ _ => [d1, d2]
  | .mmaZN16 d1 d2 _ _ _ => [d1, d2]
  | .mgoS8 d1 d2 _ _ _ => [d1, d2]
  | .mgoN8 d1 d2 _ _ _ => [d1, d2]
  | .mgoBfx8 d1 d2 _ _ _ => [d1, d2]
  | .mgoS16 d1 d2 _ _ _ => [d1, d2]
  | .mgoN16 d1 d2 _ _ _ => [d1, d2]
  | .mgoBfx16 d1 d2 _ _ _ => [d1, d2]
  | .mpackPi d1 d2 _ _ => [d1, d2]
  | .mpackPb d1 d2 _ _ => [d1, d2]
  | .mrdF32 d1 _ _ _ => [d1]
  | .mrdBf16 d1 _ _ _ => [d1]
  | .mrdBfx8 d1 _ _ _ => [d1]
  | .mrdS8 d1 _ _ _ => [d1]
  | .mrdN8 d1 _ _ _ => [d1]
  | .mrdS32 d1 _ _ _ => [d1]
  | .msta d1 _ _ => [d1]
  | .mlda d1 _ _ => [d1]
  | .mstat d1 _ => [d1]
  | .cpinW d1 d2 _ _ _ => [d1, d2]
  | .cpinN d1 d2 _ _ _ => [d1, d2]
  | .cpinWNt d1 d2 _ _ _ => [d1, d2]
  | .cpinNNt d1 d2 _ _ _ => [d1, d2]
  | .cpgathW d1 d2 _ _ _ => [d1, d2, x4.extractLsb' 0 6]
  | .cpgathN d1 d2 _ _ _ => [d1, d2, x4.extractLsb' 0 6]
  | .cpgathWNt d1 d2 _ _ _ => [d1, d2, x4.extractLsb' 0 6]
  | .cpgathNNt d1 d2 _ _ _ => [d1, d2, x4.extractLsb' 0 6]
  | .cpplaneW d1 d2 _ _ _ => [d1, d2]
  | .cpplaneN d1 d2 _ _ _ => [d1, d2]
  | .cpplaneWNt d1 d2 _ _ _ => [d1, d2]
  | .cpplaneNNt d1 d2 _ _ _ => [d1, d2]
  | .cpfillW d1 _ _ => [d1]
  | .cpfillN d1 _ _ => [d1]
  | .cpmovW d1 d2 _ _ => [d1, d2]
  | .cpmovN d1 d2 _ _ => [d1, d2]
  | .cppre d1 _ => [d1]
  | .cpoutW d1 d2 _ _ => [d1, d2]
  | .cpoutC d1 d2 _ _ => [d1, d2]
  | .cpoutN d1 d2 _ _ => [d1, d2]
  | .cpscatW d1 d2 _ _ => [d1, d2, x4.extractLsb' 0 6]
  | .cpscatC d1 d2 _ _ => [d1, d2, x4.extractLsb' 0 6]
  | .cpscatN d1 d2 _ _ => [d1, d2, x4.extractLsb' 0 6]
  | .cpdeplW d1 d2 _ _ => [d1, d2]
  | .cpdeplC d1 d2 _ _ => [d1, d2]
  | .cpdeplN d1 d2 _ _ => [d1, d2]
  | .cpwb d1 _ _ => [d1]
  | .cpinv d1 _ _ => [d1]
  | .note d1 d2 _ => [d1, d2]
  | .noteG d1 _ _ => [d1]
  | .land d1 _ => [d1]
  | .nwait d1 => [d1]
  | .nwaitN d1 => [d1]
  | .nwaitTag d1 => [d1]
  | .landq d1 => [d1]
  | .ppol d1 => [d1]
  | .ppace d1 => [d1]
  | .pgrp d1 => [d1]
  | .moorq d1 => [d1]
  | .moorqTag d1 => [d1]
  | .kvnew d1 => [d1]
  | .kvappend d1 d2 => [d1, d2]
  | .kvexit d1 => [d1]
  | .kvfill d1 d2 => [d1, d2]
  | .kvfork d1 => [d1]
  | .kvtrim d1 => [d1]
  | .kvlen d1 => [d1]
  | .kvstat d1 => [d1]
  | .kvowed d1 => [d1]
  | .kvbft d1 => [d1]
  | _ => []

/-- The loop nest that a command names (R17, R18). MRDV's N field is a row group (R50). -/
def nest : Instr → Option (BitVec 3)
  | .mmaS8 _ _ n _ _ => some n
  | .mmaN8 _ _ n _ _ => some n
  | .mmaBfx8 _ _ n _ _ => some n
  | .mmaS16 _ _ n _ _ => some n
  | .mmaN16 _ _ n _ _ => some n
  | .mmaBfx16 _ _ n _ _ => some n
  | .mmaZS8 _ _ n _ _ => some n
  | .mmaZN8 _ _ n _ _ => some n
  | .mmaZS16 _ _ n _ _ => some n
  | .mmaZN16 _ _ n _ _ => some n
  | .mgoS8 _ _ n _ _ => some n
  | .mgoN8 _ _ n _ _ => some n
  | .mgoBfx8 _ _ n _ _ => some n
  | .mgoS16 _ _ n _ _ => some n
  | .mgoN16 _ _ n _ _ => some n
  | .mgoBfx16 _ _ n _ _ => some n
  | .mpackPi _ _ n _ => some n
  | .mpackPb _ _ n _ => some n
  | .mrdF32 _ n _ _ => some n
  | .mrdBf16 _ n _ _ => some n
  | .mrdBfx8 _ n _ _ => some n
  | .mrdS8 _ n _ _ => some n
  | .mrdN8 _ n _ _ => some n
  | .mrdS32 _ n _ _ => some n
  | .msta _ n _ => some n
  | .mlda _ n _ => some n
  | .cpinW _ _ n _ _ => some n
  | .cpinN _ _ n _ _ => some n
  | .cpinWNt _ _ n _ _ => some n
  | .cpinNNt _ _ n _ _ => some n
  | .cpgathW _ _ n _ _ => some n
  | .cpgathN _ _ n _ _ => some n
  | .cpgathWNt _ _ n _ _ => some n
  | .cpgathNNt _ _ n _ _ => some n
  | .cpplaneW _ _ n _ _ => some n
  | .cpplaneN _ _ n _ _ => some n
  | .cpplaneWNt _ _ n _ _ => some n
  | .cpplaneNNt _ _ n _ _ => some n
  | .cpfillW _ n _ => some n
  | .cpfillN _ n _ => some n
  | .cpmovW _ _ n _ => some n
  | .cpmovN _ _ n _ => some n
  | .cppre _ n => some n
  | .cpoutW _ _ n _ => some n
  | .cpoutC _ _ n _ => some n
  | .cpoutN _ _ n _ => some n
  | .cpscatW _ _ n _ => some n
  | .cpscatC _ _ n _ => some n
  | .cpscatN _ _ n _ => some n
  | .cpdeplW _ _ n _ => some n
  | .cpdeplC _ _ n _ => some n
  | .cpdeplN _ _ n _ => some n
  | .cpwb _ n _ => some n
  | .cpinv _ n _ => some n
  | _ => none

/-- The descriptor that a KVMAP writes (R98, R372). -/
def kvmapDest : Instr → Option (BitVec 6)
  | .kvmapK d1 _ => some d1
  | .kvmapV d1 _ => some d1
  | _ => none

/-- The x registers that a single word names and captures at enqueue, in the entry's order (R17, R38, R39). -/
def scalarRegs : Instr → XRegs
  | .vldW o => ⟨o.x0, o.x1, 0, 0, 0⟩
  | .vldC o => ⟨o.x0, o.x1, 0, 0, 0⟩
  | .vldN o => ⟨o.x0, o.x1, 0, 0, 0⟩
  | .vstW o => ⟨o.x0, o.x1, 0, 0, 0⟩
  | .vstN o => ⟨o.x0, o.x1, 0, 0, 0⟩
  | .pld _ _ x0 x1 => ⟨x0, x1, 0, 0, 0⟩
  | .pst _ _ x0 x1 => ⟨x0, x1, 0, 0, 0⟩
  | .vmaskw _ _ _ q w => ⟨q, w, 0, 0, 0⟩
  | .vpermRot o => ⟨o.k, 0, 0, 0, 0⟩
  | .vbcast o => ⟨o.k, 0, 0, 0, 0⟩
  | .vsplat _ a _ => ⟨a, 0, 0, 0, 0⟩
  | .vconfGap _ _ x => ⟨x, 0, 0, 0, 0⟩
  | .vconfDrift _ _ _ x => ⟨x, 0, 0, 0, 0⟩
  | .manch _ a => ⟨a, 0, 0, 0, 0⟩
  | _ => XRegs.zero

/-- The supervisor-only words of the opcode map (R47, R52). -/
def supervisorOnly : Instr → Bool
  | .ppace _ => true
  | .pgrp _ => true
  | .kvbft _ => true
  | _ => false

/-- The queue of a word's ENG field (R35). -/
def engOfCode (c : BitVec 3) : Eng := (Eng.ofCode c).getD .vec

end Sys2Proof.Machine
end

