-- ==== Sys2Proof/Machine/Ops.lean ====
section
/-!
DEFINITION. The strand's shared operations: registers (R19, R20), retiring a word and the delay region (R87), time and budget (R64,
R346), taking a trap and returning from one (R92, R264 to R266, R345), tokens (R24 to R27) and barrier objects (R257, R258).
-/

namespace Sys2Proof.Machine

/-- The outcome of one step. -/
abbrev Out := Host.Outcome State Fault Refusal

/-! ## Registers -/

def State.x (s : State) (r : BitVec 5) : Word := s.core.x[r.toNat]'(by omega)

/-- A write to x0 is discarded (R20). -/
def State.setX (s : State) (r : BitVec 5) (v : Word) : State :=
  if r = 0 then s else { s with core := { s.core with x := s.core.x.set r.toNat v (by omega) } }

def State.c (s : State) (c : BitVec 3) : Bool := s.core.c.getLsbD c.toNat

/-- Sets bit `n` of a bit vector. -/
def setBit {w : Nat} (v : BitVec w) (n : Nat) (b : Bool) : BitVec w :=
  if b then v ||| (1#w <<< n) else v &&& ~~~(1#w <<< n)

/-- A write to c0 is discarded (R20). -/
def State.setC (s : State) (c : BitVec 3) (b : Bool) : State :=
  if c = 0 then s else { s with core := { s.core with c := setBit s.core.c c.toNat b } }

def State.b (s : State) (r : BitVec 2) : Word := s.core.b[r.toNat]'(by omega)
def State.setB (s : State) (r : BitVec 2) (v : Word) : State :=
  { s with core := { s.core with b := s.core.b.set r.toNat v (by omega), linkDue := s.core.linkDue.filter (·.reg != r) } }

def State.setSys (s : State) (f : SysRegs → SysRegs) : State := { s with core := { s.core with sys := f s.core.sys } }

def State.ctx (s : State) : BitVec 4 := s.core.sys.ctx.extractLsb' 0 4
def State.context (s : State) (c : BitVec 4) : Context := s.ctxs[c.toNat]'(by omega)
def State.setContext (s : State) (c : BitVec 4) (v : Context) : State := { s with ctxs := s.ctxs.set c.toNat v (by omega) }

/-! ## sr.status (R270) -/

def SysRegs.sup (r : SysRegs) : Bool := r.status.getLsbD 0
def SysRegs.pmode (r : SysRegs) : Bool := r.status.getLsbD 1
def SysRegs.uact (r : SysRegs) : Bool := r.status.getLsbD 2
def SysRegs.sact (r : SysRegs) : Bool := r.status.getLsbD 3
def SysRegs.raw (r : SysRegs) : Bool := r.status.getLsbD 4
def SysRegs.preq (r : SysRegs) : Bool := r.status.getLsbD 5
def SysRegs.held (r : SysRegs) : Bool := r.status.getLsbD 6
def SysRegs.spec (r : SysRegs) : Bool := r.status.getLsbD 7
def SysRegs.quiet (r : SysRegs) : Bool := r.status.getLsbD 8

def SysRegs.setStatus (r : SysRegs) (n : Nat) (b : Bool) : SysRegs := { r with status := setBit r.status n b }

/-! ## Causes (R260 to R262) -/

/-- A trap's code, subcode and cause-specific field. -/
structure Cause where
  code : BitVec 8
  sub : BitVec 8
  info : BitVec 64
deriving DecidableEq, Repr

def Cause.ill (sub : BitVec 8) : Cause := ⟨0x01, sub, 0⟩
def Cause.priv (sel : Nat) : Cause := ⟨0x02, 0, BitVec.ofNat 64 sel⟩
def Cause.align (a : BitVec 64) : Cause := ⟨0x03, 0, a⟩
def Cause.range (sub : BitVec 8) (a : Nat) : Cause := ⟨0x04, sub, BitVec.ofNat 64 a⟩
def Cause.perm (sub : BitVec 8) (a : Nat) : Cause := ⟨0x05, sub, BitVec.ofNat 64 a⟩
def Cause.nres (a : Nat) : Cause := ⟨0x06, 0, BitVec.ofNat 64 a⟩
/-- STALE: kind 0 v, 1 p, 2 a and the register's index. -/
def Cause.stale (kind idx : Nat) : Cause := ⟨0x07, 0, BitVec.ofNat 64 (kind + 4 * idx)⟩
def Cause.kvhandle (h : BitVec 64) : Cause := ⟨0x0B, 0, h⟩
def Cause.kvbound (h : BitVec 64) : Cause := ⟨0x0C, 0, h⟩
def Cause.wheel : Cause := ⟨0x0D, 0, 0⟩
def Cause.tasklimit : Cause := ⟨0x0E, 0, 0⟩
def Cause.ecc (a : Nat) : Cause := ⟨0x10, 0, BitVec.ofNat 64 a⟩
def Cause.swtrap (imm : BitVec 12) : Cause := ⟨0x11, 0, imm.setWidth 64⟩
/-- PREEMPT with DIRTY and SPECABORT. -/
def Cause.preempt (dirty specabort : Bool) : Cause := ⟨0x12, 0, BitVec.ofNat 64 (dirty.toNat + 2 * specabort.toNat)⟩

/-- The ILL subcodes above those of the decoder (R261). -/
def Cause.delay : Cause := .ill 0x0A
def Cause.tokovf (counter eng : Nat) : Cause := ⟨0x01, 0x0B, BitVec.ofNat 64 (counter + 16 * eng)⟩
def Cause.desc : Cause := .ill 0x0C
def Cause.loopmax : Cause := .ill 0x0D
def Cause.roreg : Cause := .ill 0x0E
def Cause.eret : Cause := .ill 0x0F
def Cause.bound (level : Nat) : Cause := ⟨0x01, 0x10, BitVec.ofNat 64 level⟩
def Cause.fmt : Cause := .ill 0x11
def Cause.nest : Cause := .ill 0x12
def Cause.arg : Cause := .ill 0x13
def Cause.confarg : Cause := .ill 0x14
def Cause.iterC : Cause := .ill 0x15
/-- RANGE subcodes (R261). -/
def Cause.extent (dim : Nat) : Cause := .range 0x01 dim
def Cause.spad (a : Nat) : Cause := .range 0x02 a
def Cause.unbound (a : Nat) : Cause := .range 0x03 a
def Cause.space (a : Nat) : Cause := .range 0x04 a
/-- SPACE at a command's start, where no address has been formed (log entry 10). -/
def Cause.spaceStart (n : Nat) : Cause := ⟨0x04, 0x04, Config.noAddress n⟩
/-- ALIGN for a coordinate or a displacement that is no address (log entry 10). -/
def Cause.alignStart (n : Nat) : Cause := ⟨0x03, 0, Config.noAddress n⟩
/-- ECC of an accumulator element (R262). -/
def Cause.eccTile (t e : Nat) : Cause := ⟨0x10, 0, BitVec.ofNat 64 (t + 16 * e + 2 ^ 63)⟩
def Cause.tile (t : Int) : Cause := .range 0x05 (t % (2 ^ 64 : Int)).toNat
def Cause.anchorC (g : Int) : Cause := .range 0x06 (g % (2 ^ 64 : Int)).toNat
def Cause.pool (handle : Bool) : Cause := .range 0x08 handle.toNat
def Cause.tag (a : Nat) : Cause := .range 0x07 a

/-- A strand trap record: ENG 0, no iteration vector (R260, R264). -/
def Cause.toRec (c : Cause) (op : BitVec 7) (form : BitVec 2) : TrapRec :=
  { code := c.code, eng := 0, sub := c.sub, hent := false, op := op, form := form, info := c.info, iter := 0, kept := 0 }

/-- sr.causelo of a trap (R260); skip is 0. -/
def TrapRec.causelo (t : TrapRec) : BitVec 64 :=
  (0#33 ++ t.form ++ t.op ++ 0#1 ++ BitVec.ofBool t.hent ++ t.sub ++ 0#1 ++ t.eng ++ t.code : BitVec 64)

/-! ## Taking a trap -/

/-- The running task parks with a trap saved (R345, R346). -/
def State.park (s : State) (t : TrapRec) (resume : Word) : State :=
  let n := s.core.sys.task
  let s := { s with core := { s.core with
    saved := some (t, resume, s.core.region), phase := .parked, wait := .none, monitor := none, region := none } }
  s.mapTasks fun u => if u.num == n then { u with state := .parked, trap := t.code } else u

/-- The user handler takes the trap (R264). -/
def State.toUser (s : State) (t : TrapRec) : Bool :=
  (t.code == 0x07 || t.code == 0x08 || t.code == 0x09 || t.code == 0x0A || t.code == 0x11) &&
    s.core.sys.uvec != 0 && !s.core.sys.uact && !s.core.sys.sact

/-- The pending target and count of the delay record (R92). With a count of 0 the record's target is open: log entry 9. -/
def State.delayRecord (s : State) : Word × BitVec 2 :=
  match s.core.region with
  | some ⟨left, some t⟩ => (t, BitVec.ofNat 2 left)
  | _ => (Config.noTarget s.freeNo, 0)

/-- Some queue is held by R33. -/
def Queues.anyHeld (q : Queues) : Bool := Eng.all.any fun e => (q.get e).held

/-- The faults of a queue that wait for nothing yet wait for the ERET of handler `d`. -/
def Queue.keepFaults (q : Queue) (d : Nat) : Queue :=
  { q with faults := q.faults.map fun t => if t.kept = 0 then { t with kept := d } else t }

/-- Every pending engine trap and posted trap that waits for nothing yet waits for the ERET of handler `d`: each trap is taken only after the ERET of
the one before, and those that an active handler keeps pending wait for its ERET, though it clears sact or uact before (R242, R263, R264). -/
def State.keepPending (s : State) (d : Nat) : State :=
  let f (q : Queue) : Queue := q.keepFaults d
  let q := s.q
  let new := s.posted.filter fun p => !s.core.kept.any fun k => k.1 == p
  { s with q := ⟨f q.vec, f q.mtx, f q.ldq, f q.stq, f q.prt, f q.kvc⟩
           core := { s.core with kept := s.core.kept ++ new.map fun p => (p, d) } }

/-- A handler returns, which leaves `d` of them: what waited for it, or for one within it, waits no longer. -/
def State.leaveHandler (s : State) (d : Nat) : State :=
  let f (q : Queue) : Queue := { q with faults := q.faults.map fun t => if d < t.kept then { t with kept := 0 } else t }
  let q := s.q
  { s with q := ⟨f q.vec, f q.mtx, f q.ldq, f q.stq, f q.prt, f q.kvc⟩
           core := { s.core with depth := d, kept := s.core.kept.filter fun k => decide (k.2 ≤ d) } }

/-- The strand enters a handler: one more, whose ERET the traps still pending wait for. -/
def State.enterHandler (s : State) : State :=
  let d := s.core.depth + 1
  let s := s.keepPending d
  { s with core := { s.core with depth := d } }

/-- TAKING A TRAP: delivery by R264, with the delay record of R92 and the resume address given. A trap that meets an active supervisor
handler is DoubleStop; `readyTrap` never hands over an engine trap that R264 keeps pending. -/
def State.takeTrap (s : State) (t : TrapRec) (resume : Word) : State :=
  let (dtgt, dleft) := s.delayRecord
  let held := s.q.anyHeld
  if s.toUser t then
    let s := s.enterHandler
    { s with freeNo := s.freeNo + 1, core := { s.core with
        region := none, wait := .none, monitor := none, pc := s.core.sys.uvec
        sys := { s.core.sys with
          ucauselo := t.causelo, ucausehi := t.info, uepc := resume, udtgt := dtgt, udleft := dleft,
          uiterlo := t.iter.extractLsb' 0 64, uiterhi := t.iter.extractLsb' 64 32,
          status := setBit (setBit s.core.sys.status 2 true) 6 held } } }
  else if s.core.sys.sact then { s with core := { s.core with phase := .stopped } }
  else
    let s := s.enterHandler
    { s with freeNo := s.freeNo + 1, core := { s.core with
        region := none, wait := .none, monitor := none, pc := s.core.sys.tvec
        sys := { s.core.sys with
          causelo := t.causelo, causehi := t.info, epc := resume, dtgt := dtgt, dleft := dleft,
          iterlo := t.iter.extractLsb' 0 64, iterhi := t.iter.extractLsb' 64 32,
          status := setBit (setBit (setBit (setBit s.core.sys.status 1 s.core.sys.sup) 0 true) 3 true) 6 held } } }

/-- A precise or engine trap: taken, or deferred with the task parked while the task is speculative (R345). -/
def State.trapOrPark (s : State) (t : TrapRec) (resume : Word) : State :=
  if s.specNow then s.park t resume else s.takeTrap t resume

/-! ## Time and budget -/

/-- The budget of the running task reaches 0 (R346). -/
def State.budgetOut (s : State) : State :=
  let t : TrapRec := ⟨0x08, 0, 0, false, 0, 0, s.core.sys.task, 0, 0⟩
  if s.specNow then (if s.core.phase = .parked then s else s.park t s.core.pc)
  else { s with posted := s.posted ++ [.budget s.core.sys.task] }

/-- `n` cycles pass: the clock, and the budget of the task that runs on the core (R64, R346, R271). -/
def State.tick (s : State) (n : Nat) : State :=
  let s := { s with now := s.now + BitVec.ofNat 64 n, pkg := { s.pkg with throttle := s.pkg.throttle - n } }
  let b := s.core.sys.budget.toNat
  if s.core.budgetStopped || s.runTask.isNone || b = 0 then s
  else
    let s := s.setSys fun r => { r with budget := BitVec.ofNat 32 (b - n) }
    if b ≤ n then s.budgetOut else s

/-! ## Retiring a word -/

/-- A control word of `words` words completes: the program counter moves on, and a delay region counts it (R12, R87). -/
def State.nextPc (s : State) (words : Nat) : State :=
  let pc := s.core.pc + BitVec.ofNat 64 (4 * words)
  match s.core.region with
  | none => { s with core := { s.core with pc := pc, wait := .none } }
  | some ⟨left, target⟩ =>
    if left ≤ 1 then { s with core := { s.core with pc := target.getD pc, region := none, wait := .none } }
    else { s with core := { s.core with pc := pc, region := some ⟨left - 1, target⟩, wait := .none } }

/-- A control word retires after one issue cycle. -/
def State.retire (s : State) : State := (s.nextPc 1).tick 1

/-- The strand waits a cycle at its word, which it executes again. -/
def State.waitAs (s : State) (w : Wait) : State := { s with core := { s.core with wait := w } }.tick 1
/-- In a wait out of which a posted trap is taken. -/
def State.stall (s : State) : State := s.waitAs .none
/-- In any other wait. -/
def State.stallShut (s : State) : State := s.waitAs .shut
/-- Until the task is non-speculative. -/
def State.stallSpec (s : State) : State := s.waitAs .spec

/-- A control word of opcode `op` traps (R32, R59): no effect of it beyond those before the trap. -/
def State.raise (s : State) (op : BitVec 7) (c : Cause) : State := (s.trapOrPark (c.toRec op 0) s.core.pc).tick 1

/-! ## Queues -/

/-- The queue is empty and its last command has completed (R106). -/
def Queue.drained (q : Queue) : Bool := q.entries.isEmpty && q.run.isNone && q.hentry.isNone && q.hrun.isNone

/-- Every queue is empty and complete. -/
def State.allDrained (s : State) : Bool := Eng.all.all fun e => (s.q.get e).drained

/-- No handler entry is left that the running handler issued (R266). -/
def State.handlersDone (s : State) : Bool :=
  let gone (en : Option Entry) : Bool := en.all fun en => en.depth != s.core.depth
  Eng.all.all fun e => gone (s.q.get e).hentry && gone ((s.q.get e).hrun.map (·.entry))

/-! ## Registers in flight (R21 to R23, R109) -/

/-- The registers that a started command writes: those marked at enqueue, and the tiles marked at its start (R21, R197). -/
def Running.marked (r : Running) : RegSet := (dests r.resp r.entry.instr).union ⟨0, 0, r.also⟩

/-- The registers that the queue's entries and started commands write. -/
def Queue.writes (q : Queue) (resp : BitVec 3) : RegSet :=
  let run (r : Option Running) : RegSet := match r with | some r => r.marked | none => .none
  let h : RegSet := match q.hentry with | some e => dests resp e.instr | none => .none
  q.entries.foldl (fun r e => r.union (dests resp e.instr)) (((run q.run).union (run q.hrun)).union h)

/-- The registers that the queue's commands have still to read: those of commands not started, and of a started one that has not yet
passed its checks. -/
def Queue.reads (q : Queue) : RegSet :=
  let run (r : Option Running) : RegSet :=
    match r with | some r => if r.stage = .fresh then srcSet r.entry.instr else .none | none => .none
  let h : RegSet := match q.hentry with | some e => srcSet e.instr | none => .none
  q.entries.foldl (fun r e => r.union (srcSet e.instr)) (((run q.run).union (run q.hrun)).union h)

/-- The registers with a pending writer in the queues of a list. -/
def State.writesIn (s : State) (es : List Eng) : RegSet :=
  es.foldl (fun r e => r.union ((s.q.get e).writes s.core.sys.resp)) .none

def State.readsIn (s : State) (es : List Eng) : RegSet := es.foldl (fun r e => r.union (s.q.get e).reads) .none

def otherQueues (e : Eng) : List Eng := Eng.all.filter (· != e)

def State.fullSet (s : State) : RegSet := ⟨s.core.vfull, s.core.pfull, s.core.afull⟩

def State.setFullBits (s : State) (r : RegSet) : State :=
  { s with core := { s.core with vfull := r.v, pfull := r.p, afull := r.a } }

/-- The splitter marks a word's destinations EMPTY (R21). -/
def State.markEmpty (s : State) (r : RegSet) : State := s.setFullBits (s.fullSet.diff r)

/-- Registers return to FULL, but for those that a surviving word still writes (R21, R109). -/
def State.markFull (s : State) (r : RegSet) : State :=
  s.setFullBits (s.fullSet.union (r.diff (s.writesIn Eng.all)))

/-- The registers that a reader of queue `e` finds EMPTY: those that an earlier word pending elsewhere writes, and those left EMPTY
with no writer pending (R21 to R23). -/
def State.emptyFor (s : State) (e : Eng) : RegSet :=
  (s.writesIn (otherQueues e)).union ((RegSet.all.diff s.fullSet).diff (s.writesIn Eng.all))

/-- The same for a handler entry of queue `e`: the ordinary words of its own queue are earlier (R265). -/
def State.emptyForHandler (s : State) (e : Eng) : RegSet :=
  let q := { s.q.get e with hentry := none, hrun := none }
  ((s.writesIn (otherQueues e)).union (q.writes s.core.sys.resp)).union ((RegSet.all.diff s.fullSet).diff (s.writesIn Eng.all))

/-- The registers that a control word finds EMPTY. -/
def State.emptyForStrand (s : State) : RegSet := (s.writesIn Eng.all).union (RegSet.all.diff s.fullSet)

/-! ## Iteration vectors (R62, R153, R266) -/

/-- The vector of iteration `i` of a nest with these bounds, level 0 first. -/
def iterIdx : List Nat → Nat → List Nat
  | [], _ => []
  | b :: bs, i => i % b :: iterIdx bs (i / b)

/-- The iteration number of a vector; none where an index is at or beyond its bound, or nonzero at a level that the nest lacks. -/
def idxIter : List Nat → List Nat → Option Nat
  | [], v => if v.all (· == 0) then some 0 else none
  | _ :: _, [] => some 0
  | b :: bs, i :: v => if b ≤ i then none else (idxIter bs v).map fun k => i + b * k

/-- IterVec() as sr.iter records it. -/
def packIter (v : List Nat) : BitVec 96 :=
  BitVec.ofNat 96 (v.foldr (fun i acc => i % 65536 + 65536 * acc) 0)

def unpackIter (lo : BitVec 64) (hi : BitVec 32) : List Nat :=
  let n := lo.toNat + 2 ^ 64 * hi.toNat
  (List.range 6).map fun k => n / 65536 ^ k % 65536

/-- Iterations of a nest: the product of its bounds. -/
def iterCount (bounds : List Nat) : Nat := bounds.foldl (· * ·) 1

/-! ## Returning from a trap (R113, R266) -/

/-- The command at the start of an iteration, as its restart finds it (R219, R266). What R200 and R221 keep is lost, by the model's choice: log entry 87. -/
def Running.resumeAt (r : Running) (i : Nat) : Running :=
  { r with first := i, iter := i, stage := .fresh, reads := [], got := [], src := [], dst := [], writes := [], count := 0, eccAt := none,
           rows := [], rowsAt := [], policy := none, ahead := [] }

/-- The faulting command of queue `e` at its ERET: none where the resume vector is bad (R266). A command whose own fault is still to be
delivered stays held (R267). -/
def State.resumeEngine (s : State) (e : Eng) (hent skip : Bool) (v : List Nat) : Option State :=
  let q := s.q.get e
  let awaiting := q.faults.any fun t => t.hent == hent
  if awaiting then some s
  else if hent && q.hstuck then
    match q.hrun with
    | none => some s
    | some r =>
      if skip then
        let s' := s.setQ e { q with hrun := none, hstuck := false }
        some (s'.markFull r.marked)
      else (idxIter r.bounds v).map fun i => s.setQ e { q with hrun := some (r.resumeAt i), hstuck := false }
  else if !hent && q.stuck then
    match q.run with
    | none => some s
    | some r =>
      if skip then
        let s' := s.setQ e { q with run := none, stuck := false }
        some (s'.markFull r.marked)
      else (idxIter r.bounds v).map fun i => s.setQ e { q with run := some (r.resumeAt i), stuck := false }
  else some s

/-- Queues that R33 held and that have no fault of their own go on (R266, R267). -/
def State.releaseQueues (s : State) : State :=
  let rel (q : Queue) : Queue := { q with held := q.held && (q.stuck || q.hstuck || q.faults != []) }
  let q := s.q
  let q := ⟨rel q.vec, rel q.mtx, rel q.ldq, rel q.stq, rel q.prt, rel q.kvc⟩
  { s with q := q }.setSys fun r => r.setStatus 6 q.anyHeld

/-- What a handler's ERET works from: the supervisor's copies, or the user handler's. -/
structure ReturnRec where
  causelo : BitVec 64
  epc : Word
  dtgt : Word
  dleft : BitVec 2
  iter : List Nat
deriving DecidableEq, Repr

def State.returnRec (s : State) : ReturnRec :=
  let r := s.core.sys
  if r.sup then ⟨r.causelo, r.epc, r.dtgt, r.dleft, unpackIter r.iterlo r.iterhi⟩
  else ⟨r.ucauselo, r.uepc, r.udtgt, r.udleft, unpackIter r.uiterlo r.uiterhi⟩

/-- RETURNING FROM A TRAP: the program counter, the delay record and the mode come back, the handler is no longer active, the faulting
command resumes or is removed, and the held engines go on (R113, R266). A bad record gives the cause that the ERET raises. -/
def State.returnFromTrap (s : State) : Except Cause State :=
  let r := s.core.sys
  if !r.sup && !r.uact then .error .eret
  else
    let k := s.returnRec
    if k.epc.extractLsb' 0 2 != 0 then .error (.align k.epc)
    else if k.dleft = 3 then .error .eret
    else
      let engine := match Eng.ofCode (k.causelo.extractLsb' 8 3) with
        | some e => s.resumeEngine e (k.causelo.getLsbD 20) (k.causelo.getLsbD 11) k.iter
        | none => some s
      match engine with
      | none => .error .iterC
      | some s =>
        let region := if k.dleft = 0 then none else some ⟨k.dleft.toNat, some k.dtgt⟩
        let sys :=
          if r.sup then
            let st := setBit (setBit s.core.sys.status 0 r.pmode) 3 false
            { s.core.sys with status := st }
          else s.core.sys.setStatus 2 false
        let stopped := s.core.budgetStopped && !(r.sup && k.causelo.extractLsb' 0 8 == 0x12)
        .ok (({ s with core := { s.core with pc := k.epc, region := region, sys := sys, budgetStopped := stopped } }).leaveHandler
          (s.core.depth - 1)).releaseQueues

/-! ## Tokens (R24 to R27) -/

def State.token (s : State) (t : BitVec 4) : BitVec 16 := s.core.tk[t.toNat]'(by omega)
def State.setToken (s : State) (t : BitVec 4) (v : BitVec 16) : State :=
  { s with core := { s.core with tk := s.core.tk.set t.toNat v (by omega) } }

/-- A signal: a full counter is left unchanged and overflows (R27). -/
def State.signal (s : State) (t : BitVec 4) : Option State :=
  if s.token t = BitVec.allOnes 16 then none else some (s.setToken t (s.token t + 1))

/-- A wait takes one count, if there is one (R24). -/
def State.takeToken (s : State) (t : BitVec 4) : Option State :=
  if s.token t = 0 then none else some (s.setToken t (s.token t - 1))

/-! ## Barrier objects (R257, R258) -/

/-- Address of a slot's object in this core's scratchpad, as `State.spad` numbers it (R63, R257). -/
def State.slotAddr (s : State) (bbase : BitVec 22) (slot : BitVec 4) : Nat :=
  spadAddr s.selfRank ((bbase.toNat + 16 * slot.toNat) % Config.spadSize)

/-- The phase bit of the object at a `State.spad` address. -/
def State.phaseAt (s : State) (a : Nat) : Bool := (s.spad.get (a + 8)).getLsbD 0

/-- Count (R258): the arrived bytes, with a phase flip and one more completion for each full expectation. -/
def State.countAt (s : State) (a bytes : Nat) : State :=
  let expected := leNat (s.spad.getN a 4)
  let arr := leNat (s.spad.getN (a + 4) 4) + bytes
  let k := if expected = 0 then 0 else arr / expected
  let arr := if expected = 0 then arr else arr % expected
  let ph := s.spad.get (a + 8)
  let ph := if k % 2 = 1 then ph ^^^ 1 else ph
  let done := leNat (s.spad.getN (a + 12) 4) + k
  { s with spad := ((s.spad.putN (a + 4) (leBytes 4 arr)).put (a + 8) ph).putN (a + 12) (leBytes 4 done) }.settle [.spad (a / 16)]

/-- Observing a flip: the slot's expected-phase bit, at `bit` of sr.bphase, inverts (R104, R259). -/
def State.takePhase (s : State) (slot : BitVec 4) (bit : Nat) : Option State :=
  if s.phaseAt (s.slotAddr s.core.sys.bbase slot) = s.core.sys.bphase.getLsbD bit then none
  else some (s.setSys fun r => { r with bphase := setBit r.bphase bit (!r.bphase.getLsbD bit) })

/-! ## Cluster ranks and bind records (R148, R317) -/

/-- The timeline of the launch that runs here: the running task's. -/
def State.timeline (s : State) : Option (BitVec 4) := s.runTask.map (·.timeline)

/-- A core is bound to the launch of a timeline and context (R317), or to any launch. -/
def State.bound (s : State) (die core : Nat) (tc : Option (BitVec 4 × BitVec 4)) : Bool :=
  (s.die die).binds.toList.any fun r => r.valid && r.mask.getLsbD core &&
    (match tc with | some (t, c) => r.timeline == t && r.ctx == c | none => true)

/-- A core is bound to a launch that has not completed (R315, R317). -/
def State.boundRunning (s : State) (die core : Nat) : Bool :=
  s.unit.launches.any fun l => !l.complete && s.bound die core (some (l.timeline, l.ctx))

/-- Dies that a boundary joins. -/
def boundaryDies (b : Nat) : Nat × Nat := match b % 4 with | 0 => (0, 1) | 1 => (0, 2) | 2 => (1, 3) | _ => (2, 3)

/-- A boundary of the die has failed, and its cores have left the bind records (R397). -/
def State.dieCut (s : State) (die : Nat) : Bool :=
  s.pkg.degraded && (upTo 4).any fun b => s.boundaryFailed b && ((boundaryDies b).1 == die || (boundaryDies b).2 == die)

/-- The core is out of the bind records for good, or leaving them (R2, R392, R397): no record names it and no task is dispatched to it. -/
def State.barred (s : State) (die core : Nat) : Bool :=
  s.unit.failed.contains (die, core) || s.unit.outOfService.contains (die, core) || (s.die die).drained || s.dieCut die ||
    match s.pkg.service with
    | some (.core d c) => d == die && c == core
    | some (.drain d) => d == die
    | none => false

/-- The launch's bind records hold the core of a cluster rank. -/
def State.rankBound (s : State) (rank : Nat) : Bool :=
  match s.timeline with
  | some t => s.bound s.selfDie (8 * s.selfCluster + rank) (some (t, s.ctx))
  | none => false

end Sys2Proof.Machine
end

