-- ==== Sys2Proof/Machine/Flags.lean ====
section
/-!
DEFINITION. The conditions of the condition codes (R45) on 64-bit registers and on integer and float elements. A float element enters as
its ordering key: none for a NaN.
-/

namespace Sys2Proof.Machine

/-- CMP and CMPI (R45). Codes 12 to 15 never pass the decoder. -/
def scalarCond (cc : BitVec 4) (a b : Word) : Bool :=
  match cc.toNat with
  | 0 => a == b
  | 1 => a != b
  | 2 => decide (a.toInt < b.toInt)
  | 3 => decide (b.toInt ≤ a.toInt)
  | 4 => decide (a.toInt ≤ b.toInt)
  | 5 => decide (b.toInt < a.toInt)
  | 6 => decide (a.toNat < b.toNat)
  | 7 => decide (b.toNat ≤ a.toNat)
  | 8 => decide (a.toNat ≤ b.toNat)
  | 9 => decide (b.toNat < a.toNat)
  | 10 => (a &&& b) != 0
  | 11 => (a &&& b) == 0
  | _ => false

/-- VCMP on integer elements: values as the type reads them, with the AND of their bit patterns for .bs and .bc (R45). -/
def intCond (cc : BitVec 4) (a b : Int) (andBits : Nat) : Bool :=
  match cc.toNat with
  | 0 => decide (a = b)
  | 1 => decide (a ≠ b)
  | 2 => decide (a < b)
  | 3 => decide (b ≤ a)
  | 4 => decide (a ≤ b)
  | 5 => decide (b < a)
  | 10 => andBits != 0
  | 11 => andBits == 0
  | _ => false

/-- VCMP on float elements: `ord` is none when either is a NaN, else how they compare, −0 equal to +0 (R45). -/
def floatCond (cc : BitVec 4) (ord : Option Ordering) : Bool :=
  match cc.toNat, ord with
  | 0, some o => o == .eq
  | 1, some o => o != .eq
  | 1, none => true
  | 2, some o => o == .lt
  | 3, some o => o != .lt
  | 4, some o => o != .gt
  | 5, some o => o == .gt
  | 10, none => true
  | 11, some _ => true
  | _, _ => false

end Sys2Proof.Machine
end

