-- ==== Sys2Proof/Machine/Order.lean ====
section
/-!
DEFINITION. The order of accesses (R16, R25, R97, R253 to R255, R259, R303): which writes each agent has been ordered after, the edges that order it after
more of them, and what a read or a write that is ordered after none of a piece's newest writes may make of it.
-/

namespace Sys2Proof.Machine

/-! ## Pieces -/

/-- A piece as memory or the scratchpad holds it. -/
def State.pieceAt (s : State) : Loc → BitVec 128
  | .spad g => s.spad.piece g
  | .glob k => s.mem.piece k

/-- Puts bytes of a piece into memory or the scratchpad, and nothing else. -/
def State.putPieceAt (s : State) (l : Loc) (mask : BitVec 16) (d : BitVec 128) : State :=
  match l with
  | .spad g => { s with spad := s.spad.putPiece g mask d }
  | .glob k => { s with mem := s.mem.putPiece k mask d }

/-- Byte `off` and the `n - 1` that follow, as a mask of the bytes of a piece. -/
def spanMask (off n : Nat) : BitVec 16 := BitVec.ofNat 16 ((2 ^ n - 1) * 2 ^ off)

/-- Writes a scratchpad's bytes without touching granule states; whole granules lose their poison. -/
def State.writeSpad (s : State) (a : Nat) (bs : List Byte) : State :=
  let ps := pieces (bs.length + 1) a bs.length
  let s := s.settle (ps.map fun p => .spad (p.1 / 16))
  let whole := (ps.filter fun p => p.2 = 16).map fun p => Loc.spad (p.1 / 16)
  { s with spad := s.spad.putN a bs, poison := if s.poison = [] then [] else s.poison.filter fun l => !whole.contains l }

/-! ## What an agent has been ordered after -/

/-- The agent's bit in `Recent.seen`. -/
def Agent.bit : Agent → Nat
  | .eng e _ => e.bit
  | .strand => 6
  | .quay => 7

/-- The write is ordered before what the agent does now: its own writes are, and those of its edges. The quay's writes have no order among each other. -/
def Recent.knownTo (w : Recent) : Agent → Bool
  | .strand => w.seen.getLsbD 6 || w.writer == .strand
  | .eng e no => w.seen.getLsbD e.bit || w.from_.any fun k => decide (k ≤ no)
  | .quay => false

/-- Writes that every agent has been ordered after, and those beneath them of the same pieces, are no longer of interest. -/
def pruneFrom : List Loc → List Recent → List Recent
  | _, [] => []
  | ls, w :: ws =>
    if ls.contains w.loc then pruneFrom ls ws
    else if w.seen = BitVec.allOnes 7 then pruneFrom (w.loc :: ls) ws
    else w :: pruneFrom ls ws

def State.mapRecent (s : State) (f : Recent → Recent) : State := { s with recent := pruneFrom [] (s.recent.map f) }

/-- The agent is ordered after the writes that satisfy a test. -/
def State.learn (s : State) (a : Agent) (p : Recent → Bool) : State :=
  s.mapRecent fun w => if p w then { w with seen := setBit w.seen a.bit true } else w

/-- An agent has written a piece, with `s` the machine before. The writes of a balloon are ordered by the task's key instead (R339). -/
def State.noteWrite (t s : State) (a : Agent) (iter : Nat) (l : Loc) (mask : BitVec 16) : State :=
  match l with
  | .glob _ => if s.specNow then t else { t with recent := entry :: s.recent }
  | .spad _ => { t with recent := entry :: s.recent }
where
  entry : Recent :=
    { writer := a, iter := iter, loc := l, mask := mask, old := s.pieceAt l, new := t.pieceAt l
      seen := match a with | .eng e _ => setBit 0 e.bit true | _ => 0
      from_ := none, toks := [], grans := [], phases := [], marks := [] }

/-! ## The edges (R254, R259) -/

/-- A signal: the writes that its agent is ordered after come before the wait that will take this count. Counts are taken in the order in which they were
signalled, by the model's choice: log entry 75. -/
def State.handToken (s : State) (a : Agent) (t : BitVec 4) : State :=
  s.mapRecent fun w => if w.knownTo a then { w with toks := (t, (s.token t).toNat) :: w.toks } else w

/-- A wait takes the token's oldest count. -/
def State.takeCount (s : State) (a : Agent) (t : BitVec 4) : State :=
  (s.learn a fun w => w.toks.contains (t, 0)).mapRecent fun w =>
    { w with toks := w.toks.filterMap fun p => if p.1 ≠ t then some p else if p.2 = 0 then none else some (t, p.2 - 1) }

/-- The agent has set a granule's state: a waiting access that observes it will be ordered after what the agent is. -/
def State.markGran (s : State) (a : Agent) (g : Nat) : State :=
  s.mapRecent fun w =>
    let others := w.grans.filter (· != g)
    { w with grans := if w.knownTo a then g :: others else others }

/-- The quay has written a granule of a landing and set it FULL. -/
def State.markLanded (s : State) (g : Nat) : State :=
  s.mapRecent fun w =>
    let others := w.grans.filter (· != g)
    { w with grans := if w.writer == .quay && w.loc == .spad g then g :: others else others }

/-- An access that waits for a granule's state observes it. -/
def State.observe (s : State) (a : Agent) (g : Nat) : State := s.learn a fun w => w.grans.contains g

/-- The number of the phase that a barrier object is filling, which counts those completed (R257). -/
def State.phaseNo (s : State) (a : Nat) : Nat := leNat (s.spad.getN (a + 12) 4)

/-- A Count of some writes: they are counted towards the phase being filled, and towards each that the same Count goes on to. -/
def State.countWrites (s : State) (p : Recent → Bool) (a bytes : Nat) : State :=
  let t := s.countAt a bytes
  let phases := (upTo (t.phaseNo a - s.phaseNo a + 1)).map fun j => (a, s.phaseNo a + j)
  t.mapRecent fun w => if p w then { w with phases := phases ++ w.phases } else w

/-- A barrier wait has observed a flip: its agent is ordered after the writes counted towards the phase completed last, and after nothing else (R259). -/
def State.observePhase (s : State) (a : Agent) (obj : Nat) : State := s.learn a fun w => w.phases.contains (obj, s.phaseNo obj - 1)

/-- A half of QMARK number `no` leaves its queue `e`, with `there` that the other half still stands in queue `f`: every command of `f` before the marker,
and whatever came before those, is ordered before the commands of `e` after it (R105). -/
def State.passMark (s : State) (e f : Eng) (no : Nat) (there : Bool) : State :=
  (s.mapRecent fun w => if w.knownTo (.eng e no) then { w with marks := no :: w.marks } else w).learn (.eng e no) fun w =>
    (there && w.knownTo (.eng f no)) || w.marks.contains no || match w.writer with | .eng g k => g == f && decide (k < no) | _ => false

/-- Queues that hold nothing, as bits of `Recent.seen`: what enters them later is numbered from now on. -/
def State.drainedBits (s : State) : BitVec 7 :=
  Eng.all.foldl (fun b e => if (s.q.get e).drained then setBit b e.bit true else b) 0

/-- A word of R253's list of waits has completed: what the strand has been ordered after comes before every word that it enqueues from now on. A scalar store
does so only through FENCE or SIG. -/
def State.handOn (s : State) : State :=
  s.mapRecent fun w =>
    if w.seen.getLsbD 6 then { w with from_ := some (w.from_.getD s.enqNo), seen := w.seen ||| s.drainedBits } else w

/-- A DRAIN of some queues has completed (R106): their commands' writes, and those that these were ordered after. -/
def State.drainedFrom (s : State) (es : List Eng) : State := (s.learn .strand fun w => es.any fun e => w.seen.getLsbD e.bit).handOn

/-- A FENCE, or a word that waits as one, has completed: every access before it, scalar stores among them (R110). -/
def State.fenced (s : State) : State := (s.learn .strand fun w => w.writer != .quay || w.seen != 0).handOn

/-- An atomic of the strand, one of the waits of R253, has written a piece: its write comes before the words that the strand enqueues from now on (R303). -/
def State.noteAtomic (t s : State) (l : Loc) (mask : BitVec 16) : State :=
  let t := t.noteWrite s .strand 0 l mask
  (t.learn .strand fun w => w.loc == l && w.new == t.pieceAt l).handOn

/-! ## Accesses that a piece's newest writes are not ordered before (R255) -/

/-- The newest `n` writes of a piece that now reads `v`, newest first, where none of them is ordered before the agent; with the other writes, and with what
the piece was before those `n`. -/
def hideTop (a : Agent) (l : Loc) : Nat → BitVec 128 → List Recent → Option (List Recent × List Recent × BitVec 128)
  | 0, v, ws => some ([], ws, v)
  | _ + 1, _, [] => none
  | n + 1, v, w :: ws =>
    if w.loc ≠ l then (hideTop a l (n + 1) v ws).map fun r => (r.1, w :: r.2.1, r.2.2)
    else if w.new = v && !w.knownTo a then (hideTop a l n w.old ws).map fun r => (w :: r.1, r.2)
    else none

/-- The machine before the newest writes of some pieces, with those writes, the oldest first. -/
def State.hide (a : Agent) : List (Loc × Nat) → State → Option (State × List Recent)
  | [], s => some (s, [])
  | (l, n) :: rest, s =>
    match hideTop a l n (s.pieceAt l) s.recent with
    | none => none
    | some (hidden, kept, v) =>
      (State.hide a rest ({ s with recent := kept }.putPieceAt l (BitVec.allOnes 16) v)).map fun r => (r.1, r.2 ++ hidden.reverse)

/-- A hidden write is seen again, over what has come to stand there. -/
def State.unhide (s : State) (w : Recent) : State :=
  let t := s.putPieceAt w.loc w.mask w.new
  { t with recent := { w with old := s.pieceAt w.loc, new := t.pieceAt w.loc } :: t.recent }

/-- What an agent makes of the machine where it takes some pieces as they were before their newest writes: its reads find those bytes, and its writes go
under the writes that it did not see. None where one of them is ordered before it. -/
def State.withViews (s : State) (a : Agent) (views : List (Loc × Nat)) (f : State → Option State) : Option State :=
  if views = [] then f s
  else if s.specNow then none
  else match State.hide a views s with
    | none => none
    | some (t, hidden) => (f t).map fun u => hidden.foldl State.unhide u

end Sys2Proof.Machine
end

