-- ==== Sys2Proof/Machine/Scalar.lean ====
section
/-!
DEFINITION. Scalar accesses of the control core: address checks, tagged pointers and the pieces they reach (R94 to R97, R158, R160, R161,
R339 to R342).
-/

namespace Sys2Proof.Machine

/-- Permission masks (R158). -/
def permCtlRead : BitVec 8 := 0x01
def permCtlWrite : BitVec 8 := 0x02
def permCtlAtomic : BitVec 8 := 0x03
def permVec : BitVec 8 := 0x04
def permMtx : BitVec 8 := 0x08
def permLdq : BitVec 8 := 0x10
def permStq : BitVec 8 := 0x20
def permPrt : BitVec 8 := 0x40
def permKv : BitVec 8 := 0x80

/-- What an access comes to: a trap, a wait for the task to become non-speculative, a read of a non-resident page (R159), or a result. -/
inductive Access (α : Type) where
  | trap (c : Cause)
  | wait
  | absent
  | ok (a : α)
deriving DecidableEq, Repr

/-- Where the bytes of a scalar access lie: pieces of global memory (virtual address, physical address, length), bytes of a scratchpad,
bytes of a granule-state array (rank and offset), or physical memory. -/
inductive SRef where
  | glob (ps : List (Nat × Nat × Nat))
  | spad (a n : Nat)
  | gran (rank off n : Nat)
  | phys (pa n : Nat)
deriving DecidableEq, Repr

/-- Translates pieces in ascending order. The flag says that a piece of a non-resident page was met; where such a piece must trap, it
traps at its place in the order. -/
def resolvePieces (s : State) (need : BitVec 8) (nresTraps : Bool) :
    List (Nat × Nat) → Except Cause (List (Nat × Nat × Nat) × Bool)
  | [] => .ok ([], false)
  | (va, n) :: rest =>
    match s.translate s.ctx need va with
    | .range => .error (.range 0 va)
    | .perm sub => .error (.perm sub va)
    | .ecc pa => .error (.ecc pa)
    | .nres =>
      if nresTraps then .error (.nres va)
      else match resolvePieces s need nresTraps rest with
        | .error c => .error c
        | .ok (ps, _) => .ok (ps, true)
    | .ok pa =>
      match resolvePieces s need nresTraps rest with
      | .error c => .error c
      | .ok (ps, absent) => .ok ((va, pa, n) :: ps, absent)

/-- Tagged pointers (R161), in raw mode only (R95). -/
def resolveTagged (s : State) (ea : Word) (n : Nat) : Except Cause SRef :=
  let rank := (ea.extractLsb' 57 3).toNat
  let off := (ea.extractLsb' 0 52).toNat
  if !s.core.sys.raw then .error (.perm 2 ea.toNat)
  else if ea.extractLsb' 52 5 != 0 then .error (.tag ea.toNat)
  else match (ea.extractLsb' 60 4).toNat with
    | 1 =>
      if Config.spadSize < off + n then .error (.tag ea.toNat)
      else if !s.rankBound rank then .error (.unbound ea.toNat)
      else .ok (.spad (spadAddr rank off) n)
    | 2 =>
      if 0x10000 < off + n then .error (.tag ea.toNat)
      else if !s.rankBound rank then .error (.unbound ea.toNat)
      else .ok (.gran rank off n)
    | 3 =>
      if rank != 0 || !physExists off || !physExists (off + n - 1) then .error (.tag ea.toNat)
      else .ok (.phys off n)
    | _ => .error (.tag ea.toNat)

/-- Every check of a scalar access of `n` bytes at `ea` (R94, R95). -/
def resolveScalar (s : State) (need : BitVec 8) (nresTraps : Bool) (ea : Word) (n : Nat) : Access SRef :=
  if ea.extractLsb' 52 12 != 0 then
    match resolveTagged s ea n with
    | .error c => .trap c
    | .ok r => .ok r
  else match resolvePieces s need nresTraps (pieces (n + 1) ea.toNat n) with
    | .error c => .trap c
    | .ok (_, true) => .absent
    | .ok (ps, false) => .ok (.glob ps)

/-- The first poisoned piece of an access, by the address the program used (R95, R325). -/
def SRef.poisonAt (s : State) (ea : Word) : SRef → Option Nat
  | .glob ps => (ps.find? fun p => s.poisoned (.glob (p.2.1 / 16))).map (·.1)
  | .spad a n => ((pieces (n + 1) a n).find? fun p => s.poisoned (.spad (p.1 / 16))).map fun p => ea.toNat + (p.1 - a)
  | .gran _ _ _ => none
  | .phys pa n => ((pieces (n + 1) pa n).find? fun p => s.poisoned (.glob (p.1 / 16))).map fun p => ea.toNat + (p.1 - pa)

/-- The first piece of an access that a failed boundary cuts off (R397). -/
def SRef.cutAt (s : State) (ea : Word) : SRef → Option Nat
  | .glob ps => (ps.find? fun p => s.cutOff (.glob (p.2.1 / 16))).map (·.1)
  | .phys pa n => ((pieces (n + 1) pa n).find? fun p => s.cutOff (.glob (p.1 / 16))).map fun p => ea.toNat + (p.1 - pa)
  | _ => none

/-- Byte `k` of a core's granule-state array: granules 4k to 4k + 3, two bits each (R31, R161). -/
def granByte (s : State) (rank k : Nat) : Byte :=
  BitVec.ofNat 8 ((upTo 4).foldr (fun j acc => (s.granState (granIdx rank (4 * k + j))).code + 4 * acc) 0)

/-- A raw write of a byte of the array: MOORED granules keep their state, and a code of 2 stores FULL (R143, R161). -/
def putGranByte (s : State) (rank k : Nat) (b : Byte) : State :=
  (upTo 4).foldl (init := s) fun s j =>
    let g := granIdx rank (4 * k + j)
    if s.granState g = .moored then s
    else
      let code := b.toNat / 4 ^ j % 4
      s.setGran g (if code = 1 ∨ code = 2 then .full else .empty)

/-- The bytes of a checked access. -/
def SRef.read (s : State) : SRef → List Byte
  | .glob ps => ps.flatMap fun p => s.globBytes p.2.1 p.2.2
  | .spad a n => s.spad.getN a n
  | .gran rank off n => (upTo n).map fun i => granByte s rank (off + i)
  | .phys pa n => s.globBytes pa n

/-- What a checked read leaves behind: the page TLB's leaves and the task's read set. -/
def SRef.noteRead (s : State) (need : BitVec 8) : SRef → State
  | .glob ps => ps.foldl (fun s p => (s.tlbTouch s.ctx need p.1).trackRead p.2.1 p.2.2) s
  | .phys pa n => s.trackRead pa n
  | _ => s

/-- Stores bytes by a checked access, piece by piece in ascending order. -/
def SRef.write (s : State) (need : BitVec 8) (bs : List Byte) : SRef → State
  | .glob ps =>
    (ps.foldl (fun (s, bs) (p : Nat × Nat × Nat) =>
      ((s.tlbTouch s.ctx need p.1).writeGlob p.2.1 (bs.take p.2.2), bs.drop p.2.2)) (s, bs)).1
  | .spad a _ => s.writeSpad a bs
  | .gran rank off _ => (bs.foldl (fun (s, k) b => (putGranByte s rank k b, k + 1)) (s, off)).1
  | .phys pa _ => s.writeDirect s.runTask pa bs

/-- The lines of an access to global memory. -/
def SRef.lines : SRef → List Nat
  | .glob ps => (ps.flatMap fun p => linesOf p.2.1 p.2.2).eraseDups
  | .phys pa n => linesOf pa n
  | _ => []

/-- A speculative task's read of this access waits, for all of its lines together (R341). -/
def SRef.readWaits (s : State) (r : SRef) : Bool := s.linesWait r.lines

/-- A speculative task's write of this access waits: a raw-mode write, or one beyond the balloon (R339, R340). -/
def SRef.writeWaits (s : State) (r : SRef) : Bool :=
  match r with
  | .glob _ => s.linesHeld r.lines
  | _ => s.specNow

/-! ## Performing a store -/

/-- The pieces of an access: each with the first byte used in it and how many. -/
def SRef.locs : SRef → List (Loc × Nat × Nat)
  | .glob ps => ps.map fun p => (.glob (p.2.1 / 16), p.2.1 % 16, p.2.2)
  | .spad a n => (pieces (n + 1) a n).map fun p => (.spad (p.1 / 16), p.1 % 16, p.2)
  | .gran _ _ _ => []
  | .phys pa n => (pieces (n + 1) pa n).map fun p => (.glob (p.1 / 16), p.1 % 16, p.2)

/-- The granules whose states an access reaches. -/
def SRef.grans : SRef → List Nat
  | .gran rank off n => (upTo (4 * n)).map fun j => granIdx rank (4 * off + j)
  | _ => []

/-- The strand has written the pieces and granule states of an access, with `s` the machine before. No engine command is ordered after it until a FENCE or
a SIG. -/
def State.noteStore (t s : State) (r : SRef) : State :=
  r.grans.foldl (fun t g => if s.granState g == .moored then t else t.markGran .strand g)
    (r.locs.foldl (fun t p => (t.noteWrite { s with recent := t.recent } .strand 0 p.1 (spanMask p.2.1 p.2.2)))
      { t with recent := s.recent })

/-- A store is performed. -/
def SRef.perform (s : State) (bs : List Byte) (r : SRef) : State := (r.write s permCtlWrite bs).noteStore s r

/-- A scalar load of `n` bytes (R94 to R97). -/
def scalarLoad (s : State) (nresTraps : Bool) (ea : Word) (n : Nat) : Access (List Byte × State) :=
  match resolveScalar s permCtlRead nresTraps ea n with
  | .trap c => .trap c
  | .wait => .wait
  | .absent => .absent
  | .ok r =>
    match r.poisonAt s ea with
    | some a => .trap (.ecc a)
    | none => if r.readWaits s then .wait else .ok (r.read s, r.noteRead s permCtlRead)

/-- A scalar store (R94 to R97). -/
def scalarStore (s : State) (ea : Word) (bs : List Byte) : Access State :=
  match resolveScalar s permCtlWrite true ea bs.length with
  | .trap c => .trap c
  | .wait => .wait
  | .absent => .wait
  | .ok r =>
    match r.cutAt s ea with
    | some a => .trap (.ecc a)
    | none => if r.writeWaits s then .wait else .ok (r.perform s bs)

end Sys2Proof.Machine
end

