-- ==== Sys2Proof/Machine/Operands.lean ====
section
/-!
DEFINITION. Tensor operands: the descriptor's fields (R146, R147), element and header addresses (R148, R149), planes (R128, R151), the
coordinates of a nest's iteration (R152, R153), and the checks that turn an address into a piece of memory (R148, R156 to R160).
-/

namespace Sys2Proof.Machine

/-- A tensor descriptor's image (R146). -/
abbrev TDesc := BitVec 256

def descBase (d : TDesc) : Nat := (d.extractLsb' 0 48).toNat
def descSpace (d : TDesc) : Nat := (d.extractLsb' 48 2).toNat
def descFmt (d : TDesc) : Nat := (d.extractLsb' 50 6).toNat
def descNosign (d : TDesc) : Bool := d.getLsbD 56
def descNosel (d : TDesc) : Bool := d.getLsbD 57
def descAffine (d : TDesc) : Bool := d.getLsbD 58
def descSwz (d : TDesc) : Nat := (d.extractLsb' 59 3).toNat
/-- Extent of dimension k, minus 1. -/
def descExt (d : TDesc) (k : Nat) : Nat := (d.extractLsb' (64 + 16 * k) 16).toNat
/-- Stride of dimension k = 1 to 3, in granules. -/
def descStride (d : TDesc) (k : Nat) : Nat := (d.extractLsb' (106 + 22 * k) 22).toNat
def descWrap (d : TDesc) (k : Nat) : Nat := (d.extractLsb' (194 + 5 * k) 5).toNat
def descScale (d : TDesc) : Int := (d.extractLsb' 216 24).toInt
def descAnchor (d : TDesc) : Int := (d.extractLsb' 240 16).toInt

/-- Scratchpad or cluster window. -/
def descLocal (d : TDesc) : Bool := decide (descSpace d ≤ 1)

/-! ## Formats (R128, R147) -/

/-- Bytes of an element of fmt 0 to 9. -/
def fmtSize (f : Nat) : Nat := if f = 0 ∨ f = 3 ∨ f = 8 then 1 else if f = 1 ∨ f = 4 ∨ f = 7 ∨ f = 9 then 2 else 4

def isPB (f : Nat) : Bool := decide (10 ≤ f) && decide (f ≤ 31)
def isPI (f : Nat) : Bool := decide (32 ≤ f) && decide (f ≤ 47)
def isPlane (f : Nat) : Bool := isPB f || isPI f
def isBfx (f : Nat) : Bool := f == 8 || f == 9

/-- m of PBm, w of PIw. -/
def planeWidth (f : Nat) : Nat := if isPB f then f - 9 else f - 31

/-- P, the plane count. -/
def planes (d : TDesc) : Nat :=
  if isPB (descFmt d) then planeWidth (descFmt d) + 2 - (descNosign d).toNat - (descNosel d).toNat else planeWidth (descFmt d)

/-- The tensor carries a header per block, or an affine pair. -/
def hasHeader (d : TDesc) : Bool := isBfx (descFmt d) || isPB (descFmt d) || descAffine d

/-- The element type of fmt 0 to 7. -/
def fmtType (f : Nat) : ElemType := ElemType.ofCode (BitVec.ofNat 3 f)

/-! ## Addresses (R148, R149) -/

/-- Coordinates after wrap, or the first dimension that is out of its extent. -/
def wrapFrom (d : TDesc) : Nat → List Int → Except Cause (List Nat)
  | _, [] => .ok []
  | k, c :: cs =>
    let w := descWrap d k
    let c := if w = 0 then c else c % (2 ^ w : Int)
    if c < 0 ∨ (descExt d k : Int) < c then .error (.extent k)
    else match wrapFrom d (k + 1) cs with
      | .error e => .error e
      | .ok l => .ok (c.toNat :: l)

def swizzle (k a c1 : Nat) : Nat := if k = 0 then a else a ^^^ (16 * (c1 % 2 ^ k))

/-- Address of an element, or of its plane group, from coordinates after wrap. -/
def linearAddr (d : TDesc) (c : List Nat) : Nat :=
  let c0 := c.getD 0 0
  let c1 := c.getD 1 0
  let off := if isPlane (descFmt d) then c0 / 32 * 4 * planes d else c0 * fmtSize (descFmt d)
  swizzle (descSwz d)
    (16 * descBase d + off + 16 * (descStride d 1 * c1 + descStride d 2 * c.getD 2 0 + descStride d 3 * c.getD 3 0)) c1

/-- Address of the header or affine pair of the block that holds an element. -/
def headerAddr (d : TDesc) (c : List Nat) : Int :=
  let b := c.getD 0 0 / 32 +
    (descExt d 0 + 1) / 32 * (c.getD 1 0 + (descExt d 1 + 1) * (c.getD 2 0 + (descExt d 2 + 1) * c.getD 3 0))
  16 * ((descBase d : Int) + descScale d) + 2 * (b : Int)

/-! ## From an address to a piece -/

/-- Why an address gives no piece. -/
inductive Stop where
  | trap (c : Cause)
  | absent (va : Nat)
deriving DecidableEq, Repr

/-- An address that no space contains, as sr.cause holds it. -/
def addrInfo (a : Int) : Nat := (a % (2 ^ 64 : Int)).toNat

/-- Keys of global pieces come after those of scratchpad granules. -/
def globKey (va : Nat) : Nat := 2 ^ 32 + va / 16

/-- The checks of R148 against the space, and R156 to R160 in global space, for `n` bytes that lie in one piece. -/
def partAt (s : State) (ctx : BitVec 4) (need : BitVec 8) (space : Nat) (a : Int) (n : Nat) : Except Stop Part :=
  match space with
  | 0 =>
    if a < 0 ∨ (Config.spadSize : Int) ≤ a then .error (.trap (.spad (addrInfo a)))
    else
      let p := spadAddr s.selfRank a.toNat
      .ok (.piece (.spad (p / 16)) (p / 16) (p % 16) n)
  | 1 =>
    if a < 0 ∨ (2 ^ 25 : Int) ≤ a then .error (.trap (.spad (addrInfo a)))
    else if !s.rankBound (a.toNat / Config.spadSize) then .error (.trap (.unbound (addrInfo a)))
    else .ok (.piece (.spad (a.toNat / 16)) (a.toNat / 16) (a.toNat % 16) n)
  | 2 =>
    if a < 0 ∨ (2 ^ 52 : Int) ≤ a then .error (.trap (.range 0 (addrInfo a)))
    else match s.translate ctx need a.toNat with
      | .range => .error (.trap (.range 0 a.toNat))
      | .perm sub => .error (.trap (.perm sub a.toNat))
      | .nres => .error (.absent a.toNat)
      | .ecc pa => .error (.trap (.ecc pa))
      | .ok pa => .ok (.piece (.glob (pa / 16)) (globKey a.toNat) (pa % 16) n)
  | _ => .error (.trap (.space (addrInfo a)))

/-- Which access is made: the context, the permission, and the displacement of a global operand (R212). -/
structure AccessBy where
  ctx : BitVec 4
  need : BitVec 8
  disp : Int
deriving DecidableEq, Repr

def AccessBy.shift (by_ : AccessBy) (d : TDesc) : Int := if descSpace d = 2 then by_.disp else 0

/-- The part that an element of fmt 0 to 9 occupies. -/
def elemPart (s : State) (by_ : AccessBy) (d : TDesc) (c : List Int) : Except Stop Part :=
  match wrapFrom d 0 c with
  | .error e => .error (.trap e)
  | .ok k => partAt s by_.ctx by_.need (descSpace d) ((linearAddr d k : Int) + by_.shift d) (fmtSize (descFmt d))

/-- Parts at an address and at the following 4-byte words. -/
def wordParts (s : State) (by_ : AccessBy) (space : Nat) : Nat → Int → Except Stop (List Part)
  | 0, _ => .ok []
  | n + 1, a =>
    match partAt s by_.ctx by_.need space a 4 with
    | .error e => .error e
    | .ok p =>
      match wordParts s by_ space n (a + 4) with
      | .error e => .error e
      | .ok ps => .ok (p :: ps)

/-- The P words of the plane group that holds an element (R151). -/
def groupParts (s : State) (by_ : AccessBy) (d : TDesc) (c : List Int) : Except Stop (List Part) :=
  match wrapFrom d 0 c with
  | .error e => .error (.trap e)
  | .ok k => wordParts s by_ (descSpace d) (planes d) ((linearAddr d k : Int) + by_.shift d)

/-- The part that holds the header or affine pair of an element's block. -/
def headerPart (s : State) (by_ : AccessBy) (d : TDesc) (c : List Int) : Except Stop Part :=
  match wrapFrom d 0 c with
  | .error e => .error (.trap e)
  | .ok k => partAt s by_.ctx by_.need (descSpace d) (headerAddr d k + by_.shift d) 2

/-- Collects the parts of a list, or stops at the first failure. -/
def collect {α β : Type} (f : α → Except Stop β) : List α → Except Stop (List β)
  | [] => .ok []
  | x :: xs =>
    match f x with
    | .error e => .error e
    | .ok y =>
      match collect f xs with
      | .error e => .error e
      | .ok ys => .ok (y :: ys)

/-- A non-resident page is NRES to every agent but those of R159 (R160). -/
def Stop.cause : Stop → Cause
  | .trap c => c
  | .absent va => .nres va

/-- Contiguous bytes: the 16-byte pieces from an address. -/
def blockParts (s : State) (by_ : AccessBy) (space : Nat) (a : Int) (n : Nat) : Except Stop (List Part) :=
  collect (fun (p : Nat × Nat) => partAt s by_.ctx by_.need space (a + (p.1 : Int)) p.2)
    ((pieces (n + 2) (a % 16).toNat n).map fun p => (p.1 - (a % 16).toNat, p.2))

/-! ## Visits -/

/-- Byte mask of `n` bytes from byte `off` of a piece. -/
def maskOf (off n : Nat) : BitVec 16 := BitVec.ofNat 16 ((2 ^ n - 1) * 2 ^ off)
def dataOf (off n v : Nat) : BitVec 128 := BitVec.ofNat 128 (v % 256 ^ n * 256 ^ off)

/-- Inserts a piece to read, once. -/
def insertRead (v : RVisit) : List RVisit → List RVisit
  | [] => [v]
  | w :: ws =>
    if v.key < w.key then v :: w :: ws
    else if v.key = w.key ∧ v.qual = w.qual then { w with mask := w.mask ||| v.mask } :: ws
    else w :: insertRead v ws

/-- The pieces of parts in ascending address order, each once (R140, R181, R195, R219), before those already in a list. -/
def readVisits (q : Qual) (ps : List Part) (rest : List RVisit) : List RVisit :=
  ps.foldr (fun p acc => match p with
    | .piece loc key off n => insertRead ⟨key, loc, q, maskOf off n⟩ acc
    | .lit _ _ => acc) rest

def byteMask (m : BitVec 16) : BitVec 128 :=
  BitVec.ofNat 128 ((upTo 16).foldr (fun i acc => (if m.getLsbD i then 255 else 0) + 256 * acc) 0)

/-- A later write merges over an earlier one of the same piece. -/
def WVisit.merge (a b : WVisit) : WVisit :=
  { a with mask := a.mask ||| b.mask, data := (a.data &&& ~~~byteMask b.mask) ||| (b.data &&& byteMask b.mask) }

/-- Inserts a write before those already there. -/
def insertEarlier (v : WVisit) : List WVisit → List WVisit
  | [] => [v]
  | w :: ws =>
    if v.key < w.key then v :: w :: ws
    else if v.key = w.key then v.merge w :: ws
    else w :: insertEarlier v ws

/-- The writes of values to parts, in ascending address order; of two values for one byte the later remains. -/
def writeVisits (q : Qual) (ps : List (Part × Nat)) : List WVisit :=
  ps.foldr (fun p acc => match p.1 with
    | .piece loc key off n => insertEarlier ⟨key, loc, q, maskOf off n, dataOf off n p.2⟩ acc
    | .lit _ _ => acc) []

/-- The bytes of a part, as a little-endian number, from the pieces read. -/
def partVal (got : List (Loc × BitVec 128)) : Part → Nat
  | .lit v _ => v
  | .piece loc _ off n =>
    match got.find? fun p => p.1 == loc with
    | some (_, d) => (d.extractLsb' (8 * off) (8 * n)).toNat
    | none => 0

def Part.size : Part → Nat
  | .lit _ n => n
  | .piece _ _ _ n => n

/-- A run of parts as one little-endian number. -/
def partsVal (got : List (Loc × BitVec 128)) : List Part → Nat
  | [] => 0
  | p :: ps => partVal got p % 256 ^ p.size + 256 ^ p.size * partsVal got ps

/-- Splits a number into the values of parts, low part first. -/
def spreadVal : List Part → Nat → List (Part × Nat)
  | [], _ => []
  | p :: ps, v => (p, v % 256 ^ p.size) :: spreadVal ps (v / 256 ^ p.size)

/-! ## Nests (R152, R153) -/

def nestLevels (n : BitVec 1024) : Nat := (n.extractLsb' 0 3).toNat
def nestBound (n : BitVec 1024) (l : Nat) : BitVec 32 := n.extractLsb' (8 * (32 + 16 * l)) 32
def nestStep (n : BitVec 1024) (l o : Nat) : BitVec 32 := n.extractLsb' (8 * (36 + 16 * l + 4 * o)) 32
def stepOn (w : BitVec 32) : Bool := w.getLsbD 31
def stepDim (w : BitVec 32) : Nat := (w.extractLsb' 28 2).toNat
def stepBy (w : BitVec 32) : Int := (w.extractLsb' 0 16).toInt
/-- Signed origin of dimension 2 or 3 of operand `o`. -/
def nestOrg (n : BitVec 1024) (o j : Nat) : Int := (n.extractLsb' (32 + 16 * (2 * o + (j - 2))) 16).toInt

/-- The level bounds, with the loop registers captured at enqueue. -/
def nestBounds (n : BitVec 1024) (loops : Vector (BitVec 32) 16) : List Nat :=
  (upTo (nestLevels n)).map fun l =>
    let b := nestBound n l
    if b.getLsbD 31 then (loops[(b.extractLsb' 0 4).toNat]'(by omega)).toNat else (b.extractLsb' 0 17).toNat

/-- Coordinate `j` of operand `o` from its origin and the iteration vector. -/
def nestCoord (n : BitVec 1024) (v : List Nat) (o j : Nat) (origin : Int) : Int :=
  (upTo (nestLevels n)).foldl (init := origin) fun acc k =>
    let w := nestStep n k o
    if stepOn w && stepDim w == j then acc + stepBy w * (v.getD k 0 : Int) else acc

/-- The iteration's coordinates of an operand. -/
def Running.coords (r : Running) (o : Nat) : List Int :=
  let v := iterIdx r.bounds r.iter
  let x0 := if o = 0 then r.entry.x0.toInt else if o = 1 then r.entry.x2.toInt else 0
  let x1 := if o = 0 then r.entry.x1.toInt else if o = 1 then r.entry.x3.toInt else 0
  [nestCoord r.nest v o 0 x0, nestCoord r.nest v o 1 x1, nestCoord r.nest v o 2 (nestOrg r.nest o 2),
   nestCoord r.nest v o 3 (nestOrg r.nest o 3)]

/-- Some enabled step moves operand `o`. -/
def nestMoves (n : BitVec 1024) (o : Nat) : Bool := (upTo (nestLevels n)).any fun k => stepOn (nestStep n k o)

/-- An enabled step of operand `o` moves a dimension other than 0. -/
def nestMovesBeyond0 (n : BitVec 1024) (o : Nat) : Bool :=
  (upTo (nestLevels n)).any fun k => stepOn (nestStep n k o) && stepDim (nestStep n k o) != 0

/-- Coordinates moved along dimension 0. -/
def along (c : List Int) (k : Nat) : List Int :=
  match c with
  | c0 :: cs => (c0 + (k : Int)) :: cs
  | [] => []

/-- Coordinates moved along dimension 1. -/
def along1 (c : List Int) (k : Int) : List Int :=
  match c with
  | c0 :: c1 :: cs => c0 :: (c1 + k) :: cs
  | l => l

/-! ## The addressed span, and the frame of a speculative task (R334, R340) -/

/-- The largest coordinate of dimension k that passes wrap and the extent check (R148). -/
def descTop (d : TDesc) (k : Nat) : Nat := if descWrap d k = 0 then descExt d k else min (descExt d k) (2 ^ descWrap d k - 1)

/-- The bytes from the first to one past the last that a descriptor's elements, with their headers, may occupy. Under a swizzle they are rounded outward to
its aligned spans, the model's choice: log entry 78. -/
def descSpan (d : TDesc) : Int × Int :=
  let fm := descFmt d
  let row := if isPlane fm then (descTop d 0 / 32 + 1) * 4 * planes d else (descTop d 0 + 1) * fmtSize fm
  let lo := 16 * descBase d
  let hi := lo + row + 16 * (descStride d 1 * descTop d 1 + descStride d 2 * descTop d 2 + descStride d 3 * descTop d 3)
  let g := 2 ^ (descSwz d + 4)
  let lo' : Int := if descSwz d = 0 then lo else lo / g * g
  let hi' : Int := if descSwz d = 0 then hi else (hi + g - 1) / g * g
  if hasHeader d then
    let h := headerAddr d [0, 0, 0, 0]
    let e := headerAddr d [descTop d 0, descTop d 1, descTop d 2, descTop d 3] + 2
    (min lo' h, max hi' e)
  else (lo', hi')

/-- Bytes of this core's scratchpad that lie wholly inside the running task's frame. -/
def State.inFrame (s : State) (lo hi : Int) : Bool :=
  match s.runTask with
  | some t => decide ((16 * frameFirst t.frame : Int) ≤ lo) && decide (hi ≤ (Config.spadSize : Int))
  | none => true

/-- A speculative task's command whose local destination (or consumed source) leaves the frame waits. -/
def State.outsideFrame (s : State) (d : TDesc) : Bool :=
  s.specNow && (descSpace d == 1 || (descSpace d == 0 && !s.inFrame (descSpan d).1 (descSpan d).2))

/-- The same for a Count slot. -/
def State.slotOutside (s : State) (bbase : BitVec 22) (slot : BitVec 4) : Bool :=
  let a : Int := ((bbase.toNat + 16 * slot.toNat) % Config.spadSize : Nat)
  s.specNow && !s.inFrame a (a + 16)

/-- The machine as a started command translates: with the page-table root it latched (R102). -/
def Running.view (r : Running) (s : State) : State :=
  { s with core := { s.core with sys := { s.core.sys with ptroot := r.ptroot } } }

/-- The page TLB after the checks of an iteration have passed (R157). -/
def Running.touch (r : Running) (need : BitVec 8) (ps : List Part) (s : State) : State :=
  { s with tlb := (ps.foldl (init := r.view s) fun v p => match p with
      | .piece (.glob _) key _ _ => v.tlbTouch (r.ctx.extractLsb' 0 4) need ((key - 2 ^ 32) * 16)
      | _ => v).tlb }

def Running.by_ (r : Running) (need : BitVec 8) : AccessBy := ⟨r.ctx.extractLsb' 0 4, need, 0⟩

end Sys2Proof.Machine
end

