-- ==== Sys2Proof/Machine/TaskOps.lean ====
section
/-!
DEFINITION. The die task unit: placement, creation, the commit frontier, becoming non-speculative, committing and ending
(R314, R318, R333 to R338, R348, R349).
-/

namespace Sys2Proof.Machine

/-! ## Numbers (R333) -/

/-- Uncommitted tasks that a die's task unit holds (R333). -/
def State.tasksOn (s : State) (die : Nat) : Nat := (s.unit.tasks.filter fun t => decide (t.die = die)).length

/-- A task unit's capacity (R333). -/
def taskLimit : Nat := 4096

/-! ## The commit frontier (R335, R336) -/

/-- The lowest key of a timeline's uncommitted tasks; all ones when it has none. -/
def State.lowestKey (s : State) (tl : BitVec 4) : BitVec 64 × BitVec 64 :=
  s.unit.tasks.foldl (init := (BitVec.allOnes 64, BitVec.allOnes 64)) fun k t =>
    if t.timeline == tl && keyLt t.ts t.wid k.1 k.2 then (t.ts, t.wid) else k

/-- The frontier is recomputed (R335). -/
def State.refreshFrontier (s : State) (tl : BitVec 4) : State :=
  { s with unit := { s.unit with frontier := s.unit.frontier.set tl.toNat (s.lowestKey tl) (by omega) } }

def State.frontierOf (s : State) (tl : BitVec 4) : BitVec 64 × BitVec 64 := s.unit.frontier[tl.toNat]'(by omega)

/-- The task belongs to the frontier group of its timeline (R336). -/
def State.inFrontier (s : State) (t : Task) : Bool :=
  let f := s.frontierOf t.timeline
  if t.ts == f.1 && t.wid == f.2 then true
  else
    let head := s.unit.tasks.filter fun u => u.timeline == t.timeline && u.ts == f.1 && u.wid == f.2
    !t.spec && t.ts == f.1 && head.any (fun u => !u.spec) && head.all (fun u => !u.spec) &&
      !(s.unit.tasks.any fun u => u.timeline == t.timeline && u.spec && u.ts == t.ts &&
          keyLt f.1 f.2 u.ts u.wid && u.keyLt t)

/-- The task is non-speculative: in the frontier group, now or since an earlier moment (R336). -/
def State.taskNonspec (s : State) (t : Task) : Bool := t.nonspec || s.inFrontier t

/-! ## Becoming non-speculative (R336, R345, R349) -/

/-- What a version writes to memory, in ascending order: its 16-byte pieces whole where it holds all of them, else byte by byte (R325, R349). -/
def Version.writes (v : Version) : List (Nat × List Byte) :=
  let byte (i : Nat) : Byte := v.data.extractLsb' (8 * i) 8
  (upTo 4).flatMap fun k =>
    let held := (upTo 16).filter fun i => v.mask.getLsbD (16 * k + i)
    if held.length = 16 then [(64 * v.line + 16 * k, (upTo 16).map fun i => byte (16 * k + i))]
    else held.map fun i => (64 * v.line + 16 * k + i, [byte (16 * k + i)])

def insertVersion (v : Version) : List Version → List Version
  | [] => [v]
  | w :: ws => if v.line < w.line then v :: w :: ws else w :: insertVersion v ws

/-- The flush of a task's balloon: every masked byte in ascending line order; the versions become memory and the reader bits are
cleared (R349). Bytes across a failed boundary are not written (R397). -/
def State.flush (s : State) (t : Task) : State :=
  let vs := (s.unit.versions.filter (·.task == t.num)).foldl (fun l v => insertVersion v l) []
  let s := s.dropSpec t.num
  vs.foldl (init := s) fun s v =>
    ((v.writes.filter fun p => !s.cutFrom t.die (.glob (p.1 / 16))).foldl (fun s p => s.storeFor t.ctx p.1 p.2) s).abortList (s.flushed t v.line)

/-- The first address of a task's balloon that its flush cannot reach (R397). -/
def State.flushCut (s : State) (t : Task) : Option Nat :=
  let vs := (s.unit.versions.filter (·.task == t.num)).foldl (fun l v => insertVersion v l) []
  ((vs.flatMap Version.writes).find? fun p => s.cutFrom t.die (.glob (p.1 / 16))).map (·.1)

/-- A task becomes non-speculative: its balloon is flushed, spec of the core that runs it is cleared, and the trap that it parked with is
delivered (R336, R345, R349). A flush that meets a failed boundary is an ECC of the core whose balloon it is, by the model's choice: log entry 85. -/
def State.becomeNonspec (s : State) (n : BitVec 64) : State :=
  match s.task n with
  | none => s
  | some t =>
    if t.nonspec || !s.inFrontier t then s
    else
      let here := s.runTask.any fun r => r.num == n
      let s := s.mapTasks fun u => if u.num == n then { u with nonspec := true, readsFrom := [] } else u
      let cut := s.flushCut t
      let s := s.flush t
      if !here then s
      else
        let s := s.setSys fun r => r.setStatus 7 false
        let runs (s : State) : State := s.mapTasks fun u => if u.num == n then { u with state := .running, trap := 0 } else u
        match s.core.phase, s.core.saved, cut with
        | .parked, some (tr, resume, region), _ =>
          let s := runs s
          let s := { s with core := { s.core with saved := none, phase := .running, region := region } }
          s.takeTrap tr resume
        | .running, _, some a => (runs s).takeTrap ((Cause.ecc a).toRec 0 0) s.core.pc
        | _, _, _ => s

/-! ## Creation (R332, R333) -/

/-- Every task of a timeline's frontier group has become non-speculative. -/
def State.keepGroup (s : State) (tl : BitVec 4) : State :=
  ((s.unit.tasks.filter fun t => t.timeline == tl && !t.nonspec && s.inFrontier t).map (·.num)).foldl State.becomeNonspec s

/-- Adds a task under the next task number, on the die that binds it or on `home`. A key below the frontier becomes the frontier; the tasks that
the frontier group holds stay non-speculative (R336). -/
def State.addTask (s : State) (t : Task) (home : Nat) : State × BitVec 64 :=
  let s := s.keepGroup t.timeline
  let n := s.unit.nextNum
  let t := { t with num := n, die := (s.bindingDie t).getD home, state := .ready, core := 0, aborts := 0, trap := 0,
                    nonspec := false, readsFrom := [], shut := false }
  let s := { s with unit := { s.unit with tasks := s.unit.tasks ++ [t], nextNum := n + 1 } }
  let f := s.frontierOf t.timeline
  let s := if keyLt t.ts t.wid f.1 f.2 then s.refreshFrontier t.timeline else s
  (s, n)

/-- The group count of a launch rises by the tasks created for it (R323). -/
def State.raiseGroup (s : State) (launch : Nat) (k : Nat) : State :=
  { s with unit := { s.unit with launches := s.unit.launches.map fun l => if l.id = launch then { l with group := l.group + k } else l } }

/-! ## Ended tasks (R348, R352) -/

/-- A trap is taken where the running task awaited its drain or commit: it runs again (R352). -/
def State.unmarkEnded (s : State) : State :=
  match s.runTask with
  | some t => if t.state = .ended then s.mapTasks fun u => if u.num == t.num then { u with state := .running } else u else s
  | none => s

/-- The running task has ended and awaits its drain or commit: state 4 of TSTAT (R348, R352). -/
def State.markEnded (s : State) : State :=
  match s.runTask with
  | some t => s.mapTasks fun u => if u.num == t.num then { u with state := .ended } else u
  | none => s

/-! ## Ending (R321, R348, R349) -/

/-- The running task commits: it leaves the uncommitted set, its children lose their parent link, the group count falls and the frontier
moves (R349). -/
def State.commitTask (s : State) (t : Task) : State :=
  let s := { s with unit := { s.unit with tasks := s.unit.tasks.filter (·.num != t.num) } }
  let s := s.mapTasks fun u => if u.parent == t.num then { u with parent := 0, dep := false } else u
  (s.lowerGroup t.launch).refreshFrontier t.timeline

/-- The strand stops running a task; its core is free, or halted (R114, R321). TEND in a handler clears uact and sact (R352). -/
def State.leaveTask (s : State) (phase : Phase) : State :=
  { s with recent := []
           core := { s.core with phase := phase, region := none, wait := .none, monitor := none, pending := [], depth := 0, kept := [],
                                 sys := { s.core.sys with status := s.core.sys.status &&& 0x173#9 } } }

/-- The core that runs the task is halted for the rest of the task's launch (R114, R321). -/
def State.haltedOn (s : State) (t : Task) : State :=
  { s with unit := { s.unit with halted := s.unit.halted ++ [(t.die, t.core, t.launch)] } }

/-- TEND and HALT at their retirement. -/
def State.endTask (s : State) (phase : Phase) : State :=
  let s := match s.runTask with
    | some t => s.commitTask t
    | none => s
  s.leaveTask phase

/-- A non-speculative task's TYIELD: the task returns to ready with its descriptor and its full budget (R352). -/
def State.yieldTask (s : State) : State :=
  let n := s.runTask.map (·.num)
  let s := s.mapTasks fun u => if some u.num = n then { (s.queued u) with state := .ready, core := 0, shut := false } else u
  s.leaveTask .idle

end Sys2Proof.Machine
end

