-- ==== Sys2Proof/Machine/QuayOps.lean ====
section
/-!
DEFINITION. The quay's absent state (R244, R271), the one part of it that the strand's own words reach.
-/

namespace Sys2Proof.Machine

def State.setQuay (s : State) (f : Quay → Quay) : State := { s with quay := f s.quay }
def State.send (s : State) (f : Frame) : State := { s with outbox := s.outbox ++ [f] }
def State.sendAll (s : State) (fs : List Frame) : State := { s with outbox := s.outbox ++ fs }

/-- quiet: the quay is absent and nothing is in flight towards it (R244, R270). -/
def State.refreshQuiet (s : State) : State :=
  s.setSys fun r => r.setStatus 8 (s.quay.absent && s.quay.inFlight.isEmpty)

/-- The quay enters its absent state at the delivery of PREEMPT: ABSENT goes to the producer of every notice in the inbox (R244). -/
def State.quayAway (s : State) : State :=
  let told := s.quay.inbox.map fun i => i.notice.src
  let s := s.setQuay fun q => { q with absent := true, owner := s.ctx, owePresent := (q.owePresent ++ told).eraseDups }
  (s.sendAll (s.quay.inbox.map fun i => .absent i.notice.src (.notice i.notice.moor.toNat i.notice.gen i.notice.cidx.toNat))).refreshQuiet

/-- The return: PRESENT goes to those producers, and to every consumer whose acknowledgement or decline was answered ABSENT (R244). The Counts of
collectives that ended meanwhile take effect now, on the scratchpad as it comes back (R418; log entry 71). -/
def State.quayBack (s : State) : State :=
  if !s.quay.absent then s
  else
    let dsts := s.quay.owePresent
    let s := s.coll.owed.foldl (fun s c => s.countAt c.1 c.2) s
    let s := { s with coll := { s.coll with owed := [] } }
    let s := s.setQuay fun q => { q with absent := false, owePresent := [] }
    (s.sendAll (dsts.map fun d => .present d s.self)).refreshQuiet

/-- A Count of this core's barrier object for a context: at once, or at the return where the context is away from the core (R414, R418). -/
def State.countFor (s : State) (ctx : BitVec 4) (a bytes : Nat) : State :=
  if s.quay.absent && s.quay.owner == ctx then { s with coll := { s.coll with owed := s.coll.owed ++ [(a, bytes)] } }
  else s.countAt a bytes

/-! ## Addresses, compartments -/

/-- The device and die of a quay address (R226). -/
def devOf (a : QuayAddr) : Nat := (a.extractLsb' 0 12).toNat
def dieOf (a : QuayAddr) : Nat := (a.extractLsb' 12 2).toNat

/-- The context whose quay this is: the running one, or the one that holds the quay while it is absent. -/
def State.quayCtx (s : State) : BitVec 4 := if s.quay.absent then s.quay.owner else s.ctx

/-- The compartment of a context (R419). -/
def State.cmpOf (s : State) (ctx : BitVec 4) : BitVec 16 := (s.context ctx).cmp

/-- A remaining device refuses every frame from a device that its compartment has revoked (R421). -/
def State.revokedDev (s : State) (cmp : BitVec 16) (src : QuayAddr) : Bool :=
  s.pkg.epochs.any fun e => e.cmp == cmp && e.revoked.contains (src.extractLsb' 0 12)

/-- Identity of a notice (R231). -/
def sameNotice (a b : Notice) : Bool := a.src == b.src && a.moor == b.moor && a.gen == b.gen && a.cidx == b.cidx

/-- Bytes of a notice's block. -/
def noticeBytes (n : Notice) : Nat := 16 * (n.size.toNat + 1)

/-- The segments of a block (R234). -/
def segCount (bytes : Nat) : Nat := (bytes + 4095) / 4096
/-- Bytes of segment k. -/
def segBytes (bytes k : Nat) : Nat := min bytes (4096 * (k + 1)) - 4096 * k

/-- The ERET of the PREEMPT handler ends the pre-emption: the quay is no longer absent, and a core whose task was aborted for it (SPECABORT)
runs nothing, and is free for the next dispatch (R244, R271, R347). -/
def State.preemptReturn (s : State) (specabort : Bool) : State :=
  let s := s.quayBack
  if specabort then { s with core := { s.core with phase := .idle, region := none, wait := .none, monitor := none } } else s

/-- PREEMPT is delivered to the supervisor (R28, R29, R271, R347): preq clears, the quay becomes absent and the budget stands still. -/
def State.preempt (s : State) (op : BitVec 7) (dirty specabort : Bool) (resume : Word) : State :=
  let s := s.setSys fun r => r.setStatus 5 false
  let s := { s with core := { s.core with drainFrom := none, budgetStopped := true, phase := .running } }
  (s.takeTrap ((Cause.preempt dirty specabort).toRec op 0) resume).quayAway

/-- Every earlier NOTE has been delivered to each named consumer's quay, or answered ABSENT or NO-ROUTE, though its entry has been released since
(R110, .fabric). -/
def State.notesDelivered (s : State) : Bool := s.quay.untold.isEmpty

/-- A notice is that of an entry's generation to a consumer. -/
def isNoticeOf (n : Notice) (m : Nat) (gen : BitVec 8) (i : Nat) : Bool := n.moor.toNat == m && n.gen == gen && n.cidx.toNat == i

/-- A notice of an entry's generation to a consumer has been delivered, or answered ABSENT or NO-ROUTE. -/
def State.told (s : State) (m : Nat) (gen : BitVec 8) (i : Nat) : State :=
  s.setQuay fun q => { q with untold := q.untold.filter fun u => !isNoticeOf u.2 m gen i }

end Sys2Proof.Machine
end

