-- ==== Sys2Proof/Machine/Splitter.lean ====
section
/-!
DEFINITION. The splitter's work on an engine word: checks, stalls, marking and enqueueing (R13, R14, R17, R21, R22, R54, R265, R430).
-/

namespace Sys2Proof.Machine

/-- R22: a pending word of another queue writes a register that the new word writes, or has still to read it. -/
def State.hazard (s : State) (e : Eng) (d : RegSet) : Bool :=
  !(d.inter ((s.writesIn (otherQueues e)).union (s.readsIn (otherQueues e)))).isNone

/-- The entry an engine word makes, with what it captures at enqueue (R17). -/
def State.mkEntry (s : State) (i : Instr) (form : BitVec 2) (op : BitVec 7) (v : Vector Word 5) : Entry :=
  { instr := i, form := form, op := op, x0 := v[0], x1 := v[1], x2 := v[2], x3 := v[3], x4 := v[4], loops := s.core.l, no := s.enqNo,
    depth := s.core.depth }

/-- The values of the registers that a word names (R17, R57). -/
def State.snap (s : State) (r : XRegs) : Vector Word 5 := #v[s.x r.x0, s.x r.x1, s.x r.x2, s.x r.x3, s.x r.x4]

/-- A handler is active: engine words go into the handler entries (R265). -/
def State.inHandler (s : State) : Bool := s.core.sys.uact || s.core.sys.sact

/-- The queue has room for the word (R14, R265). -/
def State.hasRoom (s : State) (e : Eng) : Bool :=
  if s.inHandler then (s.q.get e).hentry.isNone else decide ((s.q.get e).entries.length < e.capacity)

/-- Puts an entry at the tail of its queue, or into the handler entry, and marks its destinations EMPTY (R13, R21, R265). -/
def State.enqueue (s : State) (e : Eng) (en : Entry) : State :=
  let q := s.q.get e
  let q := if s.inHandler then { q with hentry := some en } else { q with entries := q.entries ++ [en] }
  let s := s.setQ e q
  ({ s with enqNo := s.enqNo + 1 }).markEmpty (dests s.core.sys.resp en.instr)

/-- The wait of a word of queue `e` that writes these registers (R22). -/
def Wait.onRegs (e : Eng) (d : RegSet) : Wait := .regs e d.v d.p d.a

/-- An engine word past the decoder: PRIV, then the task's engine permission mask, then the stalls of R22 and R14; else it is
enqueued (R54, R430). The strand's program counter moves past its words; no delay region counts it (R87). -/
def issue (e : Eng) (en : Entry) (words : Nat) (s : State) : Out :=
  let trap (c : Cause) : Out := .next ((s.trapOrPark (c.toRec en.op en.form) s.core.pc).tick words)
  if supervisorOnly en.instr && !s.core.sys.sup then trap (.priv 0)
  else if s.runTask.any fun t => !t.mask.getLsbD e.bit then trap (.perm 3 s.core.pc.toNat)
  else if s.hazard e (dests s.core.sys.resp en.instr) then .next (s.waitAs (.onRegs e (dests s.core.sys.resp en.instr)))
  else if !s.hasRoom e then .next (s.waitAs .room)
  else
    let s := s.enqueue e en
    .next ({ s with core := { s.core with pc := s.core.pc + BitVec.ofNat 64 (4 * words), wait := .none } }.tick words)

/-- A single engine word (R13, R38, R39). -/
def issueWord (e : Eng) (i : Instr) (s : State) : Out :=
  let op := match encodeWord i with | some w => fOp w | none => 0
  issue e (s.mkEntry i 0 op (s.snap (scalarRegs i))) 1 s

/-- An X form: its base command with the five registers it names (R40). -/
def issueX (base : Instr) (x : XRegs) (s : State) : Out :=
  match encodeWord base, xUse base with
  | some w, some _ => issue (engOfCode (fEng w)) (s.mkEntry base 1 (fOp w) (s.snap x)) 2 s
  | _, _ => .refused .illFormed

/-- A long form of an engine: its base command with X4 replaced by the immediate (R41). -/
def issueLong (e : Eng) (i : Instr) (sub : BitVec 7) (imm : BitVec 32) (s : State) : Out :=
  issue e (s.mkEntry i 2 sub #v[0, 0, 0, 0, imm.setWidth 64]) 2 s

/-- X_FORM: the base command with the second word's five registers (R40). -/
def execXForm (base : Instr) (x : XRegs) (s : State) : Out := issueX base x s

/-- A control word that must not lie in a delay region raises ILL, cause DELAY (R88). -/
def outsideRegion (op : BitVec 7) (s : State) (f : State → State) : State :=
  if s.core.region.isSome then s.raise op .delay else f s

end Sys2Proof.Machine
end

