-- ==== Sys2Proof/Machine/Control.lean ====
section
/-!
DEFINITION. The control words of spec 04 and the CTL long forms of R41.
-/

namespace Sys2Proof.Machine

/-! ## Integer arithmetic and logic (R80) -/

/-- Writes a register and retires. -/
def State.retireX (s : State) (d : BitVec 5) (v : Word) : State := (s.setX d v).retire

def execAdd (d a b : BitVec 5) (s : State) : Out := .next (s.retireX d (s.x a + s.x b))
def execSub (d a b : BitVec 5) (s : State) : Out := .next (s.retireX d (s.x a - s.x b))
def execAnd (d a b : BitVec 5) (s : State) : Out := .next (s.retireX d (s.x a &&& s.x b))
def execOr (d a b : BitVec 5) (s : State) : Out := .next (s.retireX d (s.x a ||| s.x b))
def execXor (d a b : BitVec 5) (s : State) : Out := .next (s.retireX d (s.x a ^^^ s.x b))
def execSll (d a b : BitVec 5) (s : State) : Out := .next (s.retireX d (s.x a <<< ((s.x b).toNat % 64)))
def execSrl (d a b : BitVec 5) (s : State) : Out := .next (s.retireX d (s.x a >>> ((s.x b).toNat % 64)))
def execSra (d a b : BitVec 5) (s : State) : Out := .next (s.retireX d ((s.x a).sshiftRight ((s.x b).toNat % 64)))
def execMul (d a b : BitVec 5) (s : State) : Out := .next (s.retireX d (s.x a * s.x b))
def execMulhS (d a b : BitVec 5) (s : State) : Out :=
  .next (s.retireX d (BitVec.ofInt 64 ((s.x a).toInt * (s.x b).toInt / 2 ^ 64)))
def execMulhN (d a b : BitVec 5) (s : State) : Out :=
  .next (s.retireX d (BitVec.ofNat 64 ((s.x a).toNat * (s.x b).toNat / 2 ^ 64)))

/-- DIV.s: truncation toward zero; division by 0 gives all ones, and −2^63 / −1 wraps to itself. -/
def divS (a b : Word) : Word := if b = 0 then BitVec.allOnes 64 else BitVec.ofInt 64 (a.toInt.tdiv b.toInt)
def divN (a b : Word) : Word := if b = 0 then BitVec.allOnes 64 else BitVec.ofNat 64 (a.toNat / b.toNat)
/-- REM.s: the sign follows the dividend. -/
def remS (a b : Word) : Word := if b = 0 then a else BitVec.ofInt 64 (a.toInt.tmod b.toInt)
def remN (a b : Word) : Word := if b = 0 then a else BitVec.ofNat 64 (a.toNat % b.toNat)

def execDivS (d a b : BitVec 5) (s : State) : Out := .next (s.retireX d (divS (s.x a) (s.x b)))
def execDivN (d a b : BitVec 5) (s : State) : Out := .next (s.retireX d (divN (s.x a) (s.x b)))
def execRemS (d a b : BitVec 5) (s : State) : Out := .next (s.retireX d (remS (s.x a) (s.x b)))
def execRemN (d a b : BitVec 5) (s : State) : Out := .next (s.retireX d (remN (s.x a) (s.x b)))
def execMinS (d a b : BitVec 5) (s : State) : Out :=
  .next (s.retireX d (if (s.x a).toInt ≤ (s.x b).toInt then s.x a else s.x b))
def execMinN (d a b : BitVec 5) (s : State) : Out :=
  .next (s.retireX d (if (s.x a).toNat ≤ (s.x b).toNat then s.x a else s.x b))
def execMaxS (d a b : BitVec 5) (s : State) : Out :=
  .next (s.retireX d (if (s.x b).toInt ≤ (s.x a).toInt then s.x a else s.x b))
def execMaxN (d a b : BitVec 5) (s : State) : Out :=
  .next (s.retireX d (if (s.x b).toNat ≤ (s.x a).toNat then s.x a else s.x b))

/-- Bits of a number from the top, `n` of them: how many are 0 before the first 1. -/
def leadingZeros : Nat → Nat → Nat
  | 0, _ => 0
  | n + 1, v => if v.testBit n then 0 else 1 + leadingZeros n v

/-- How many of the low `n` bits are 1. -/
def onesIn : Nat → Nat → Nat
  | 0, _ => 0
  | n + 1, v => (v.testBit n).toNat + onesIn n v

def execClz (d a : BitVec 5) (s : State) : Out := .next (s.retireX d (BitVec.ofNat 64 (leadingZeros 64 (s.x a).toNat)))
def execPopc (d a : BitVec 5) (s : State) : Out := .next (s.retireX d (BitVec.ofNat 64 (onesIn 64 (s.x a).toNat)))
def execSel (d a b : BitVec 5) (c : BitVec 3) (s : State) : Out := .next (s.retireX d (if s.c c then s.x a else s.x b))

/-! ## Immediates (R41, R81, R82) -/

def execAddi (d a : BitVec 5) (imm : BitVec 12) (s : State) : Out := .next (s.retireX d (s.x a + imm.signExtend 64))
def execAndi (d a : BitVec 5) (imm : BitVec 12) (s : State) : Out := .next (s.retireX d (s.x a &&& imm.signExtend 64))
def execOri (d a : BitVec 5) (imm : BitVec 12) (s : State) : Out := .next (s.retireX d (s.x a ||| imm.signExtend 64))
def execXori (d a : BitVec 5) (imm : BitVec 12) (s : State) : Out := .next (s.retireX d (s.x a ^^^ imm.signExtend 64))
def execSlli (d a : BitVec 5) (k : BitVec 6) (s : State) : Out := .next (s.retireX d (s.x a <<< k.toNat))
def execSrli (d a : BitVec 5) (k : BitVec 6) (s : State) : Out := .next (s.retireX d (s.x a >>> k.toNat))
def execSrai (d a : BitVec 5) (k : BitVec 6) (s : State) : Out := .next (s.retireX d ((s.x a).sshiftRight k.toNat))
def execLimm (d : BitVec 5) (imm : BitVec 17) (s : State) : Out := .next (s.retireX d (imm.signExtend 64))
def execLimmSh (d : BitVec 5) (imm : BitVec 17) (s : State) : Out :=
  .next (s.retireX d (s.x d <<< 17 ||| imm.setWidth 64))

/-- A CTL long form writes its register and retires: two words, two cycles (R41, R115). -/
def State.retireLong (s : State) (d : BitVec 5) (v : Word) : State := ((s.setX d v).nextPc 2).tick 2

def execLimmL (d : BitVec 5) (imm : BitVec 32) (s : State) : Out := .next (s.retireLong d (imm.signExtend 64))
def execLimmLh (d : BitVec 5) (imm : BitVec 32) (s : State) : Out :=
  .next (s.retireLong d (imm ++ (s.x d).extractLsb' 0 32 : BitVec 64))
def execAddiL (d a : BitVec 5) (imm : BitVec 32) (s : State) : Out := .next (s.retireLong d (s.x a + imm.signExtend 64))
def execAndiL (d a : BitVec 5) (imm : BitVec 32) (s : State) : Out := .next (s.retireLong d (s.x a &&& imm.signExtend 64))
def execOriL (d a : BitVec 5) (imm : BitVec 32) (s : State) : Out := .next (s.retireLong d (s.x a ||| imm.signExtend 64))
def execXoriL (d a : BitVec 5) (imm : BitVec 32) (s : State) : Out := .next (s.retireLong d (s.x a ^^^ imm.signExtend 64))

/-! ## Compares and votes (R84, R85) -/

def execCmp (c : BitVec 3) (cc : BitVec 4) (a b : BitVec 5) (s : State) : Out :=
  .next (s.setC c (scalarCond cc (s.x a) (s.x b))).retire
def execCmpi (c : BitVec 3) (cc : BitVec 4) (a : BitVec 5) (imm : BitVec 10) (s : State) : Out :=
  .next (s.setC c (scalarCond cc (s.x a) (imm.signExtend 64))).retire

/-- VANY and VALL wait while the predicate is EMPTY (R23). -/
def vote (c p : BitVec 3) (f : BitVec 256 → Bool) (s : State) : State :=
  if s.emptyForStrand.p.getLsbD p.toNat then s.waitAs (.pred p)
  else (s.handOn.setC c (f (s.core.p[p.toNat]'(by omega)))).retire

def execVany (c p : BitVec 3) (s : State) : Out := .next (vote c p (fun v => v != 0) s)
def execVall (c p : BitVec 3) (s : State) : Out := .next (vote c p (fun v => v == BitVec.allOnes 256) s)

/-! ## Transfers (R86 to R92) -/

def execBtgt (b : BitVec 2) (off : BitVec 20) (s : State) : Out :=
  .next (s.setB b (s.core.pc + (off.signExtend 64) <<< 2)).retire
def execBtgtX (b : BitVec 2) (a : BitVec 5) (imm : BitVec 12) (s : State) : Out :=
  .next (s.setB b (s.x a + (imm.signExtend 64) <<< 2)).retire

/-- A transfer opens its delay region (R87): a taken one with its target, a not-taken one without. A taken transfer to a misaligned target
raises ALIGN with nothing of the region executed (R91). -/
def transfer (op : BitVec 7) (taken : Bool) (target : Word) (link : State → State) (s : State) : State :=
  outsideRegion op s fun s =>
    if taken && target.extractLsb' 0 2 != 0 then s.raise op (.align target)
    else
      let s := link s
      { s with core := { s.core with pc := s.core.pc + 4, region := some ⟨2, if taken then some target else none⟩ } }.tick 1

def execBrc (b : BitVec 2) (c : BitVec 3) (s : State) : Out := .next (transfer 0x26 (s.c c) (s.b b) id s)
def execBrcF (b : BitVec 2) (c : BitVec 3) (s : State) : Out := .next (transfer 0x26 (!s.c c) (s.b b) id s)
def execBr (b : BitVec 2) (s : State) : Out := .next (transfer 0x27 true (s.b b) id s)

/-- The word at a virtual address as the control core fetches it (R12, R55); none where the fetch would trap. -/
def State.peekWord (s : State) (pc : Nat) : Option IWord :=
  match s.translate s.ctx permCtlRead pc with
  | .ok pa => some (BitVec.ofNat 32 (leNat (s.mem.getN pa 4)))
  | _ => none

/-- The walk to the address after the `left`-th control word from `pc` on (R87, R90): engine words and pairs lie between. It ends with that
address and 0; or at a word that cannot be fetched, or after the fuel, which exceeds the loader's 65,536 words (R77), with the count still open. -/
def regionWalk (s : State) : Nat → Nat → Nat → Nat × Nat
  | 0, left, pc => (pc, left)
  | fuel + 1, left, pc =>
    match s.peekWord pc with
    | none => (pc, left)
    | some w =>
      let wide := fEng w = 7
      let next := if wide then pc + 8 else pc + 4
      let control := fEng w = 0 ∨ (wide ∧ fTgt w = 0)
      if control then (if left ≤ 1 then (next, 0) else regionWalk s fuel (left - 1) next) else regionWalk s fuel left next

/-- Fuel for a region's walk. -/
def regionFuel : Nat := 131072

/-- Where the walk of a BRL's region comes to. -/
def linkWalk (s : State) : Nat × Nat := regionWalk s regionFuel 2 (s.core.pc.toNat + 4)

/-- The link of a BRL (R90). -/
def linkOf (s : State) : Word := BitVec.ofNat 64 (linkWalk s).1

/-- The link is written; where the region cannot be fetched to its end, it is found when the fetch comes to the place (log entry 63). -/
def State.putLink (s : State) (l : BitVec 2) (walk : Nat × Nat) : State :=
  let s := s.setB l (BitVec.ofNat 64 walk.1)
  if walk.2 = 0 then s else { s with core := { s.core with linkDue := ⟨l, walk.1, walk.2⟩ :: s.core.linkDue } }

/-- The strand has fetched the word at its program counter: links that were open there are walked on. -/
def State.findLinks (s : State) : State :=
  if s.core.linkDue = [] then s
  else (s.core.linkDue.filter fun d => d.at_ == s.core.pc.toNat).foldl (fun s d => s.putLink d.reg (regionWalk s regionFuel d.left d.at_)) s

def execBrl (b l : BitVec 2) (s : State) : Out :=
  .next (transfer 0x28 true (s.b b) (fun s => s.putLink l (linkWalk s)) s)

/-! ## Scalar loads and stores (R94 to R97) -/

/-- ea := (X[A] + Sext64(I12)) mod 2^64. -/
def State.ea (s : State) (a : BitVec 5) (imm : BitVec 12) : Word := s.x a + imm.signExtend 64

/-- A load of `n` bytes; `ext` widens them. A load that meets a non-resident page writes 0 and c7 := 0 (R96). -/
def load (op : BitVec 7) (n : Nat) (ext : Nat → Word) (d a : BitVec 5) (imm : BitVec 12) (s : State) : State :=
  match scalarLoad s false (s.ea a imm) n with
  | .trap c => s.raise op c
  | .wait => s.stallSpec
  | .absent => ((s.setX d 0).setC 7 false).retire
  | .ok (bs, s') => ((s'.setX d (ext (leNat bs))).setC 7 true).retire

/-- Sign-extends the low `w` bits. -/
def sextN (w : Nat) (v : Nat) : Word := (BitVec.ofNat w v).signExtend 64

def execLdBS (d a : BitVec 5) (imm : BitVec 12) (s : State) : Out := .next (load 0x30 1 (sextN 8) d a imm s)
def execLdBN (d a : BitVec 5) (imm : BitVec 12) (s : State) : Out := .next (load 0x31 1 (BitVec.ofNat 64) d a imm s)
def execLdHS (d a : BitVec 5) (imm : BitVec 12) (s : State) : Out := .next (load 0x32 2 (sextN 16) d a imm s)
def execLdHN (d a : BitVec 5) (imm : BitVec 12) (s : State) : Out := .next (load 0x33 2 (BitVec.ofNat 64) d a imm s)
def execLdWS (d a : BitVec 5) (imm : BitVec 12) (s : State) : Out := .next (load 0x34 4 (sextN 32) d a imm s)
def execLdWN (d a : BitVec 5) (imm : BitVec 12) (s : State) : Out := .next (load 0x35 4 (BitVec.ofNat 64) d a imm s)
def execLdD (d a : BitVec 5) (imm : BitVec 12) (s : State) : Out := .next (load 0x36 8 (BitVec.ofNat 64) d a imm s)

/-- A store of the low `n` bytes of a register. -/
def store (op : BitVec 7) (n : Nat) (d a : BitVec 5) (imm : BitVec 12) (s : State) : State :=
  match scalarStore s (s.ea a imm) (leBytes n (s.x d).toNat) with
  | .trap c => s.raise op c
  | .wait => s.stallSpec
  | .absent => s.stallShut
  | .ok s' => s'.retire

def execStB (d a : BitVec 5) (imm : BitVec 12) (s : State) : Out := .next (store 0x38 1 d a imm s)
def execStH (d a : BitVec 5) (imm : BitVec 12) (s : State) : Out := .next (store 0x39 2 d a imm s)
def execStW (d a : BitVec 5) (imm : BitVec 12) (s : State) : Out := .next (store 0x3A 4 d a imm s)
def execStD (d a : BitVec 5) (imm : BitVec 12) (s : State) : Out := .next (store 0x3B 8 d a imm s)

/-! ## Descriptors and loop registers (R98, R99, R150, R152) -/

/-- What DLD and the loader's FORMAT check refuse in a tensor descriptor (R150). That affine = 1 is refused with a PB format too is the model's
choice: log entry 68. -/
def tensorDescBad (d : BitVec 256) : Bool :=
  let fmt := (d.extractLsb' 50 6).toNat
  let space := (d.extractLsb' 48 2).toNat
  let swz := (d.extractLsb' 59 3).toNat
  let affine := d.getLsbD 58
  let block := decide (8 ≤ fmt)
  let wrapBad (k : Nat) : Bool := decide (16 < (d.extractLsb' (194 + 5 * k) 5).toNat)
  d.extractLsb' 62 2 != 0 || d.extractLsb' 214 2 != 0 || decide (48 ≤ fmt) || (upTo 4).any wrapBad || swz == 7 ||
    (swz != 0 && decide (2 ≤ space)) || space == 3 ||
    ((block || affine) && ((d.extractLsb' 64 16).toNat + 1) % 32 != 0) ||
    (affine && (fmt == 6 || fmt == 7 || fmt == 8 || fmt == 9 || (decide (10 ≤ fmt) && decide (fmt ≤ 31)))) ||
    ((d.getLsbD 56 || d.getLsbD 57) && decide (fmt < 10))

/-- What NLD refuses in a loop-nest descriptor (R152). -/
def nestDescBad (n : BitVec 1024) : Bool :=
  let levels := (n.extractLsb' 0 3).toNat
  let levelBad (l : Nat) : Bool :=
    let b := nestBound n l
    let steps := (upTo 3).map (nestStep n l)
    if levels ≤ l then b != 0 || steps.any (· != 0)
    else
      (if b.getLsbD 31 then b.extractLsb' 4 27 != 0
       else b.extractLsb' 17 14 != 0 || b.extractLsb' 0 17 == 0 || decide (65536 < (b.extractLsb' 0 17).toNat)) ||
      steps.any fun w => w.getLsbD 30 || w.extractLsb' 16 12 != 0
  levels == 7 || n.extractLsb' 3 29 != 0 || n.extractLsb' 128 128 != 0 || (upTo 6).any levelBad

/-- Some command that has not started names the descriptor (R18). -/
def State.descPending (s : State) (dn : BitVec 6) : Bool :=
  Eng.all.any fun e =>
    let q := s.q.get e
    (q.entries ++ q.hentry.toList).any fun en => (descs en.x4 en.instr).contains dn

def State.nestPending (s : State) (n : BitVec 3) : Bool :=
  Eng.all.any fun e =>
    let q := s.q.get e
    (q.entries ++ q.hentry.toList).any fun en => nest en.instr == some n

/-- Some KVMAP that names the descriptor has not completed (R98). -/
def State.kvmapPending (s : State) (dn : BitVec 6) : Bool :=
  let q := s.q.kvc
  (q.entries ++ q.hentry.toList ++ (q.run.map (·.entry)).toList ++ (q.hrun.map (·.entry)).toList).any fun en =>
    kvmapDest en.instr == some dn

/-- DLD and NLD: the alignment, the load, the waits of R18, and the check of the image. -/
def loadDesc (op : BitVec 7) (n : Nat) (waits : Bool) (a : BitVec 5) (bad : Nat → Bool) (put : State → Nat → State) (s : State) : State :=
  let ea := s.x a
  if ea.extractLsb' 0 4 != 0 then s.raise op (.align ea)
  else match scalarLoad s true ea n with
    | .trap c => s.raise op c
    | .wait => s.stallSpec
    | .absent => s.stallShut
    | .ok (bs, s') =>
      if bad (leNat bs) then s.raise op .desc
      else if waits then s.stallShut
      else (put s' (leNat bs)).retire

def State.setD (s : State) (dn : BitVec 6) (v : BitVec 256) : State :=
  { s with core := { s.core with d := s.core.d.set dn.toNat v (by omega) } }
def State.setN (s : State) (n : BitVec 3) (v : BitVec 1024) : State :=
  { s with core := { s.core with n := s.core.n.set n.toNat v (by omega) } }

def execDld (dn : BitVec 6) (a : BitVec 5) (s : State) : Out :=
  .next (loadDesc 0x50 32 (s.descPending dn || s.kvmapPending dn) a (fun v => tensorDescBad (BitVec.ofNat 256 v))
    (fun s v => s.setD dn (BitVec.ofNat 256 v)) s)
def execNld (n : BitVec 3) (a : BitVec 5) (s : State) : Out :=
  .next (loadDesc 0x51 128 (s.nestPending n) a (fun v => nestDescBad (BitVec.ofNat 1024 v))
    (fun s v => s.setN n (BitVec.ofNat 1024 v)) s)

/-- A loop register's write: above 2^32 − 1 or above the declared maximum it raises ILL, cause LOOPMAX (R99). A maximum of 0 is
undeclared (R31). -/
def setLoop (op : BitVec 7) (l : BitVec 4) (v : Nat) (s : State) : State :=
  let m := (s.core.lmax[l.toNat]'(by omega)).toNat
  if 2 ^ 32 ≤ v ∨ (m ≠ 0 ∧ m < v) then s.raise op .loopmax
  else ({ s with core := { s.core with l := s.core.l.set l.toNat (BitVec.ofNat 32 v) (by omega) } }).retire

def execLset (l : BitVec 4) (a : BitVec 5) (s : State) : Out := .next (setLoop 0x52 l (s.x a).toNat s)
def execLseti (l : BitVec 4) (imm : BitVec 17) (s : State) : Out := .next (setLoop 0x53 l imm.toNat s)

/-! ## Work identifier (R100) -/

/-- The field widths of the running task's launch. -/
def State.widths (s : State) : Vector (BitVec 8) 6 :=
  match s.runTask.bind fun t => s.unit.launches.find? (·.id == t.launch) with
  | some l => l.widths
  | none => Vector.replicate 6 0

/-- Field k of the work identifier. -/
def widField (w : Vector (BitVec 8) 6) (wid : BitVec 64) (k : Nat) : Word :=
  let off := ((w.toList.take k).map BitVec.toNat).foldl (· + ·) 0
  let wk := ((w.toList[k]?).getD 0).toNat
  BitVec.ofNat 64 (wid.toNat / 2 ^ off % 2 ^ wk)

def execWidf (d : BitVec 5) (k : BitVec 3) (s : State) : Out :=
  .next (s.retireX d (widField s.widths s.core.sys.wid k.toNat))

/-! ## System registers (R101, R102, R269) -/

/-- Privilege column of R269. -/
inductive SysPriv where
  | u      -- read and write in user mode
  | s      -- supervisor only
  | us     -- read in user mode, write in supervisor mode
  | ro     -- read-only in both modes
deriving DecidableEq, Repr

def sysPriv (sel : BitVec 12) : SysPriv :=
  let n := sel.toNat
  if n = 0 then .us else if n ≤ 8 then .s else if n ≤ 0x17 then .u
  else if n = 0x25 then .s else if n ≤ 0x26 then .ro else if n ≤ 0x34 then .u else if n = 0x40 then .s else .ro

/-- The bits of a system register that software can write 1 to: the Bits column of R269 (R101). -/
def sysBits (sel : BitVec 12) : BitVec 64 :=
  match sel.toNat with
  | 0x000 => 0x1FF
  | 0x005 | 0x015 => 3
  | 0x007 | 0x017 => 0xFFFFFFFF
  | 0x008 | 0x010 => 0x000FFFFFFFFFFFFC
  | 0x025 => 0xFFF
  | 0x030 | 0x034 => 0x3FFFF0
  | 0x033 => 7
  | 0x040 => 0x000FFFFFFFFFF000
  | _ => BitVec.allOnes 64

/-- Registers that engine commands read when they start (R102). -/
def engineRead (sel : BitVec 12) : Bool :=
  match sel.toNat with
  | 0x025 | 0x030 | 0x032 | 0x033 | 0x034 | 0x040 => true
  | _ => false

/-- The value of a system register. -/
def State.sysGet (s : State) (sel : BitVec 12) : Word :=
  let r := s.core.sys
  match sel.toNat with
  | 0x000 => r.status.setWidth 64
  | 0x001 => r.causelo | 0x002 => r.causehi | 0x003 => r.epc | 0x004 => r.dtgt
  | 0x005 => r.dleft.setWidth 64 | 0x006 => r.iterlo | 0x007 => r.iterhi.setWidth 64 | 0x008 => r.tvec
  | 0x010 => r.uvec | 0x011 => r.ucauselo | 0x012 => r.ucausehi | 0x013 => r.uepc | 0x014 => r.udtgt
  | 0x015 => r.udleft.setWidth 64 | 0x016 => r.uiterlo | 0x017 => r.uiterhi.setWidth 64
  | 0x020 => r.wid | 0x021 => r.ts | 0x022 => r.task
  | 0x023 => match s.timeline with | some t => (s.frontierOf t).1 | none => 0
  | 0x024 => r.budget.setWidth 64 | 0x025 => r.ctx.setWidth 64 | 0x026 => r.ntag.setWidth 64
  | 0x030 => r.bbase.setWidth 64 | 0x031 => r.bphase | 0x032 => r.seed | 0x033 => r.resp.setWidth 64
  | 0x034 => r.confrec.setWidth 64 | 0x040 => r.ptroot | 0x041 => s.now | 0x042 => r.self.setWidth 64
  | _ => 0

/-- sr.causelo as SRW leaves it: hent and the reserved bits are not SRW's to write (R260). -/
def causeWrite (old v : BitVec 64) : BitVec 64 :=
  let m : BitVec 64 := 0x7FCFFFFF
  (v &&& m) ||| (old &&& ~~~m)

/-- sr.status as SRW leaves it: pmode, uact, sact and raw are written, the other bits unchanged (R270). -/
def statusWrite (old : BitVec 9) (v : Word) : BitVec 9 :=
  let m : BitVec 9 := 0x01E
  (v.setWidth 9 &&& m) ||| (old &&& ~~~m)

def sysSet (r : SysRegs) (sel : BitVec 12) (v : Word) : SysRegs :=
  match sel.toNat with
  | 0x000 => { r with status := statusWrite r.status v }
  | 0x001 => { r with causelo := causeWrite r.causelo v }
  | 0x002 => { r with causehi := v } | 0x003 => { r with epc := v } | 0x004 => { r with dtgt := v }
  | 0x005 => { r with dleft := v.setWidth 2 } | 0x006 => { r with iterlo := v } | 0x007 => { r with iterhi := v.setWidth 32 }
  | 0x008 => { r with tvec := v } | 0x010 => { r with uvec := v }
  | 0x011 => { r with ucauselo := causeWrite r.ucauselo v }
  | 0x012 => { r with ucausehi := v } | 0x013 => { r with uepc := v } | 0x014 => { r with udtgt := v }
  | 0x015 => { r with udleft := v.setWidth 2 } | 0x016 => { r with uiterlo := v } | 0x017 => { r with uiterhi := v.setWidth 32 }
  | 0x025 => { r with ctx := v.setWidth 12 }
  | 0x030 => { r with bbase := v.setWidth 22 } | 0x031 => { r with bphase := v } | 0x032 => { r with seed := v }
  | 0x033 => { r with resp := v.setWidth 3 } | 0x034 => { r with confrec := v.setWidth 22 } | 0x040 => { r with ptroot := v }
  | _ => r

def execSrr (d : BitVec 5) (sel : BitVec 12) (s : State) : Out :=
  if sysPriv sel == .s && !s.core.sys.sup then .next (s.raise 0x41 (.priv sel.toNat))
  else .next (s.retireX d (s.sysGet sel))

/-- Every enqueued command has started (R102). -/
def State.allStarted (s : State) : Bool := Eng.all.all fun e => (s.q.get e).entries.isEmpty && (s.q.get e).hentry.isNone

/-- SRW. What an active handler has kept pending waits for its ERET though it clears sact or uact before (R264). -/
def execSrw (a : BitVec 5) (sel : BitVec 12) (s : State) : Out :=
  let p := sysPriv sel
  if (p == .s || p == .us) && !s.core.sys.sup then .next (s.raise 0x42 (.priv sel.toNat))
  else if p == .ro || (s.x a &&& ~~~sysBits sel) != 0 then .next (s.raise 0x42 .roreg)
  else if engineRead sel && !s.allStarted then .next s.stallShut
  else
    let t := s.setSys fun r => sysSet r sel (s.x a)
    let left := (s.core.sys.sact && !t.core.sys.sact) || (s.core.sys.uact && !t.core.sys.uact)
    .next (if left then t.keepPending t.core.depth else t).retire

/-! ## Tokens and barrier waits: the engines' words (R103, R104) -/

/-- A token or barrier-wait word (R24, R25, R104, R190, R209, R224, R245). -/
inductive TokenWord where
  | signal (t : BitVec 4)
  | wait (t : BitVec 4)
  | phase (slot : BitVec 4) (bit : Nat)
deriving DecidableEq, Repr

def tokenWord : Instr → Option TokenWord
  | .vsig t => some (.signal t)
  | .msig t => some (.signal t)
  | .lsig t => some (.signal t)
  | .ssig t => some (.signal t)
  | .psig t => some (.signal t)
  | .vwaitk t => some (.wait t)
  | .mwaitk t => some (.wait t)
  | .lwaitk t => some (.wait t)
  | .swaitk t => some (.wait t)
  | .pwaitk t => some (.wait t)
  | .lbwait b => some (.phase b (16 + b.toNat))
  | .sbwait b => some (.phase b (32 + b.toNat))
  | .pbwait b => some (.phase b (48 + b.toNat))
  | _ => none

/-! ## Queue control (R105 to R111) -/

/-- A QMARK half; both halves carry one number. -/
def State.markEntry (s : State) : Entry := s.mkEntry .qmark 0 0x46 #v[0, 0, 0, 0, 0]

/-- QMARK (R105). In a handler its halves enter LDQ and STQ as ordinary entries, by the model's choice: log entry 88. -/
def execQmark (s : State) : Out :=
  let room (e : Eng) : Bool := decide ((s.q.get e).entries.length < e.capacity)
  if !room .ldq || !room .stq then .next s.stall
  else
    let en := s.markEntry
    let q := { s.q with ldq := { s.q.ldq with entries := s.q.ldq.entries ++ [en] },
                        stq := { s.q.stq with entries := s.q.stq.entries ++ [en] } }
    .next ({ s with q := q, enqNo := s.enqNo + 1 }).retire

/-- The queues of a mask (R46). -/
def maskQueues (m : BitVec 6) : List Eng := Eng.all.filter fun e => m.getLsbD e.bit

/-- Removes the entries of some queues that have not started; the registers that only they wrote return to FULL (R108, R109). -/
def State.cancel (s : State) (es : List Eng) : State × Nat :=
  let removed := es.flatMap fun e => (s.q.get e).entries
  let regs := removed.foldl (fun r en => r.union (dests s.core.sys.resp en.instr)) .none
  let s' := es.foldl (fun s e => s.setQ e { s.q.get e with entries := [] }) s
  (s'.markFull regs, removed.length)

def execQcancel (d : BitVec 5) (mask : BitVec 6) (s : State) : Out :=
  let (s', n) := s.cancel (maskQueues mask)
  .next (s'.retireX d (BitVec.ofNat 64 n))

/-! ## Strand state (R28, R29, R112 to R114) -/

def execNop (s : State) : Out := .next s.retire

def execTrap (imm : BitVec 12) (s : State) : Out :=
  .next (outsideRegion 0x4B s fun s => (s.trapOrPark ((Cause.swtrap imm).toRec 0x4B 0) (s.core.pc + 4)).tick 1)

/-- PREEMPT is taken although the queues have not emptied: what has not started is discarded (R29). -/
def State.drainExpired (s : State) : State :=
  let (s', _) := s.cancel Eng.all
  s'.preempt 0x49 true false (s.core.pc + 4)

/-- A drain's limit (R29). -/
def drainLimit : Nat := 2 ^ 21

/-- SAFEPT (R28, R29, R271, R347). -/
def safept (s : State) : State :=
  outsideRegion 0x49 s fun s =>
    let r := s.core.sys
    if !r.preq || r.uact || r.sact then s.retire
    else if s.specNow then
      let s := match s.runTask with | some t => s.abort t.num | none => s
      (s.preempt 0x49 false true 0).tick 1
    else
      let from_ := s.core.drainFrom.getD s.now
      let s := { s with core := { s.core with drainFrom := some from_ } }
      if s.allDrained then (s.preempt 0x49 false false (s.core.pc + 4)).tick 1
      else if drainLimit ≤ (s.now - from_).toNat then s.drainExpired.tick 1
      else s.stall

def execSafept (s : State) : Out := .next (safept s)

/-- HALT at its retirement: the task commits, and the core halts for the rest of the task's launch (R114, R321). -/
def State.haltHere (s : State) : State :=
  (match s.runTask with | some t => s.haltedOn { t with die := s.selfDie, core := s.selfCore } | none => s).endTask .halted

/-- HALT (R114): it waits for the queues, and for a speculative task to become non-speculative; the task commits and the core halts. -/
def execHalt (s : State) : Out :=
  .next (outsideRegion 0x4D s fun s =>
    if s.specNow then s.markEnded.stallSpec
    else if !s.allDrained then s.markEnded.stallShut
    else s.haltHere.tick 1)

end Sys2Proof.Machine
end

