-- ==== Sys2Proof/Machine/Number.lean ====
section
/-!
DEFINITION. Number formats and exact arithmetic (R116 to R136, R176, R188, R189): values are exact rationals, rounded once.
-/

namespace Sys2Proof.Machine

/-- An exact value: a NaN, an infinity, or a rational with its sign kept apart, so that a zero has one. `den` is positive. -/
inductive FV where
  | nan
  | inf (s : Bool)
  | fin (s : Bool) (num den : Nat)
deriving DecidableEq, Repr

def FV.zero : FV := .fin false 0 1
def FV.ofInt (v : Int) : FV := .fin (decide (v < 0)) v.natAbs 1
/-- num · 2^e for an integer e. -/
def FV.scaled (s : Bool) (num : Nat) (e : Int) : FV :=
  if 0 ≤ e then .fin s (num * 2 ^ e.toNat) 1 else .fin s num (2 ^ (-e).toNat)

def FV.isNan : FV → Bool
  | .nan => true | _ => false
def FV.isZero : FV → Bool
  | .fin _ n _ => n == 0 | _ => false
def FV.isFin : FV → Bool
  | .fin _ _ _ => true | _ => false
def FV.neg : FV → FV
  | .nan => .nan | .inf s => .inf !s | .fin s n d => .fin (!s) n d
def FV.abs : FV → FV
  | .nan => .nan | .inf _ => .inf false | .fin _ n d => .fin false n d
/-- The sign bit of a value that is not a NaN. -/
def FV.sign : FV → Bool
  | .nan => false | .inf s => s | .fin s _ _ => s

/-- The signed numerator. -/
def sgn (s : Bool) (n : Nat) : Int := if s then -(n : Int) else n

/-- The exact sum. A zero sum of zeros of one sign keeps the sign; any other zero sum is +0, or −0 under RD (R117). -/
def FV.add (rd : Bool) : FV → FV → FV
  | .nan, _ => .nan
  | _, .nan => .nan
  | .inf s, .inf t => if s = t then .inf s else .nan
  | .inf s, .fin _ _ _ => .inf s
  | .fin _ _ _, .inf t => .inf t
  | .fin s n d, .fin t m e =>
    let v := sgn s (n * e) + sgn t (m * d)
    if v = 0 then .fin (if n = 0 ∧ m = 0 ∧ s = t then s else rd) 0 1 else .fin (decide (v < 0)) v.natAbs (d * e)

/-- The exact product; 0 · ∞ is invalid (R118). -/
def FV.mul : FV → FV → FV
  | .nan, _ => .nan
  | _, .nan => .nan
  | .inf s, .inf t => .inf (s != t)
  | .inf s, .fin t m _ => if m = 0 then .nan else .inf (s != t)
  | .fin s n _, .inf t => if n = 0 then .nan else .inf (s != t)
  | .fin s n d, .fin t m e => .fin (s != t) (n * m) (d * e)

/-- How two values that are not NaNs compare by value. -/
def FV.cmp : FV → FV → Option Ordering
  | .nan, _ => none
  | _, .nan => none
  | .inf s, .inf t => some (if s = t then .eq else if s then .lt else .gt)
  | .inf s, .fin _ _ _ => some (if s then .lt else .gt)
  | .fin _ _ _, .inf t => some (if t then .gt else .lt)
  | .fin s n d, .fin t m e => some (compare (sgn s (n * e)) (sgn t (m * d)))

/-! ## The formats' fields (R116) -/

/-- Bits of precision of .f32 and .bf16, the hidden one included. -/
def floatPrec : ElemType → Nat
  | .bf16 => 8
  | _ => 24

def maskBits (w v : Nat) : Nat := v % 2 ^ w

/-- The value of a float element. -/
def floatVal (ty : ElemType) (bits : Nat) : FV :=
  let p := floatPrec ty
  let s := bits / 2 ^ (p + 7) % 2 == 1
  let e := bits / 2 ^ (p - 1) % 256
  let f := bits % 2 ^ (p - 1)
  if e = 255 then (if f = 0 then .inf s else .nan)
  else if e = 0 then .scaled s f (-126 - ((p : Int) - 1))
  else .scaled s (f + 2 ^ (p - 1)) ((e : Int) - 127 - ((p : Int) - 1))

/-- An integer element as its type reads it. -/
def intVal (ty : ElemType) (bits : Nat) : Int :=
  if ty.isSigned && decide (2 ^ (ty.bits - 1) ≤ bits) then (bits : Int) - 2 ^ ty.bits else bits

/-- The value of any element. -/
def elemVal (ty : ElemType) (bits : Nat) : FV := if ty.isFloat then floatVal ty bits else .ofInt (intVal ty bits)

def isNanBits (ty : ElemType) (bits : Nat) : Bool := ty.isFloat && (floatVal ty bits).isNan

/-- Sets the quiet bit of a NaN (R118). -/
def quieted (ty : ElemType) (bits : Nat) : Nat := bits ||| 2 ^ (floatPrec ty - 2)

/-- The default NaN (R118). -/
def defaultNan (ty : ElemType) : Nat := 511 * 2 ^ (floatPrec ty - 2)

def signBit (ty : ElemType) : Nat := 2 ^ (ty.bits - 1)

/-- The bits of an infinity. -/
def infBits (ty : ElemType) (s : Bool) : Nat := 255 * 2 ^ (floatPrec ty - 1) + if s then signBit ty else 0

/-! ## Rounding (R120 to R123) -/

/-- Modes by code (R44). -/
def rmRNE : Nat := 0
def rmRZ : Nat := 1
def rmRD : Nat := 2
def rmRU : Nat := 3
def rmSR : Nat := 4

/-- Whether a magnitude m + rem/d, rem < d, rounds away from m: its sign, the mode and SR's 16 bits (R120). -/
def roundsUp (mode : Nat) (sr : Nat) (s : Bool) (m rem d : Nat) : Bool :=
  if rem = 0 then false
  else match mode with
    | 0 => decide (d < 2 * rem) || (2 * rem == d && m % 2 == 1)
    | 1 => false
    | 2 => s
    | 3 => !s
    | _ => decide (sr < 65536 * rem / d)

/-- floor(log2 (n / d)) of a positive rational. -/
def log2Floor (n d : Nat) : Int :=
  let k : Int := (Nat.log2 n : Int) - (Nat.log2 d : Int)
  let ge : Bool := if 0 ≤ k then decide (d * 2 ^ k.toNat ≤ n) else decide (d ≤ n * 2 ^ (-k).toNat)
  if ge then k else k - 1

/-- RoundTo .f32 or .bf16 of a positive rational with a sign (R120, R121). -/
def roundFloatFin (ty : ElemType) (mode sr : Nat) (s : Bool) (n d : Nat) : Nat :=
  let p := floatPrec ty
  let sb := if s then signBit ty else 0
  let e := max (log2Floor n d) (-126)
  if 128 ≤ e then
    let toInf := match mode with
      | 1 => false
      | 2 => s
      | 3 => !s
      | _ => true
    sb + (if toInf then 255 * 2 ^ (p - 1) else 255 * 2 ^ (p - 1) - 1)
  else
    let q := e - ((p : Int) - 1)
    let n' := if 0 ≤ q then n else n * 2 ^ (-q).toNat
    let d' := if 0 ≤ q then d * 2 ^ q.toNat else d
    let m := n' / d'
    let m := if roundsUp mode sr s m (n' % d') d' then m + 1 else m
    sb + ((e + 126).toNat * 2 ^ (p - 1) + m)

/-- RoundTo .f32 or .bf16 (R60): a NaN gives the default NaN. -/
def roundFloat (ty : ElemType) (mode sr : Nat) : FV → Nat
  | .nan => defaultNan ty
  | .inf s => infBits ty s
  | .fin s n d => if n = 0 then (if s then signBit ty else 0) else roundFloatFin ty mode sr s n d

/-- The lowest and highest value of an integer type. -/
def intMin (ty : ElemType) : Int := if ty.isSigned then -(2 ^ (ty.bits - 1)) else 0
def intMax (ty : ElemType) : Int := if ty.isSigned then 2 ^ (ty.bits - 1) - 1 else 2 ^ ty.bits - 1

def clampInt (lo hi v : Int) : Int := max lo (min hi v)

/-- An integer mod 2^w as bits. -/
def intBits (w : Nat) (v : Int) : Nat := (v % (2 ^ w : Int)).toNat

/-- The integer that R120 rounds a rational to. -/
def roundInt (mode sr : Nat) (s : Bool) (n d : Nat) : Int :=
  let m := n / d
  sgn s (if roundsUp mode sr s m (n % d) d then m + 1 else m)

/-- RoundTo an integer type, saturating (R123). -/
def roundToInt (ty : ElemType) (mode sr : Nat) : FV → Int
  | .nan => 0
  | .inf s => if s then intMin ty else intMax ty
  | .fin s n d => clampInt (intMin ty) (intMax ty) (roundInt mode sr s n d)

/-- RoundTo (R60) as element bits. -/
def roundTo (ty : ElemType) (mode sr : Nat) (v : FV) : Nat :=
  if ty.isFloat then roundFloat ty mode sr v else intBits ty.bits (roundToInt ty mode sr v)

/-- SRBits(dom, coord) (R122). -/
def srBits (seed : BitVec 64) (dom coord : Nat) : Nat :=
  let h : BitVec 64 := seed ^^^ (BitVec.ofNat 64 (coord * 0x9E3779B97F4A7C15)) ^^^ (BitVec.ofNat 64 (dom * 0x632BE59BD9B4E019))
  let h := (h ^^^ (h >>> 30)) * 0xBF58476D1CE4E5B9#64
  let h := (h ^^^ (h >>> 27)) * 0x94D049BB133111EB#64
  let h := h ^^^ (h >>> 31)
  h.toNat / 2 ^ 48

/-! ## Roots and transcendental functions, rounded once from the exact value (R176, R189) -/

/-- The integer square root of `n` below 2^i, bit by bit from bit i − 1, above the root `r` so far. -/
def isqrtFrom (n : Nat) : Nat → Nat → Nat
  | 0, r => r
  | i + 1, r => isqrtFrom n i (if (r + 2 ^ i) * (r + 2 ^ i) ≤ n then r + 2 ^ i else r)

/-- √(n/d) as a rational whose every rounding to 32 bits or fewer is that of the root: 40 or more bits of the root, and one bit below
them that says whether the root goes on. -/
def sqrtRat (n d : Nat) : Nat × Int :=
  let k : Int := (84 - ((Nat.log2 n : Int) - (Nat.log2 d : Int))) / 2
  let n' := if 0 ≤ k then n * 4 ^ k.toNat else n
  let d' := if 0 ≤ k then d else d * 4 ^ (-k).toNat
  let x := n' / d'
  let m := isqrtFrom x 46 0
  let exact := m * m == x && n' % d' == 0
  (2 * m + (if exact then 0 else 1), -(k + 1))

/-- √(n/d) with a sign, as an exact value for rounding. -/
def FV.sqrt (s : Bool) (n d : Nat) : FV :=
  if n = 0 then .fin s 0 1 else let (m, e) := sqrtRat n d; .scaled s m e

/-- ln 2 · 2^p from below; the true value lies less than p + 12 above. -/
def ln2Low (p : Nat) : Nat → Nat
  | 0 => 0
  | n + 1 => 2 ^ p / ((n + 1) * 2 ^ (n + 1)) + ln2Low p n

/-- Bounds of ln 2 · 2^p. -/
def ln2Bounds (p : Nat) : Nat × Nat := let l := ln2Low p (p + 8); (l, l + p + 12)

/-- The partial sums of e^y for y · 2^p between `lo` and `hi`, both below 2^p: lower and upper bounds of e^y · 2^p. -/
def expSum (p lo hi : Nat) : Nat → Nat → Nat → Nat → Nat → Nat → Nat × Nat
  | 0, _, _, tu, sl, su => (sl, su + 2 * tu + 4)
  | fuel + 1, n, tl, tu, sl, su =>
    let tl' := tl * lo / (2 ^ p * n)
    let tu' := tu * hi / (2 ^ p * n) + 1
    expSum p lo hi fuel (n + 1) tl' tu' (sl + tl') (su + tu')

/-- Bounds of 2^(f/g) · 2^p for 0 ≤ f < g. -/
def exp2Bounds (p f g : Nat) : Nat × Nat :=
  let (l, u) := ln2Bounds p
  expSum p (f * l / g) (f * u / g + 1) (p / 2 + 8) 1 (2 ^ p) (2 ^ p) (2 ^ p) (2 ^ p)

/-- The partial sums of atanh z for z · 2^p between `zl` and `zh`, z at most 1/3: bounds of atanh z · 2^p. -/
def atanhSum (p zl zh : Nat) : Nat → Nat → Nat → Nat → Nat → Nat → Nat × Nat
  | 0, _, _, tu, sl, su => (sl, su + tu + 4)
  | fuel + 1, n, tl, tu, sl, su =>
    let sl' := sl + tl / n
    let su' := su + tu / n + 1
    atanhSum p zl zh fuel (n + 2) (tl * zl * zl / 4 ^ p) (tu * zh * zh / 4 ^ p + 1) sl' su'

/-- Bounds of log2(n/d) · 2^p for 1 ≤ n/d < 2. -/
def log2Bounds (p n d : Nat) : Nat × Nat :=
  let zl := (n - d) * 2 ^ p / (n + d)
  let (al, ah) := atanhSum p zl (zl + 1) (p / 3 + 8) 1 zl (zl + 1) 0 0
  let (l, u) := ln2Bounds p
  (2 * al * 2 ^ p / u, 2 * ah * 2 ^ p / l + 1)

/-- 2^a of a finite a that is no integer, between two rationals: the exponent's integer part and the bounds at precision p. -/
def exp2Interval (p : Nat) (s : Bool) (n d : Nat) : FV × FV :=
  let v := sgn s n
  let k := v / (d : Int)
  let f := (v % (d : Int)).toNat
  let (l, u) := exp2Bounds p f d
  (.scaled false l (k - p), .scaled false u (k - p))

/-- log2 of a positive rational that is no power of two, between two rationals. -/
def log2Interval (p : Nat) (n d : Nat) : FV × FV :=
  let e := log2Floor n d
  let n' := if 0 ≤ e then n else n * 2 ^ (-e).toNat
  let d' := if 0 ≤ e then d * 2 ^ e.toNat else d
  let (l, u) := log2Bounds p n' d'
  let out (b : Nat) : FV := let v : Int := e * 2 ^ p + b; .fin (decide (v < 0)) v.natAbs (2 ^ p)
  (out l, out u)

/-- Rounds a value known between bounds, with more precision until both bounds round alike. -/
def roundBetween (ty : ElemType) (f : Nat → FV × FV) : Nat → Nat → Nat
  | 0, p => roundFloat ty rmRNE 0 (f p).1
  | fuel + 1, p =>
    let (l, u) := f p
    let a := roundFloat ty rmRNE 0 l
    if a = roundFloat ty rmRNE 0 u then a else roundBetween ty f fuel (2 * p)

/-- VEXP2 of element bits (R176). Beyond ±1,000 every exponent overflows or underflows alike. -/
def exp2Elem (ty : ElemType) (bits : Nat) : Nat :=
  match floatVal ty bits with
  | .nan => quieted ty bits
  | .inf s => if s then 0 else infBits ty false
  | .fin s n d =>
    if 1000 * d ≤ n then (if s then 0 else infBits ty false)
    else if n % d = 0 then roundFloat ty rmRNE 0 (.scaled false 1 (sgn s (n / d)))
    else if n * 2 ^ 40 < d then roundFloat ty rmRNE 0 (.fin false 1 1)
    else roundBetween ty (fun p => exp2Interval p s n d) 4 96

/-- VLOG2 (R176). -/
def log2Elem (ty : ElemType) (bits : Nat) : Nat :=
  match floatVal ty bits with
  | .nan => quieted ty bits
  | .inf s => if s then defaultNan ty else infBits ty false
  | .fin s n d =>
    if n = 0 then infBits ty true
    else if s then defaultNan ty
    else
      let e := log2Floor n d
      let pow := if 0 ≤ e then n == d * 2 ^ e.toNat else n * 2 ^ (-e).toNat == d
      if pow then roundFloat ty rmRNE 0 (.ofInt e) else roundBetween ty (fun p => log2Interval p n d) 4 128

/-- VRCP (R176). -/
def rcpElem (ty : ElemType) (bits : Nat) : Nat :=
  match floatVal ty bits with
  | .nan => quieted ty bits
  | .inf s => if s then signBit ty else 0
  | .fin s n d => if n = 0 then infBits ty s else roundFloat ty rmRNE 0 (.fin s d n)

/-- VRSQ (R176). -/
def rsqElem (ty : ElemType) (bits : Nat) : Nat :=
  match floatVal ty bits with
  | .nan => quieted ty bits
  | .inf s => if s then defaultNan ty else 0
  | .fin s n d =>
    if n = 0 then infBits ty s
    else if s then defaultNan ty
    else roundFloat ty rmRNE 0 (FV.sqrt false d n)

/-! ## Block and plane formats (R124 to R129) -/

/-- (−1)^s · M · 2^(E − 127 − (m − 1)), with E = 0xFF non-finite (R125, R126). -/
def blockVal (m : Nat) (s : Bool) (e M : Nat) : FV :=
  if e = 255 then (if M = 0 then .inf s else .nan) else .scaled s M ((e : Int) - 127 - ((m : Int) - 1))

/-- E0 or E1 of a block header (R124). -/
def headerExp (h : BitVec 16) (t : Bool) : Nat := if t then (h.extractLsb' 8 8).toNat else (h.extractLsb' 0 8).toNat

/-- The value of a BFX8 or BFX16 element under its header (R125). -/
def bfxVal (m : Nat) (h : BitVec 16) (bits : Nat) : FV :=
  let t := bits / 2 ^ m % 2 == 1
  blockVal m (bits / 2 ^ (m + 1) % 2 == 1) (headerExp h t) (bits % 2 ^ m)

/-- The scale S of an affine pair, E5M3 (R129), as num · 2^e. -/
def affineScale (pair : BitVec 16) : Nat × Int :=
  let e := (pair.extractLsb' 3 5).toNat
  let f := (pair.extractLsb' 0 3).toNat
  if e = 0 then (f, -17) else (8 + f, (e : Int) - 18)

/-- The zero point Z of an affine pair (R129). -/
def affineZero (pair : BitVec 16) : Int := (pair.extractLsb' 8 8).toInt

/-- S · (q − z) exactly. -/
def affineVal (pair : BitVec 16) (q z : Int) : FV :=
  let (n, e) := affineScale pair
  let v := q - z
  .scaled (decide (v < 0)) (v.natAbs * n) e

/-! ## Quantising a block to BFX8 (R136) -/

/-- The smallest e from `e` up, at most 254, with n/d ≤ 63 · 2^(e − 132); 254 if none. -/
def smallestExp (n d : Nat) : Nat → Nat → Nat
  | 0, _ => 254
  | fuel + 1, e =>
    let fits := if 132 ≤ e then decide (n ≤ 63 * 2 ^ (e - 132) * d) else decide (n * 2 ^ (132 - e) ≤ 63 * d)
    if fits then e else smallestExp n d fuel (e + 1)

/-- The header and the bytes of a BFX8 block of values, with whether an element saturated. `sr` gives each element's SR bits by its
place. -/
def quantBfx8 (mode : Nat) (sr : Nat → Nat) (vs : List FV) : BitVec 16 × List Nat × Bool :=
  let mx := vs.foldl (init := ((0, 1) : Nat × Nat)) fun a v =>
    match v with
    | .fin _ n d => if a.1 * d < n * a.2 then (n, d) else a
    | _ => a
  let e0 := if mx.1 = 0 then 0 else smallestExp mx.1 mx.2 255 0
  let nonfin := vs.any fun v => !v.isFin
  let e1 := if nonfin then 255 else e0 - 4
  let fits (n d e : Nat) : Bool := if 132 ≤ e then decide (n ≤ 63 * 2 ^ (e - 132) * d) else decide (n * 2 ^ (132 - e) ≤ 63 * d)
  let scaleTo (n d e : Nat) : Nat × Nat := if 132 ≤ e then (n, d * 2 ^ (e - 132)) else (n * 2 ^ (132 - e), d)
  let one (i : Nat) (v : FV) : Nat × Bool :=
    match v with
    | .nan => (64 + 1, false)
    | .inf s => ((if s then 128 else 0) + 64, false)
    | .fin s n d =>
      let t := e1 != 255 && fits n d e1
      let (n', d') := scaleTo n d (if t then e1 else e0)
      let m := (roundInt mode (sr i) false n' d').toNat
      let sb := if s && n != 0 then 128 else 0
      (sb + (if t then 64 else 0) + min m 63, decide (63 < m))
  let out := (vs.zipIdx).map fun p => one p.2 p.1
  (BitVec.ofNat 16 (256 * e1 + e0), out.map (·.1), out.any (·.2))

end Sys2Proof.Machine
end

