-- ==== Sys2Proof/Machine/Convert.lean ====
section
/-!
DEFINITION. Plane groups and blocks as values (R125 to R129, R151), and the conversions between byte layout and planes that MPACK, CPPLANE
and CPDEPL share (R203, R214).
-/

namespace Sys2Proof.Machine

/-! ## Plane groups (R151) -/

/-- A plane element: sign, selector and magnitude of PB, or the integer of PI. -/
inductive PlaneElem where
  | pb (s t : Bool) (M : Nat)
  | pi (q : Int)
deriving DecidableEq, Repr

/-- Bits of element `e` in the words of a list, the first word most significant. -/
def planeBits (e : Nat) (ws : List Nat) : Nat := ws.foldl (fun acc w => 2 * acc + (w.testBit e).toNat) 0

/-- Element `e` of a plane group. -/
def groupElem (d : TDesc) (ws : List Nat) (e : Nat) : PlaneElem :=
  if isPB (descFmt d) then
    let s := if descNosign d then false else (ws.headD 0).testBit e
    let ws := if descNosign d then ws else ws.drop 1
    let t := if descNosel d then false else (ws.headD 0).testBit e
    let ws := if descNosel d then ws else ws.drop 1
    .pb s t (planeBits e ws)
  else
    let w := planeWidth (descFmt d)
    let q := planeBits e ws
    .pi (if !descNosign d && decide (2 ^ (w - 1) ≤ q) then (q : Int) - 2 ^ w else q)

/-- One plane: bit `f e` for each of 32 elements. -/
def planeWord (f : Nat → Bool) : Nat := (upTo 32).foldr (fun e acc => (f e).toNat + 2 * acc) 0

/-- The words of a plane group from its 32 elements. -/
def groupWords (d : TDesc) (l : List PlaneElem) : List Nat :=
  let el (e : Nat) : PlaneElem := (l[e]?).getD (.pi 0)
  let w := planeWidth (descFmt d)
  let mag (e : Nat) : Nat := match el e with | .pb _ _ M => M | .pi q => intBits w q
  let body := (upTo w).map fun p => planeWord fun e => (mag e).testBit (w - 1 - p)
  if isPB (descFmt d) then
    let sign := if descNosign d then [] else [planeWord fun e => match el e with | .pb s _ _ => s | .pi _ => false]
    let selw := if descNosel d then [] else [planeWord fun e => match el e with | .pb _ t _ => t | .pi _ => false]
    sign ++ selw ++ body
  else body

/-- Mantissa bits of BFX8, BFX16 and the packed .n32 layout (R125, R203). -/
def srcMant (f : Nat) : Nat := if f = 8 then 6 else if f = 9 then 14 else 22

/-- The byte format that a PB format pairs with (R203). -/
def pbPartner (m : Nat) : Nat := if m ≤ 6 then 8 else if m ≤ 14 then 9 else 5

/-- The fmt pair of a plane tensor and a byte tensor, with the affine rule: `true` where the pair is outside the table (R203, R214). The
side that may not be affine alone is the source. -/
def planePairBad (plane byte : TDesc) (toPlane : Bool) : Bool :=
  let f := descFmt plane
  let g := descFmt byte
  if isPB f then g != pbPartner (planeWidth f) || descAffine byte
  else if isPI f then
    !decide (g ≤ 5) || (if toPlane then descAffine byte && !descAffine plane else descAffine plane && !descAffine byte)
  else true

/-- One byte element as a plane element (R203). -/
def toPlane (plane byte : TDesc) (bits : Nat) : PlaneElem :=
  let w := planeWidth (descFmt plane)
  if isPB (descFmt plane) then
    let g := descFmt byte
    let ms := srcMant g
    let (s, t) := if g = 5 then (bits.testBit 31, bits.testBit 30) else (bits.testBit (ms + 1), bits.testBit ms)
    .pb s t (min (roundInt rmRNE 0 false (bits % 2 ^ ms) (2 ^ (ms - w))).toNat (2 ^ w - 1))
  else
    let v := intVal (fmtType (descFmt byte)) bits
    .pi (if descNosign plane then clampInt 0 (2 ^ w - 1) v else clampInt (-(2 ^ (w - 1))) (2 ^ (w - 1) - 1) v)

/-- One plane element as a byte element (R214). -/
def fromPlane (plane byte : TDesc) : PlaneElem → Nat
  | .pb s t M =>
    let g := descFmt byte
    let ms := srcMant g
    let m := M * 2 ^ (ms - planeWidth (descFmt plane))
    if g = 5 then (if s then 2 ^ 31 else 0) + (if t then 2 ^ 30 else 0) + m
    else (if s then 2 ^ (ms + 1) else 0) + (if t then 2 ^ ms else 0) + m
  | .pi q =>
    let ty := fmtType (descFmt byte)
    intBits ty.bits (clampInt (intMin ty) (intMax ty) q)

/-- Where the header or pair of a converted block comes from: nothing is written, the source's is copied, or the pair S = 1, Z = 0
(R203, R214). -/
inductive HeaderRule where
  | none | copy | unit
deriving DecidableEq, Repr

def headerRule (src dst : TDesc) (pb : Bool) : HeaderRule :=
  if pb then .copy else if !descAffine dst then .none else if descAffine src then .copy else .unit

/-- The affine pair S = 1.0, Z = 0. -/
def unitPair : Nat := 0x0078

/-! ## Values (R125 to R130) -/

/-- The value of a byte element; `useZ` reads the zero point. -/
def byteVal (d : TDesc) (useZ : Bool) (header bits : Nat) : FV :=
  let f := descFmt d
  let h := BitVec.ofNat 16 header
  if f = 8 then bfxVal 6 h bits
  else if f = 9 then bfxVal 14 h bits
  else
    let q := intVal (fmtType f) bits
    if descAffine d then affineVal h q (if useZ then affineZero h else 0) else .ofInt q

/-- The value of a plane element. -/
def planeVal (d : TDesc) (useZ : Bool) (header : Nat) : PlaneElem → FV
  | .pb s t M => blockVal (planeWidth (descFmt d)) s (headerExp (BitVec.ofNat 16 header) t) M
  | .pi q =>
    let h := BitVec.ofNat 16 header
    if descAffine d then affineVal h q (if useZ then affineZero h else 0) else .ofInt q

end Sys2Proof.Machine
end

