-- ==== Sys2Proof/Machine/Iter.lean ====
section
/-!
DEFINITION. One iteration of an engine command: what its checks give, and the visits to pieces that follow (R140, R142, R181, R195,
R219, R299).
-/

namespace Sys2Proof.Machine

/-- What an iteration's checks give. -/
inductive Planned where
  | trap (c : Cause)     -- the iteration takes no effect
  | trapIn (s : State) (c : Cause)   -- it takes none but the change made to `s` (R210)
  | wait                 -- the checks are made again later
  | go (reads : List RVisit) (src dst : List Part) (aux : BitVec 256) (s : State)
deriving DecidableEq, Repr

/-- What an iteration does once its pieces are read: the registers and tiles it changes, the pieces it writes, the bytes it counts. -/
structure Acted where
  state : State
  writes : List WVisit
  count : Nat
deriving DecidableEq, Repr

def Acted.only (s : State) : Acted := ⟨s, [], 0⟩

/-- An iteration without memory. -/
def Planned.none (s : State) : Planned := .go [] [] [] 0 s

/-- The address of a piece for sr.causehi of ECC: a granule of the core's own scratchpad by its offset there, though the program may have named it through
the window (log entry 77). -/
def RVisit.addr (v : RVisit) (s : State) : Nat :=
  match v.loc with
  | .glob _ => (v.key - 2 ^ 32) * 16
  | .spad g => if g / Config.spadGranules = s.selfRank then g % Config.spadGranules * 16 else g * 16

/-- The same of a piece to be written. -/
def WVisit.addr (v : WVisit) : Nat :=
  match v.loc with
  | .glob _ => (v.key - 2 ^ 32) * 16
  | .spad g => g % Config.spadGranules * 16

/-- A visit's outcome: it waits, or the machine and the piece's bytes, with the address of an uncorrectable error met. -/
inductive Visited where
  | wait
  | ok (s : State) (d : BitVec 128) (ecc : Option (BitVec 64))
deriving DecidableEq, Repr

/-- The bytes of a mask, as offsets. -/
def maskBytes (m : BitVec 16) : List Nat := (upTo 16).filter fun i => m.getLsbD i

/-- Reads one piece: test and change of its granule and its bytes in one action (R140, R142); a tracked global read joins the read set of
a speculative task, and a global read makes it depend on the versions it used (R341, R342). -/
def State.visitRead (s : State) (tracked : Bool) (v : RVisit) : Visited :=
  let ecc := if s.poisoned v.loc then some (BitVec.ofNat 64 (v.addr s)) else none
  match v.loc with
  | .spad g =>
    if v.qual.ready (s.granState g) then .ok (s.setGran g (v.qual.after (s.granState g))) (s.spad.piece g) ecc else .wait
  | .glob p =>
    if tracked && s.specNow then
      if s.readWaits (16 * p) 16 then .wait
      else
        let d := BitVec.ofNat 128 (leNat (s.globBytes (16 * p) 16))
        .ok ((maskBytes v.mask).foldl (fun s i => s.trackRead (16 * p + i) 1) s) d ecc
    else
      .ok ((maskBytes v.mask).foldl (fun s i => s.dependRead (16 * p + i) 1) s) (BitVec.ofNat 128 (leNat (s.globBytes (16 * p) 16))) ecc

/-- Writes one piece; none while it must wait. -/
def State.visitWrite (s : State) (v : WVisit) : Option State :=
  match v.loc with
  | .spad g =>
    if v.qual.ready (s.granState g) then
      let s := { s with spad := s.spad.putPiece g v.mask v.data }.settle [v.loc]
      some ((s.clearPoison v.loc v.mask).setGran g (v.qual.after (s.granState g)))
    else none
  | .glob p =>
    if s.writeWaits (16 * p) 16 then none
    else if v.mask = BitVec.allOnes 16 then some (s.writeGlob (16 * p) (leBytes 16 v.data.toNat))
    else some ((maskBytes v.mask).foldl (fun s i => s.writeGlob (16 * p + i) [pieceByte v.data i]) s)

/-- The bytes of a part read at once, outside the visits: an index element, tested as a load .w (R213). -/
def State.peek (s : State) : Part → Option (Nat × Bool)
  | .lit v _ => some (v, false)
  | .piece loc _ off n =>
    match loc with
    | .spad g =>
      if Qual.ready .loadW (s.granState g) then some (((s.spad.piece g).extractLsb' (8 * off) (8 * n)).toNat, s.poisoned loc) else none
    | .glob p => some (leNat (s.globBytes (16 * p + off) n), s.poisoned loc)

end Sys2Proof.Machine
end

