-- ==== Sys2Proof/Machine/KvStore.lean ====
section
/-!
DEFINITION. The KV cache's tables and frames (R355 to R365): handle checks, entry states, rows, quantising, and a read through a KV-space
descriptor.
-/

namespace Sys2Proof.Machine

/-! ## Handles (R355 to R357) -/

def State.kvHandle (s : State) (index : Nat) : Option KvHandle := s.kv.handles.find? (·.index == index)

def State.setKvHandle (s : State) (h : KvHandle) : State :=
  { s with kv := { s.kv with handles := s.kv.handles.map fun g => if g.index = h.index then h else g } }

/-- The KV record of a context. -/
def State.kvRec (s : State) (ctx : BitVec 4) : KvRecord := (s.context ctx).kvrec

/-- Checks 1 to 3 of R356 on an index, generation and tenant. -/
def State.kvLookup (s : State) (ctx : BitVec 12) (index : Nat) (gen tenant : BitVec 8) : Option KvHandle :=
  let r := s.kvRec (ctx.extractLsb' 0 4)
  if index < r.first.toNat ∨ r.first.toNat + r.count.toNat ≤ index then none
  else match s.kvHandle index with
    | none => none
    | some e => if e.valid && e.gen == gen && e.tenant == tenant && tenant == ctx.extractLsb' 4 8 then some e else none

/-- Checks 1 to 4 of R356 on a handle value. -/
def State.kvDeref (s : State) (ctx : BitVec 12) (h : Word) : Except Cause KvHandle :=
  if h.extractLsb' 0 12 != 0 then .error (.kvhandle h)
  else match s.kvLookup ctx (h.extractLsb' 48 16).toNat (h.extractLsb' 40 8) (h.extractLsb' 32 8) with
    | none => .error (.kvhandle h)
    | some e => if e.bound.toNat < (h.extractLsb' 12 20).toNat then .error (.kvhandle h) else .ok e

/-- Check 5 of R356 against a bound. -/
def kvOutside (e : KvHandle) (bound p : Nat) : Bool := decide (bound ≤ p) || decide (p < e.lo.toNat)

/-- The handle value of a table entry. -/
def kvHandleWord (e : KvHandle) : Word := BitVec.ofNat 16 e.index ++ e.gen ++ e.tenant ++ e.bound ++ 0#12

/-! ## Models (R358, R368) -/

def State.kvModel (s : State) (ctx : BitVec 4) (m : Nat) : KvModel := ((s.context ctx).models.toList[m]?).getD KvModel.zero
/-- L, the layers. -/
def KvModel.layers (m : KvModel) : Nat := m.lm1.toNat + 1
/-- E, the elements of a row. -/
def KvModel.elems (m : KvModel) : Nat := 32 * (m.em1.toNat + 1)

def State.modelOf (s : State) (h : KvHandle) : KvModel := s.kvModel h.ctx h.model.toNat

/-! ## Frames (R358, R360) -/

def State.kvFrame (s : State) (ctx : BitVec 4) (n : Nat) : Option KvFrame :=
  s.kv.frames.find? fun f => f.ctx == ctx && f.num == n

/-! ## The bytes of a frame in its pool (R158, R325, R358, R368) -/

/-- Virtual address of a frame. It stays where it was taken, whatever KVBFT makes of the record (R374). -/
def KvFrame.base (f : KvFrame) : Nat := 4096 * f.num

/-- Where elements c to c + n − 1 of a row lie in a frame at `base`, and in a page the headers of their blocks (R358). -/
def KvFrame.rowSpans (f : KvFrame) (base e : Nat) (isV : Bool) (i c n : Nat) : List (Nat × Nat) :=
  let z := if f.tail then 2 else 1
  let k := (if isV then 64 else 0) + i
  (base + 64 + z * (e * k + c), z * n) ::
    if f.tail then [] else [(base + 64 + 128 * e + 2 * (e / 32 * k + c / 32), 2 * ((c % 32 + n + 31) / 32))]

/-- The first refusal of an access to the pool under the KV bit (R158). -/
def State.kvRefuses (s : State) (ctx : BitVec 4) (ps : List (Nat × Nat)) : Option Cause :=
  (ps.flatMap fun p => spans (p.2 + 1) p.1 p.2).findSome? fun p =>
    match s.translate ctx permKv p.1 with
    | .ok _ => none
    | .range => some (.range 0 p.1)
    | .perm sub => some (.perm sub p.1)
    | .nres => some (.nres p.1)
    | .ecc pa => some (.ecc pa)

/-- The 16-byte pieces of an access to the pool: virtual address, physical address and length. -/
def State.kvPieces (s : State) (ctx : BitVec 4) (ps : List (Nat × Nat)) : List (Nat × Nat × Nat) :=
  (ps.flatMap fun p => spans (p.2 + 1) p.1 p.2).flatMap fun p =>
    match s.translate ctx permKv p.1 with
    | .ok pa => (pieces (p.2 + 1) pa p.2).map fun q => (p.1 + (q.1 - pa), q.1, q.2)
    | _ => []

/-- Bytes of a frame: its header, its 128 rows, and in a page their headers (R358). -/
def KvFrame.size (f : KvFrame) (e : Nat) : Nat := if f.map then 64 else if f.tail then 256 * e + 64 else 136 * e + 64

/-- Bytes of the pool as a task's copy engine finds them: zeros where the pool is not mapped, and in a piece that an uncorrectable error has lost (R223). -/
def State.kvBytes (s : State) (ctx : BitVec 4) (p : Nat × Nat) : List Byte :=
  (spans (p.2 + 1) p.1 p.2).flatMap fun p =>
    match s.translate ctx permKv p.1 with
    | .ok pa => (pieces (p.2 + 1) pa p.2).flatMap fun q => if s.poisoned (.glob (q.1 / 16)) then List.replicate q.2 0 else s.globBytes q.1 q.2
    | _ => List.replicate p.2 0

/-- The KV engine's own read of its pool (R158, R325). -/
def State.kvFetch (s : State) (ctx : BitVec 4) (ps : List (Nat × Nat)) : Except Cause (List Byte) :=
  match s.kvRefuses ctx ps with
  | some c => .error c
  | none =>
    match (s.kvPieces ctx ps).find? fun q => s.poisoned (.glob (q.2.1 / 16)) with
    | some q => .error (.ecc q.1)
    | none => .ok (ps.flatMap (s.kvBytes ctx))

/-- Its write: one that no page of the pool takes traps, and one across a failed boundary takes ECC (R158, R397). It is a write to the frame's lines for
R342, and a write of whole pieces clears their poison (R325). -/
def State.kvStore (s : State) (ctx : BitVec 4) (a : Nat) (bs : List Byte) : Except Cause State :=
  match s.kvRefuses ctx [(a, bs.length)] with
  | some c => .error c
  | none =>
    let ps := s.kvPieces ctx [(a, bs.length)]
    match ps.find? fun q => s.cutOff (.glob (q.2.1 / 16)) with
    | some q => .error (.ecc q.1)
    | none => .ok (ps.foldl (fun s q => s.writeBy s.runTask ctx q.2.1 ((bs.drop (q.1 - a)).take q.2.2)) s)

/-- A frame's header takes its count and states. Its layout is open: log entry 30. -/
def State.kvHeader (s : State) (f : KvFrame) : Except Cause State := s.kvStore f.ctx f.base ((upTo 64).map (Config.pageHeader f.ref f.states))

def State.setKvFrame (s : State) (v : KvFrame) : Except Cause State :=
  let frames := s.kv.frames.map fun f => if f.ctx == v.ctx && f.num == v.num then v else f
  State.kvHeader { s with kv := { s.kv with frames := frames } } v

/-- The frames of the context's pool that no frame in use lies in, of this record or of an earlier one. -/
def State.kvFree (s : State) (ctx : BitVec 4) : List Nat :=
  let r := s.kvRec ctx
  let z := r.fsize.toNat
  let inUse := s.kv.frames.filter (·.ctx == ctx)
  ((upTo r.frames.toNat).map fun k => r.pool.toNat / 4096 + k * z).filter fun n =>
    !inUse.any fun f => decide (f.num < n + z) && decide (n < f.num + f.units)

/-- Takes a frame: which of the free ones is open (log entry 7). An empty pool raises RANGE, POOL (R370). -/
def State.takeFrame (s : State) (ctx : BitVec 4) (map tail : Bool) (states : List (BitVec 2)) : Except Cause (State × KvFrame) :=
  let free := s.kvFree ctx
  match free[Config.freeChoice s.freeNo % max 1 free.length]? with
  | none => .error (.pool false)
  | some n =>
    let f : KvFrame := { ctx := ctx, num := n, units := (s.kvRec ctx).fsize.toNat, ref := 1, map := map, tail := tail, states := states }
    (State.kvHeader { s with kv := { s.kv with frames := s.kv.frames ++ [f] }, freeNo := s.freeNo + 1 } f).map fun s => (s, f)

/-- Releases one reference of a frame; at 0 it returns to the pool. -/
def State.dropFrame (s : State) (ctx : BitVec 4) (n : Nat) : Except Cause State :=
  match s.kvFrame ctx n with
  | none => .ok s
  | some f =>
    if f.ref ≤ 1 then .ok { s with kv := { s.kv with frames := s.kv.frames.filter fun g => !(g.ctx == ctx && g.num == n) } }
    else s.setKvFrame { f with ref := f.ref - 1 }

/-- 64 entries, none of them PRESENT or OWED. -/
def noStates : List (BitVec 2) := List.replicate 64 0

/-- fl(l). -/
def KvHandle.flushed (h : KvHandle) (l : Nat) : Nat := (h.fl[l]?).getD 0

/-- The frame of a page (or tail) number of a layer. -/
def KvHandle.pageFrame (h : KvHandle) (l pg : Nat) : Option Nat :=
  (h.pages.find? fun p => p.1 == l && p.2.1 == pg).map fun p => p.2.2

/-- The frame that covers a position, if any. -/
def State.kvCover (s : State) (h : KvHandle) (l p : Nat) : Option KvFrame :=
  if p / 64 ≤ h.flushed l then (h.pageFrame l (p / 64)).bind (s.kvFrame h.ctx) else none

/-- A position from len on reads as UNSET (R363), and so does one that a KVFORK left with its parent: the fork holds nothing from its own p on, though a
frame that it shares may (R370). -/
def KvHandle.shut (h : KvHandle) (l p : Nat) : Bool :=
  decide (h.len.toNat ≤ p) || h.hidden.any fun x => x.1 == l && x.2.1 == p / 64 && decide (x.2.2 ≤ p)

/-- State of an entry: 0 UNSET, 1 PRESENT, 2 OWED (R359, R363). -/
def State.kvState (s : State) (h : KvHandle) (l p : Nat) : BitVec 2 :=
  if h.shut l p then 0
  else match s.kvCover h l p with
    | none => 0
    | some f => (f.states[p % 64]?).getD 0

/-! ## Rows -/

/-- `n` elements of `b` bytes from a byte list. -/
def rowElems (b : Nat) (bytes : List Byte) : Nat → List Nat
  | 0 => []
  | n + 1 => leNat (bytes.take b) :: rowElems b (bytes.drop b) n

/-- A .bf16 row quantised to BFX8, block by block (R136, R360): bytes and headers. -/
def quantRow : Nat → List Nat → List Nat × List Nat
  | 0, _ => ([], [])
  | n + 1, l =>
    let (h, bytes, _) := quantBfx8 rmRNE (fun _ => 0) ((l.take 32).map (floatVal .bf16))
    let (rest, hs) := quantRow n (l.drop 32)
    (bytes ++ rest, h.toNat :: hs)

/-- A BFX8 element as .bf16, exactly; a NaN becomes the default NaN with the element's sign (R126, R364). -/
def dequantElem (h : BitVec 16) (bits : Nat) : Nat :=
  match bfxVal 6 h bits with
  | .nan => if bits / 128 % 2 = 1 then 0xFFC0 else 0x7FC0
  | v => roundTo .bf16 rmRNE 0 v

/-- A BFX8 row as .bf16 (R364). -/
def dequantRow (bytes headers : List Nat) : List Nat :=
  bytes.zipIdx.map fun p => dequantElem (BitVec.ofNat 16 ((headers[p.2 / 32]?).getD 0)) p.1

/-- A row in a format, from its bytes and, of a page, its headers (R358, R364): elements and headers. -/
def rowOf (tail : Bool) (e fmt : Nat) (body heads : List Byte) : List Nat × List Nat :=
  if tail then
    let el := rowElems 2 body e
    if fmt = 8 then quantRow (e / 32) el else (el, [])
  else
    let el := rowElems 1 body e
    let hs := rowElems 2 heads (e / 32)
    if fmt = 8 then (el, hs) else (dequantRow el hs, [])

/-- Row `i` of a frame as a copy engine reads it. -/
def State.kvRow (s : State) (f : KvFrame) (e : Nat) (isV : Bool) (i fmt : Nat) : List Nat × List Nat :=
  match f.rowSpans f.base e isV i 0 e with
  | body :: heads => rowOf f.tail e fmt (s.kvBytes f.ctx body) (heads.flatMap (s.kvBytes f.ctx))
  | [] => ([], [])

/-- Replaces `n` items from place `i`. -/
def splice {α : Type} (l : List α) (i : Nat) (new : List α) : List α := l.take i ++ new ++ l.drop (i + new.length)

/-- The KV engine writes a .bf16 row into a frame: as it is into a tail, quantised into a page (R371). -/
def State.kvPutRow (s : State) (f : KvFrame) (e : Nat) (isV : Bool) (i : Nat) (el : List Nat) : Except Cause State :=
  match f.rowSpans f.base e isV i 0 e with
  | [] => .ok s
  | body :: heads =>
    if f.tail then s.kvStore f.ctx body.1 (el.flatMap fun x => leBytes 2 x)
    else
      let (bytes, hs) := quantRow (e / 32) el
      (s.kvStore f.ctx body.1 (bytes.map (BitVec.ofNat 8))).bind fun s =>
        heads.foldlM (fun s h => s.kvStore f.ctx h.1 (hs.flatMap fun x => leBytes 2 x)) s

def KvFrame.putState (f : KvFrame) (i : Nat) (v : BitVec 2) : KvFrame := { f with states := splice f.states i [v] }

/-- A write of lines by a KV command aborts the readers that R342 names. -/
def State.writeLines (s : State) (lines : List Nat) : State :=
  if s.unit.reads = [] then s else s.abortList (s.conflicting s.runTask lines)

/-- A row of a tail as its flush reads it: one that is not PRESENT is zeros (R360). -/
def State.tailRow (s : State) (f : KvFrame) (e : Nat) (isV : Bool) (i : Nat) : Except Cause (List Nat) :=
  if (f.states[i]?).getD 0 = 1 then (s.kvFetch f.ctx (f.rowSpans f.base e isV i 0 e)).map fun b => rowElems 2 b e
  else .ok (List.replicate e 0)

/-! ## A read through a KV-space descriptor (R362 to R364) -/

/-- The fields of a KV-space descriptor. -/
structure KvDesc where
  index : Nat
  gen : BitVec 8
  tenant : BitVec 8
  layer : Nat
  isV : Bool
  policy : Nat
  k0 : Nat
deriving DecidableEq, Repr

def kvDesc (d : TDesc) : KvDesc :=
  { index := (d.extractLsb' 0 16).toNat, gen := d.extractLsb' 16 8, tenant := d.extractLsb' 24 8,
    layer := (d.extractLsb' 32 8).toNat, isV := d.getLsbD 40, policy := (d.extractLsb' 41 3).toNat,
    k0 := (d.extractLsb' 240 16).toNat }

/-- The handle value that a KV-space descriptor stands for, as sr.cause reports it: its bound is the table entry's. -/
def KvDesc.handle (k : KvDesc) (bound : BitVec 20) : Word :=
  BitVec.ofNat 16 k.index ++ k.gen ++ k.tenant ++ bound ++ 0#12

/-- What a row read gives; `lost` are the pieces that meet an uncorrectable error. -/
inductive KvRead where
  | trap (c : Cause)
  | wait
  | row (elems headers : List Nat) (lost : List RVisit) (s : State)
deriving DecidableEq, Repr

/-- The context's policy for a layer (R374). -/
def State.layerPolicy (s : State) (ctx : BitVec 4) (layer : Nat) : BitVec 3 := ((s.context ctx).policy.toList[layer]?).getD 1

/-- The policy in force: the copy's, the descriptor's, or the context's for the layer when the read started (R363, R374). -/
def kvPolicy (k : KvDesc) (q layerPolicy : BitVec 3) : Nat :=
  if q != 0 then q.toNat else if k.policy ≠ 0 then k.policy else layerPolicy.toNat

/-- The highest PRESENT layer at or below `l` for a position. -/
def kvNearest (s : State) (h : KvHandle) (p : Nat) : Nat → Option Nat
  | 0 => if s.kvState h 0 p = 1 then some 0 else none
  | l + 1 => if s.kvState h (l + 1) p = 1 then some (l + 1) else kvNearest s h p l

/-- One row under the read's policy, of which the reader takes elements c0 to c0 + n − 1. `inForce` is the context's policy for the layer when it started. -/
def kvReadRow (s : State) (ctx : BitVec 12) (d : TDesc) (c0 n c1 : Nat) (q inForce : BitVec 3) (tracked : Bool) : KvRead :=
  let k := kvDesc d
  let c4 := ctx.extractLsb' 0 4
  match s.kvLookup ctx k.index k.gen k.tenant with
  | none => .trap (.kvhandle (k.handle 0))
  | some h =>
    let p := 64 * k.k0 + c1
    if kvOutside h h.bound.toNat p then .trap (.kvbound (k.handle h.bound))
    else
      let e := (s.modelOf h).elems
      let fmt := descFmt d
      let zero (s : State) : KvRead := .row (List.replicate e 0) (if fmt = 8 then List.replicate (e / 32) 0 else []) [] s
      let st := s.kvState h k.layer p
      let pol := kvPolicy k q inForce
      let joins := tracked && (pol == 1 || pol == 4)
      let rowLines (l : Nat) : List Nat :=
        entryLine h.index l p :: (match s.kvCover h l p with
          | some f =>
            ((s.kvPieces c4 ((f.base, 64) :: f.rowSpans f.base e k.isV (p % 64) 0 e)).map fun q => q.2.1 / 64).eraseDups
          | none => [])
      let mark (l : Nat) (s : State) : State := if joins then s.trackLines (rowLines l) else s
      let give (l : Nat) : KvRead :=
        match s.kvCover h l p with
        | none => zero s
        | some f =>
          let read := f.rowSpans f.base e k.isV (p % 64) c0 n
          match s.kvRefuses c4 read with
          | some c => .trap c
          | none =>
            let lost := (s.kvPieces c4 read).filter fun q => s.poisoned (.glob (q.2.1 / 16))
            let (el, hs) := s.kvRow f e k.isV (p % 64) fmt
            .row el hs (lost.map fun q => ⟨2 ^ 32 + q.1 / 16, .glob (q.2.1 / 16), .loadN, 0⟩) (mark l s)
      let refused : Option Cause := (s.kvCover h k.layer p).bind fun f =>
        s.kvRefuses c4 ((f.base, 64) :: f.rowSpans f.base e k.isV (p % 64) c0 n)
      match refused with
      | some c => .trap c
      | none =>
        if joins && s.linesWait ((rowLines k.layer).drop 1) then .wait
        else if st = 1 then give k.layer
        else if st = 0 then zero (mark k.layer s)
        else if pol = 1 then .wait
        else if pol = 3 then
          match kvNearest s h p k.layer with
          | some l => give l
          | none => zero s
        else zero (mark k.layer s)

end Sys2Proof.Machine
end

