-- ==== Sys2Proof/Machine/Lanes.lean ====
section
/-!
DEFINITION. What the VEC words compute on vectors and predicates (R162 to R178), as functions of register values.
-/

namespace Sys2Proof.Machine

abbrev Vec := BitVec 2048
abbrev Pred := BitVec 256

/-! ## Elements and lanes (R162) -/

/-- The elements of width `w` of a vector, element 0 first. -/
def elems (w : Nat) (v : Vec) : List Nat := (upTo (2048 / w)).map fun e => (v.extractLsb' (w * e) w).toNat

/-- A vector from elements of width `w`; missing ones are zero. -/
def packElems (w : Nat) (l : List Nat) : Vec := BitVec.ofNat 2048 (l.foldr (fun x acc => x % 2 ^ w + 2 ^ w * acc) 0)

/-- A predicate whose elements cover `k` byte lanes each. -/
def packPred (k : Nat) (l : List Bool) : Pred :=
  BitVec.ofNat 256 (l.foldr (fun b acc => (if b then 2 ^ k - 1 else 0) + 2 ^ k * acc) 0)

def zip3 (f : Nat → Nat → Nat → Nat) : List Nat → List Nat → List Nat → List Nat
  | a :: as, b :: bs, c :: cs => f a b c :: zip3 f as bs cs
  | _, _, _ => []

/-- An element-wise word: `f a b c` with c the old destination (R166). -/
def mapLanes (ty : ElemType) (f : Nat → Nat → Nat → Nat) (a b c : Vec) : Vec :=
  packElems ty.bits (zip3 f (elems ty.bits a) (elems ty.bits b) (elems ty.bits c))

/-! ## Element-wise arithmetic (R166, R167) -/

/-- The first NaN operand quieted (R118), else the result. -/
def nan1 (ty : ElemType) (a r : Nat) : Nat := if isNanBits ty a then quieted ty a else r
def nan2 (ty : ElemType) (a b r : Nat) : Nat := nan1 ty a (nan1 ty b r)
def nan3 (ty : ElemType) (a b c r : Nat) : Nat := nan1 ty a (nan1 ty b (nan1 ty c r))

def opAdd (ty : ElemType) (rm a b : Nat) : Nat :=
  if ty.isFloat then nan2 ty a b (roundTo ty rm 0 ((floatVal ty a).add (rm == 2) (floatVal ty b)))
  else (a + b) % 2 ^ ty.bits

def satInt (ty : ElemType) (v : Int) : Nat := intBits ty.bits (clampInt (intMin ty) (intMax ty) v)

def opAddSat (ty : ElemType) (a b : Nat) : Nat := satInt ty (intVal ty a + intVal ty b)
def opSubSat (ty : ElemType) (a b : Nat) : Nat := satInt ty (intVal ty a - intVal ty b)

def opSub (ty : ElemType) (rm a b : Nat) : Nat :=
  if ty.isFloat then nan2 ty a b (roundTo ty rm 0 ((floatVal ty a).add (rm == 2) (floatVal ty b).neg))
  else intBits ty.bits ((a : Int) - b)

def opMul (ty : ElemType) (rm a b : Nat) : Nat :=
  if ty.isFloat then nan2 ty a b (roundTo ty rm 0 ((floatVal ty a).mul (floatVal ty b))) else a * b % 2 ^ ty.bits

def opMulHi (ty : ElemType) (a b : Nat) : Nat := intBits ty.bits (intVal ty a * intVal ty b / 2 ^ ty.bits)

/-- VFMA with the product negated (`np`) or the addend negated (`na`). -/
def opFma (ty : ElemType) (rm : Nat) (np na : Bool) (a b c : Nat) : Nat :=
  if ty.isFloat then
    let p := (floatVal ty a).mul (floatVal ty b)
    let p := if np then p.neg else p
    let q := if na then (floatVal ty c).neg else floatVal ty c
    nan3 ty a b c (roundTo ty rm 0 (p.add (rm == 2) q))
  else
    let p : Int := if np then -((a : Int) * b) else (a : Int) * b
    intBits ty.bits (if na then p - c else p + c)

/-- The order of Min and Max: by value, −0 below +0; neither operand a NaN. -/
def floatLess (ty : ElemType) (a b : Nat) : Bool :=
  match (floatVal ty a).cmp (floatVal ty b) with
  | some .lt => true
  | some .eq => (floatVal ty a).sign && !(floatVal ty b).sign
  | _ => false

/-- Whether a comes before b as the type orders them. -/
def elemLess (ty : ElemType) (a b : Nat) : Bool :=
  if ty.isFloat then floatLess ty a b else decide (intVal ty a < intVal ty b)

/-- Min and Max of R167: one NaN gives the other operand, two give a quieted, a tie gives a. -/
def opPick (ty : ElemType) (better : Nat → Nat → Bool) (a b : Nat) : Nat :=
  if isNanBits ty a then (if isNanBits ty b then quieted ty a else b)
  else if isNanBits ty b then a
  else if better b a then b else a

def opMin (ty : ElemType) (a b : Nat) : Nat := opPick ty (fun x y => elemLess ty x y) a b
def opMax (ty : ElemType) (a b : Nat) : Nat := opPick ty (fun x y => elemLess ty y x) a b
def opMinNan (ty : ElemType) (a b : Nat) : Nat := nan2 ty a b (opMin ty a b)
def opMaxNan (ty : ElemType) (a b : Nat) : Nat := nan2 ty a b (opMax ty a b)

/-- A float element with its sign cleared; a NaN is quieted too. -/
def floatAbs (ty : ElemType) (a : Nat) : Nat :=
  let m := a % signBit ty
  if isNanBits ty a then quieted ty m else m

def floatNeg (ty : ElemType) (a : Nat) : Nat :=
  let m := a ^^^ signBit ty
  if isNanBits ty a then quieted ty m else m

def opAbs (ty : ElemType) (a : Nat) : Nat :=
  if ty.isFloat then floatAbs ty a else intBits ty.bits ((intVal ty a).natAbs : Int)

def opAbd (ty : ElemType) (rm a b : Nat) : Nat :=
  if ty.isFloat then nan2 ty a b (roundTo ty rm 0 ((floatVal ty a).add (rm == 2) (floatVal ty b).neg).abs)
  else intBits ty.bits ((intVal ty a - intVal ty b).natAbs : Int)

def opNeg (ty : ElemType) (a : Nat) : Nat := if ty.isFloat then floatNeg ty a else intBits ty.bits (-(a : Int))

def opSign (ty : ElemType) (a b : Nat) : Nat :=
  if ty.isFloat then
    nan2 ty a b (if (floatVal ty a).isZero then 0 else if (floatVal ty a).sign then b ^^^ signBit ty else b)
  else if intVal ty a = 0 then 0 else if intVal ty a < 0 then intBits ty.bits (-(b : Int)) else b

def opClamp (ty : ElemType) (a b c : Nat) : Nat := nan3 ty a b c (opMin ty (opMax ty a b) c)

/-- Half of an exact value. -/
def FV.half : FV → FV
  | .fin s n d => .fin s n (2 * d)
  | v => v

def opAvg (ty : ElemType) (rm a b : Nat) : Nat :=
  if ty.isFloat then nan2 ty a b (roundTo ty rm 0 ((floatVal ty a).add (rm == 2) (floatVal ty b)).half)
  else intBits ty.bits ((intVal ty a + intVal ty b + 1) / 2)

/-- Bits of a `n`-bit number from the top: how many are 0 before the first 1. -/
def clzBits : Nat → Nat → Nat
  | 0, _ => 0
  | n + 1, v => if v.testBit n then 0 else 1 + clzBits n v

def popBits : Nat → Nat → Nat
  | 0, _ => 0
  | n + 1, v => (v.testBit n).toNat + popBits n v

/-- b as a w-bit two's-complement integer. -/
def asSigned (w b : Nat) : Int := if 2 ^ (w - 1) ≤ b then (b : Int) - 2 ^ w else b

/-- VSCALE: beyond ±1,000 every exponent overflows or underflows alike. -/
def opScale (ty : ElemType) (rm a b : Nat) : Nat :=
  let k := clampInt (-1000) 1000 (asSigned ty.bits b)
  match floatVal ty a with
  | .nan => quieted ty a
  | .inf _ => a
  | .fin s n d =>
    if n = 0 then a
    else roundTo ty rm 0 (if 0 ≤ k then .fin s (n * 2 ^ k.toNat) d else .fin s n (d * 2 ^ (-k).toNat))

def opGetE (ty : ElemType) (a : Nat) : Nat :=
  match floatVal ty a with
  | .fin _ n d => if n = 0 then signBit ty else intBits ty.bits (log2Floor n d)
  | _ => signBit ty - 1

/-! ## Logic and shifts (R168, R169) -/

def opShl (ty : ElemType) (a k : Nat) : Nat := if ty.bits ≤ k then 0 else a * 2 ^ k % 2 ^ ty.bits
def opShr (ty : ElemType) (a k : Nat) : Nat := if ty.bits ≤ k then 0 else a / 2 ^ k
def opSra (ty : ElemType) (a k : Nat) : Nat :=
  intBits ty.bits (asSigned ty.bits a / 2 ^ (if ty.bits ≤ k then ty.bits - 1 else k))

/-- A 5-bit immediate as an element: sign-extended mod 2^w (R169). -/
def immElem (ty : ElemType) (k : BitVec 5) : Nat := intBits ty.bits k.toInt

/-! ## Compares and predicates (R170 to R173) -/

/-- One element's comparison. -/
def cmpElem (ty : ElemType) (cc : BitVec 4) (a b : Nat) : Bool :=
  if ty.isFloat then floatCond cc ((floatVal ty a).cmp (floatVal ty b))
  else intCond cc (intVal ty a) (intVal ty b) (a &&& b)

/-- VCMP. -/
def cmpLanes (ty : ElemType) (cc : BitVec 4) (a b : Vec) : Pred :=
  packPred ty.bytes ((List.zip (elems ty.bits a) (elems ty.bits b)).map fun p => cmpElem ty cc p.1 p.2)

/-- VCMP.i: the immediate taken as R169 takes it, or at its exact value for a float type. -/
def cmpImmLanes (ty : ElemType) (cc : BitVec 4) (a : Vec) (imm : BitVec 5) : Pred :=
  packPred ty.bytes ((elems ty.bits a).map fun x =>
    if ty.isFloat then floatCond cc ((floatVal ty x).cmp (.ofInt imm.toInt)) else cmpElem ty cc x (immElem ty imm))

/-- A mask of bytes from a predicate. -/
def predBytes (p : Pred) : Vec :=
  BitVec.ofNat 2048 ((upTo 256).foldr (fun i acc => (if p.getLsbD i then 255 else 0) + 256 * acc) 0)

def selLanes (p : Pred) (a b : Vec) : Vec := (a &&& predBytes p) ||| (b &&& ~~~predBytes p)

/-- VMASKW (R173). -/
def maskwLane (mode : BitVec 2) (q w k : Int) : Bool :=
  decide (0 ≤ k) && (match mode.toNat with
    | 0 => decide (q - w < k) && decide (k ≤ q)
    | 1 => decide (k ≤ q)
    | 2 => decide (q - w < k) && decide (k < q + w)
    | _ => decide (q ≤ k) && decide (k < q + w))

def maskwLanes (mode : BitVec 2) (q w : Word) (a : Vec) : Pred :=
  packPred 4 ((elems 32 a).map fun k => maskwLane mode q.toInt w.toInt (asSigned 32 k))

/-! ## Conversion (R174) -/

/-- One element from type `src` to `dst`. -/
def cvtElem (mode sr : Nat) (src dst : ElemType) (a : Nat) : Nat :=
  if isNanBits src a && dst.isFloat then
    match src, dst with
    | .f32, .bf16 => quieted .bf16 (a / 2 ^ 16)
    | .bf16, .f32 => quieted .f32 (a * 2 ^ 16)
    | _, _ => quieted dst a
  else roundTo dst mode sr (elemVal src a)

def cvtLanes (mode : Nat) (seed : BitVec 64) (src dst : ElemType) (a : Vec) : Vec :=
  let m := min (2048 / src.bits) (2048 / dst.bits)
  packElems dst.bits (((elems src.bits a).take m).zipIdx.map fun p => cvtElem mode (srBits seed 2 p.2) src dst p.1)

/-! ## Reductions and scans (R137, R175) -/

/-- The tree: `k` halvings of a list. -/
def redTree (op : Nat → Nat → Nat) : Nat → List Nat → Nat
  | 0, l => (l.head?).getD 0
  | k + 1, l =>
    let h := l.length / 2
    redTree op k ((List.zip (l.take h) (l.drop h)).map fun p => op p.1 p.2)

/-- One scan step at distance `k`. -/
def scanStep (op : Nat → Nat → Nat) (k : Nat) (l : List Nat) : List Nat :=
  l.take k ++ (List.zip l (l.drop k)).map fun p => op p.1 p.2

def scanTree (op : Nat → Nat → Nat) : Nat → Nat → List Nat → List Nat
  | 0, _, l => l
  | f + 1, k, l => scanTree op f (2 * k) (scanStep op k l)

/-- log2 of the element count. -/
def redLevels (ty : ElemType) : Nat := if ty.bits = 8 then 8 else if ty.bits = 16 then 7 else 6

/-- VSCAN.max starts from the element itself, with a NaN quieted (R175). -/
def scanFirst (ty : ElemType) (a : Nat) : Nat := if isNanBits ty a then quieted ty a else a

def redLanes (ty : ElemType) (op : Nat → Nat → Nat) (pre : Nat → Nat) (a : Vec) : Vec :=
  packElems ty.bits [redTree op (redLevels ty) ((elems ty.bits a).map pre)]

/-- VSCAN: the first element is no result of an operation, and stays as it is (R175; log entry 77). -/
def scanLanes (ty : ElemType) (op : Nat → Nat → Nat) (a : Vec) : Vec :=
  packElems ty.bits (scanTree op (redLevels ty) 1 (elems ty.bits a))

/-- VSCAN.max: as `scanLanes`, with a NaN in the first place quieted (R175). -/
def scanMaxLanes (ty : ElemType) (op : Nat → Nat → Nat) (a : Vec) : Vec :=
  match scanTree op (redLevels ty) 1 (elems ty.bits a) with
  | x :: xs => packElems ty.bits (scanFirst ty x :: xs)
  | [] => packElems ty.bits []

/-- Max of magnitudes, which for integers are read unsigned (R175). -/
def opAmax (ty : ElemType) (a b : Nat) : Nat := if ty.isFloat then opMax ty a b else max a b

/-! ## Lane movement (R177, R178) -/

def nth (l : List Nat) (i : Nat) : Nat := (l[i]?).getD 0

def permLanes (ty : ElemType) (a b : Vec) : Vec :=
  let l := elems ty.bits a
  packElems ty.bits ((elems ty.bits b).map fun j => nth l j)

def rotLanes (ty : ElemType) (r : Word) (a : Vec) : Vec :=
  let l := elems ty.bits a
  let k := (r.toInt % (l.length : Int)).toNat
  packElems ty.bits (l.drop k ++ l.take k)

def revLanes (ty : ElemType) (a : Vec) : Vec := packElems ty.bits (elems ty.bits a).reverse

def interleave : List Nat → List Nat → List Nat
  | a :: as, b :: bs => a :: b :: interleave as bs
  | _, _ => []

def zipLanes (ty : ElemType) (a b : Vec) : Vec :=
  let n := 2048 / ty.bits
  packElems ty.bits (interleave ((elems ty.bits a).take (n / 2)) ((elems ty.bits b).take (n / 2)))

/-- The elements at even places. -/
def evens : List Nat → List Nat
  | a :: _ :: l => a :: evens l
  | _ => []

def unzLanes (ty : ElemType) (a b : Vec) : Vec :=
  packElems ty.bits (evens (elems ty.bits a) ++ evens (elems ty.bits b))

def bcastLanes (ty : ElemType) (j : Word) (a : Vec) : Vec :=
  let n := 2048 / ty.bits
  packElems ty.bits (List.replicate n (if j.toNat < n then nth (elems ty.bits a) j.toNat else 0))

def splatLanes (ty : ElemType) (x : Nat) : Vec := packElems ty.bits (List.replicate (2048 / ty.bits) x)

def iotaLanes (ty : ElemType) : Vec := packElems ty.bits (upTo (2048 / ty.bits))

/-! ## Confidence tests (R187 to R189) -/

/-- The 16-byte exit record, low bit first: score, v1, v2, lane, row, exit, kind. -/
def exitRecord (score v1 v2 lane row : Nat) (exit drift : Bool) : BitVec 128 :=
  BitVec.ofNat 128 (score + 2 ^ 32 * v1 + 2 ^ 64 * v2 + 2 ^ 96 * lane + 2 ^ 104 * row + 2 ^ 112 * exit.toNat + 2 ^ 113 * drift.toNat)

/-- score ≥ threshold as .ge compares .f32. -/
def exits (score threshold : Nat) : Bool := floatCond 3 ((floatVal .f32 score).cmp (floatVal .f32 threshold))

/-- The largest element and the lowest place that holds it. -/
def topOf (l : List (Nat × Nat)) : Option (Nat × Nat) :=
  l.foldl (init := none) fun best p =>
    match best with
    | none => some p
    | some b => if floatLess .f32 b.1 p.1 then some p else some b

/-- VCONF.gap: (score, v1, v2, lane) (R188). With no element left the lane is 0, the model's choice: log entry 77. -/
def gapOf (a : Vec) : Nat × Nat × Nat × Nat :=
  let d := defaultNan .f32
  let l := (elems 32 a).zipIdx.filter fun p => !isNanBits .f32 p.1
  match topOf l with
  | none => (d, d, d, 0)
  | some (t1, i) =>
    match topOf (l.filter fun p => p.2 != i) with
    | none => (d, t1, d, i)
    | some (t2, _) => (roundTo .f32 rmRNE 0 ((floatVal .f32 t1).add false (floatVal .f32 t2).neg), t1, t2, i)

/-- Numerator and denominator of an exact sum of products. -/
def sumProd (a b : List Nat) : FV :=
  (List.zip a b).foldl (init := FV.zero) fun acc p => acc.add false ((floatVal .f32 p.1).mul (floatVal .f32 p.2))

/-- The record value of a row of VCONF.drift (R189). -/
def driftNorm (a : List Nat) : Nat :=
  if a.any (isNanBits .f32) then defaultNan .f32
  else if a.any (fun x => !(floatVal .f32 x).isFin) then infBits .f32 false
  else roundTo .f32 rmRNE 0 (sumProd a a)

/-- The cosine of VCONF.drift (R189). -/
def driftScore (a b : List Nat) : Nat :=
  if (a ++ b).any (fun x => !(floatVal .f32 x).isFin) then defaultNan .f32
  else match sumProd a b, sumProd a a, sumProd b b with
    | .fin s n d, .fin _ na da, .fin _ nb db =>
      if na = 0 ∨ nb = 0 then defaultNan .f32
      else roundTo .f32 rmRNE 0 (FV.sqrt s (n * n * da * db) (d * d * na * nb))
    | _, _, _ => defaultNan .f32

end Sys2Proof.Machine
end

