-- ==== Sys2Proof/Machine/Vector.lean ====
section
/-!
DEFINITION. The vector engine (R162 to R190): what its commands check, read, compute and write. The splitter's side of each word, its
meaning at issue, stands at the end.
-/

namespace Sys2Proof.Machine

/-! ## Registers -/

def State.v (s : State) (r : BitVec 5) : Vec := s.core.v[r.toNat]'(by omega)
def State.setV (s : State) (r : BitVec 5) (v : Vec) : State :=
  { s with core := { s.core with v := s.core.v.set r.toNat v (by omega) } }
def State.p (s : State) (r : BitVec 3) : Pred := s.core.p[r.toNat]'(by omega)

/-- p0 holds all ones; no word that names it as a destination passes the decoder (R19, R20). -/
def State.setP (s : State) (r : BitVec 3) (v : Pred) : State :=
  if r = 0 then s else { s with core := { s.core with p := s.core.p.set r.toNat v (by omega) } }

/-! ## Words on registers -/

/-- A three-operand word: `f ty rm a b c` per element, c the old destination. -/
def vec3 (s : State) (o : VRRR) (f : ElemType → Nat → Nat → Nat → Nat → Nat) : State :=
  s.setV o.d (mapLanes o.ty (f o.ty o.rm.toNat) (s.v o.a) (s.v o.b) (s.v o.d))
def vec2 (s : State) (o : VRRT) (f : ElemType → Nat → Nat → Nat) : State :=
  s.setV o.d (mapLanes o.ty (fun a b _ => f o.ty a b) (s.v o.a) (s.v o.b) (s.v o.b))
def vec1m (s : State) (o : VRRM) (f : ElemType → Nat → Nat) : State :=
  s.setV o.d (packElems o.ty.bits ((elems o.ty.bits (s.v o.a)).map (f o.ty)))
def vec1 (s : State) (o : VRR) (f : ElemType → Nat → Nat) : State :=
  s.setV o.d (packElems o.ty.bits ((elems o.ty.bits (s.v o.a)).map (f o.ty)))
def vecI (s : State) (o : VRI) (f : ElemType → Nat → Nat) : State :=
  s.setV o.d (packElems o.ty.bits ((elems o.ty.bits (s.v o.a)).map (f o.ty)))
def vecCvt (s : State) (seed : BitVec 64) (mode : Nat) (d a : BitVec 5) (src dst : ElemType) : State :=
  s.setV d (cvtLanes mode seed src dst (s.v a))
def vecRed (s : State) (o : VRRM) (op : ElemType → Nat → Nat → Nat → Nat) (pre : ElemType → Nat → Nat → Nat) : State :=
  s.setV o.d (redLanes o.ty (op o.ty o.rm.toNat) (pre o.ty o.rm.toNat) (s.v o.a))

/-- The effect of a VEC word that reads and writes registers only (R166 to R178). -/
def vecRegs (r : Running) (s : State) : State :=
  let x0 := r.entry.x0
  let x1 := r.entry.x1
  match r.entry.instr with
  | .vadd o => vec3 s o fun ty rm a b _ => opAdd ty rm a b
  | .vaddSat o => vec2 s o opAddSat
  | .vsub o => vec3 s o fun ty rm a b _ => opSub ty rm a b
  | .vsubSat o => vec2 s o opSubSat
  | .vmul o => vec3 s o fun ty rm a b _ => opMul ty rm a b
  | .vmulHi o => vec2 s o opMulHi
  | .vfma o => vec3 s o fun ty rm a b c => opFma ty rm false false a b c
  | .vfmaNp o => vec3 s o fun ty rm a b c => opFma ty rm true false a b c
  | .vfmaNa o => vec3 s o fun ty rm a b c => opFma ty rm false true a b c
  | .vfmaNn o => vec3 s o fun ty rm a b c => opFma ty rm true true a b c
  | .vmin o => vec3 s o fun ty _ a b _ => opMin ty a b
  | .vmax o => vec3 s o fun ty _ a b _ => opMax ty a b
  | .vminNan o => vec3 s o fun ty _ a b _ => opMinNan ty a b
  | .vmaxNan o => vec3 s o fun ty _ a b _ => opMaxNan ty a b
  | .vabs o => vec1m s o opAbs
  | .vabd o => vec3 s o fun ty rm a b _ => opAbd ty rm a b
  | .vneg o => vec1m s o opNeg
  | .vsign o => vec3 s o fun ty _ a b _ => opSign ty a b
  | .vclamp o => vec3 s o fun ty _ a b c => opClamp ty a b c
  | .vavg o => vec3 s o fun ty rm a b _ => opAvg ty rm a b
  | .vmov o => vec1m s o fun _ a => a
  | .vclz o => vec1 s o fun ty a => clzBits ty.bits a
  | .vpopc o => vec1 s o fun ty a => popBits ty.bits a
  | .vscale o => vec3 s o fun ty rm a b _ => opScale ty rm a b
  | .vgete o => vec1m s o opGetE
  | .vand o => s.setV o.d (s.v o.a &&& s.v o.b)
  | .vor o => s.setV o.d (s.v o.a ||| s.v o.b)
  | .vxor o => s.setV o.d (s.v o.a ^^^ s.v o.b)
  | .vnot o => s.setV o.d (~~~s.v o.a)
  | .vshl o => vec2 s o opShl
  | .vshr o => vec2 s o opShr
  | .vsra o => vec2 s o opSra
  | .vshlI o => vecI s o fun ty a => opShl ty a o.k.toNat
  | .vshrI o => vecI s o fun ty a => opShr ty a o.k.toNat
  | .vsraI o => vecI s o fun ty a => opSra ty a o.k.toNat
  | .vaddI o => vecI s o fun ty a => opAdd ty 0 a (immElem ty o.k)
  | .vminI o => vecI s o fun ty a => opMin ty a (immElem ty o.k)
  | .vmaxI o => vecI s o fun ty a => opMax ty a (immElem ty o.k)
  | .vcmp c cc a b ty => s.setP c (cmpLanes ty cc (s.v a) (s.v b))
  | .vcmpI c cc a imm ty => s.setP c (cmpImmLanes ty cc (s.v a) imm)
  | .vsel d a b _ _ p => s.setV d (selLanes (s.p p) (s.v a) (s.v b))
  | .vmask d p => s.setV d (predBytes (s.p p))
  | .vmaskw c mode a _ _ => s.setP c (maskwLanes mode x0 x1 (s.v a))
  | .vcvtRne d a _ src dst => vecCvt s r.seed rmRNE d a src dst
  | .vcvtRz d a _ src dst => vecCvt s r.seed rmRZ d a src dst
  | .vcvtRd d a _ src dst => vecCvt s r.seed rmRD d a src dst
  | .vcvtRu d a _ src dst => vecCvt s r.seed rmRU d a src dst
  | .vcvtSr d a _ src dst => vecCvt s r.seed rmSR d a src dst
  | .vredSum o => vecRed s o (fun ty rm a b => opAdd ty rm a b) fun _ _ a => a
  | .vredMax o => vecRed s o (fun ty _ a b => opMax ty a b) fun _ _ a => a
  | .vredMin o => vecRed s o (fun ty _ a b => opMin ty a b) fun _ _ a => a
  | .vredAmax o => vecRed s o (fun ty _ a b => opAmax ty a b) fun ty _ a => opAbs ty a
  | .vredSsq o => vecRed s o (fun ty rm a b => opAdd ty rm a b) fun ty rm a => opMul ty rm a a
  | .vscanSum o => s.setV o.d (scanLanes o.ty (opAdd o.ty o.rm.toNat) (s.v o.a))
  | .vscanMax o => s.setV o.d (scanMaxLanes o.ty (opMax o.ty) (s.v o.a))
  | .vexp2 o => vec1 s o exp2Elem
  | .vlog2 o => vec1 s o log2Elem
  | .vrcp o => vec1 s o rcpElem
  | .vrsq o => vec1 s o rsqElem
  | .vperm o => s.setV o.d (permLanes o.ty (s.v o.a) (s.v o.b))
  | .vpermRot o => s.setV o.d (rotLanes o.ty x0 (s.v o.a))
  | .vpermRev o => s.setV o.d (revLanes o.ty (s.v o.a))
  | .vpermZip o => s.setV o.d (zipLanes o.ty (s.v o.a) (s.v o.b))
  | .vpermUnz o => s.setV o.d (unzLanes o.ty (s.v o.a) (s.v o.b))
  | .vbcast o => s.setV o.d (bcastLanes o.ty x0 (s.v o.a))
  | .vsplat d _ ty => s.setV d (splatLanes ty x0.toNat)
  | .vsplatI d imm => s.setV d (splatLanes .s32 (imm.signExtend 32).toNat)
  | .vsplatL d imm => s.setV d (splatLanes .s32 imm.toNat)
  | .viota d ty => s.setV d (iotaLanes ty)
  | .pand d a b _ _ => s.setP d (s.p a &&& s.p b)
  | .por d a b _ _ => s.setP d (s.p a ||| s.p b)
  | .pxor d a b _ _ => s.setP d (s.p a ^^^ s.p b)
  | .pnot d a _ => s.setP d (~~~s.p a)
  | _ => s

/-! ## Memory words (R179 to R184) -/

/-- The shape of a VEC memory word: its descriptor, whether it loads, and its qualifier. -/
structure VMem where
  load : Bool
  qual : Qual
deriving DecidableEq, Repr

def vecMem : Instr → Option VMem
  | .vldW _ => some ⟨true, .loadW⟩
  | .vldC _ => some ⟨true, .loadC⟩
  | .vldN _ => some ⟨true, .loadN⟩
  | .vstW _ => some ⟨false, .storeW⟩
  | .vstN _ => some ⟨false, .storeN⟩
  | .vgthW _ => some ⟨true, .loadW⟩
  | .vgthC _ => some ⟨true, .loadC⟩
  | .vgthN _ => some ⟨true, .loadN⟩
  | .vsctW _ => some ⟨false, .storeW⟩
  | .vsctN _ => some ⟨false, .storeN⟩
  | .pld _ _ _ _ => some ⟨true, .loadW⟩
  | .pst _ _ _ _ => some ⟨false, .storeN⟩
  | _ => none

/-- The row of elements that fills `bytes` bytes from the word's two coordinates (R179, R183). -/
def rowCoords (d : TDesc) (x0 x1 : Word) (bytes : Nat) : List (Option (List Int)) :=
  (upTo (bytes / fmtSize (descFmt d))).map fun (k : Nat) => some [x0.toInt + (k : Int), x1.toInt, 0, 0]

/-- The elements of the 64 lanes of a gather or scatter; none for a 4-byte lane that is not active (R182). -/
def laneCoords (d : TDesc) (idx : Vec) (p : Pred) : List (Option (List Int)) :=
  (upTo 64).flatMap fun j =>
    if p.getLsbD (4 * j) then
      let c0 : Int := ((idx.extractLsb' (32 * j) 16).toNat : Nat)
      let c1 : Int := ((idx.extractLsb' (32 * j + 16) 16).toNat : Nat)
      (upTo (4 / fmtSize (descFmt d))).map fun (k : Nat) => some [c0 + (k : Int), c1, 0, 0]
    else [none]

/-- The element list of a memory word. -/
def vecCoords (r : Running) (s : State) : List (Option (List Int)) :=
  match r.entry.instr with
  | .vgthW o => laneCoords r.d1 (s.v o.vi) (s.p o.p)
  | .vgthC o => laneCoords r.d1 (s.v o.vi) (s.p o.p)
  | .vgthN o => laneCoords r.d1 (s.v o.vi) (s.p o.p)
  | .vsctW o => laneCoords r.d1 (s.v o.vi) (s.p o.p)
  | .vsctN o => laneCoords r.d1 (s.v o.vi) (s.p o.p)
  | .pld _ _ _ _ => rowCoords r.d1 r.entry.x0 r.entry.x1 32
  | .pst _ _ _ _ => rowCoords r.d1 r.entry.x0 r.entry.x1 32
  | _ => rowCoords r.d1 r.entry.x0 r.entry.x1 256

/-- The word records absence in p[sr.resp] instead of trapping (R159, R184). -/
def recordsAbsence (resp : BitVec 3) : Instr → Bool
  | .pld _ _ _ _ => false
  | i => resp != 0 && (match vecMem i with | some m => m.load | none => false)

/-- Every element's checks in order (R180); a part with its residency. -/
def vecParts (by_ : AccessBy) (d : TDesc) (s : State) (zeroAbsent : Bool) :
    List (Option (List Int)) → Except Cause (List (Part × Bool))
  | [] => .ok []
  | none :: cs =>
    match vecParts by_ d s zeroAbsent cs with
    | .error e => .error e
    | .ok l => .ok ((.lit 0 4, true) :: l)
  | some c :: cs =>
    let here : Except Cause (Part × Bool) :=
      match elemPart s by_ d c with
      | .ok p => .ok (p, true)
      | .error (.absent va) => if zeroAbsent then .ok (.lit 0 (fmtSize (descFmt d)), false) else .error (.nres va)
      | .error (.trap e) => .error e
    match here with
    | .error e => .error e
    | .ok x =>
      match vecParts by_ d s zeroAbsent cs with
      | .error e => .error e
      | .ok l => .ok (x :: l)

/-- The residency bits by byte lane. -/
def residency (l : List (Part × Bool)) : Pred :=
  BitVec.ofNat 256 (l.foldr (fun p acc => (if p.2 then 2 ^ p.1.size - 1 else 0) + 2 ^ p.1.size * acc) 0)

/-- Address of the exit record of VCONF (R187). -/
def confAddr (r : Running) : Nat := r.confrec.toNat + 16 * (r.entry.x0.extractLsb' 32 8).toNat

/-- The checks of a VCONF word at its start (R187). -/
def confCheck (r : Running) : Option Cause :=
  if r.entry.x0.extractLsb' 40 24 != 0 then some .confarg
  else if r.confrec.extractLsb' 0 4 != 0 || decide (Config.spadSize < confAddr r + 16) then some (.spad (confAddr r))
  else none

/-- What a VEC command refuses at its start. The space is checked element by element (R180). -/
def vecStart (r : Running) : Option Cause :=
  match vecMem r.entry.instr with
  | some _ => if isPlane (descFmt r.d1) then some .fmt else none
  | none =>
    match r.entry.instr with
    | .vconfGap _ _ _ => confCheck r
    | .vconfDrift _ _ _ _ => confCheck r
    | _ => none

/-- The checks of a VEC command and the pieces it reads. -/
def vecPlan (r : Running) (s : State) : Planned :=
  match vecMem r.entry.instr with
  | none => .none s
  | some m =>
    match vecParts (r.by_ permVec) r.d1 (r.view s) (recordsAbsence r.resp r.entry.instr) (vecCoords r s) with
    | .error e => .trap e
    | .ok l =>
      let ps := l.map (·.1)
      let s := r.touch permVec ps s
      if m.load then .go (readVisits m.qual ps []) ps [] (residency l) s else .go [] [] ps 0 s

/-- A loaded vector, with the residency predicate while sr.resp is nonzero. -/
def vecLoaded (r : Running) (s : State) (d : BitVec 5) : State :=
  let s := s.setV d (BitVec.ofNat 2048 (partsVal r.got r.src))
  if r.resp = 0 then s else s.setP r.resp r.aux

/-- A stored value, spread over the destination parts in lane order. -/
def vecStored (r : Running) (s : State) (q : Qual) (v : Nat) : Acted := ⟨s, writeVisits q (spreadVal r.dst v), 0⟩

/-- The decision and record of a confidence test: bit r of the predicate, and 16 bytes at sr.confrec (R187). -/
def vecConf (r : Running) (s : State) (c : BitVec 3) (score v1 v2 lane : Nat) (drift : Bool) : Acted :=
  let x := r.entry.x0
  let row := (x.extractLsb' 32 8).toNat
  let e := exits score (x.extractLsb' 0 32).toNat
  let a := spadAddr s.selfRank (confAddr r)
  let s := s.setP c (setBit (s.p c) row e)
  ⟨s, [⟨a / 16, .spad (a / 16), .engine, BitVec.allOnes 16, exitRecord score v1 v2 lane row e drift⟩], 0⟩

/-- What a VEC command does once its pieces are read. -/
def vecAct (r : Running) (s : State) : Acted :=
  match r.entry.instr with
  | .vldW o => .only (vecLoaded r s o.v)
  | .vldC o => .only (vecLoaded r s o.v)
  | .vldN o => .only (vecLoaded r s o.v)
  | .vgthW o => .only (vecLoaded r s o.v)
  | .vgthC o => .only (vecLoaded r s o.v)
  | .vgthN o => .only (vecLoaded r s o.v)
  | .pld p _ _ _ => .only (s.setP p (BitVec.ofNat 256 (partsVal r.got r.src)))
  | .vstW o => vecStored r s .storeW (s.v o.v).toNat
  | .vstN o => vecStored r s .storeN (s.v o.v).toNat
  | .vsctW o => vecStored r s .storeW (s.v o.v).toNat
  | .vsctN o => vecStored r s .storeN (s.v o.v).toNat
  | .pst p _ _ _ => vecStored r s .storeN (s.p p).toNat
  | .vconfGap c a _ =>
    let (score, v1, v2, lane) := gapOf (s.v a)
    vecConf r s c score v1 v2 lane false
  | .vconfDrift c a b _ =>
    let x := elems 32 (s.v a)
    let y := elems 32 (s.v b)
    vecConf r s c (driftScore x y) (driftNorm x) (driftNorm y) 0 true
  | _ => .only (vecRegs r s)

/-- A speculative task's VEC command waits at the queue head: a destination, a consumed source or a record outside the frame
(R340). -/
def vecHeld (i : Instr) (d1 : TDesc) (confrec : BitVec 22) (x0 : Word) (s : State) : Bool :=
  let conf :=
    let a : Int := (confrec.toNat + 16 * (x0.extractLsb' 32 8).toNat : Nat)
    s.specNow && !s.inFrame a (a + 16)
  match i with
  | .vconfGap _ _ _ => conf
  | .vconfDrift _ _ _ _ => conf
  | _ =>
    match vecMem i with
    | some m => (!m.load || m.qual == .loadC) && s.outsideFrame d1
    | none => false

/-! ## At the splitter -/

def execVadd (o : VRRR) (s : State) : Out := issueWord .vec (.vadd o) s
def execVaddSat (o : VRRT) (s : State) : Out := issueWord .vec (.vaddSat o) s
def execVsub (o : VRRR) (s : State) : Out := issueWord .vec (.vsub o) s
def execVsubSat (o : VRRT) (s : State) : Out := issueWord .vec (.vsubSat o) s
def execVmul (o : VRRR) (s : State) : Out := issueWord .vec (.vmul o) s
def execVmulHi (o : VRRT) (s : State) : Out := issueWord .vec (.vmulHi o) s
def execVfma (o : VRRR) (s : State) : Out := issueWord .vec (.vfma o) s
def execVfmaNp (o : VRRR) (s : State) : Out := issueWord .vec (.vfmaNp o) s
def execVfmaNa (o : VRRR) (s : State) : Out := issueWord .vec (.vfmaNa o) s
def execVfmaNn (o : VRRR) (s : State) : Out := issueWord .vec (.vfmaNn o) s
def execVmin (o : VRRR) (s : State) : Out := issueWord .vec (.vmin o) s
def execVmax (o : VRRR) (s : State) : Out := issueWord .vec (.vmax o) s
def execVminNan (o : VRRR) (s : State) : Out := issueWord .vec (.vminNan o) s
def execVmaxNan (o : VRRR) (s : State) : Out := issueWord .vec (.vmaxNan o) s
def execVabs (o : VRRM) (s : State) : Out := issueWord .vec (.vabs o) s
def execVabd (o : VRRR) (s : State) : Out := issueWord .vec (.vabd o) s
def execVneg (o : VRRM) (s : State) : Out := issueWord .vec (.vneg o) s
def execVsign (o : VRRR) (s : State) : Out := issueWord .vec (.vsign o) s
def execVclamp (o : VRRR) (s : State) : Out := issueWord .vec (.vclamp o) s
def execVavg (o : VRRR) (s : State) : Out := issueWord .vec (.vavg o) s
def execVmov (o : VRRM) (s : State) : Out := issueWord .vec (.vmov o) s
def execVclz (o : VRR) (s : State) : Out := issueWord .vec (.vclz o) s
def execVpopc (o : VRR) (s : State) : Out := issueWord .vec (.vpopc o) s
def execVscale (o : VRRR) (s : State) : Out := issueWord .vec (.vscale o) s
def execVgete (o : VRRM) (s : State) : Out := issueWord .vec (.vgete o) s
def execVand (o : VRRT) (s : State) : Out := issueWord .vec (.vand o) s
def execVor (o : VRRT) (s : State) : Out := issueWord .vec (.vor o) s
def execVxor (o : VRRT) (s : State) : Out := issueWord .vec (.vxor o) s
def execVnot (o : VRR) (s : State) : Out := issueWord .vec (.vnot o) s
def execVshl (o : VRRT) (s : State) : Out := issueWord .vec (.vshl o) s
def execVshr (o : VRRT) (s : State) : Out := issueWord .vec (.vshr o) s
def execVsra (o : VRRT) (s : State) : Out := issueWord .vec (.vsra o) s
def execVshlI (o : VRI) (s : State) : Out := issueWord .vec (.vshlI o) s
def execVshrI (o : VRI) (s : State) : Out := issueWord .vec (.vshrI o) s
def execVsraI (o : VRI) (s : State) : Out := issueWord .vec (.vsraI o) s
def execVaddI (o : VRI) (s : State) : Out := issueWord .vec (.vaddI o) s
def execVminI (o : VRI) (s : State) : Out := issueWord .vec (.vminI o) s
def execVmaxI (o : VRI) (s : State) : Out := issueWord .vec (.vmaxI o) s
def execVcmp (c : BitVec 3) (cc : BitVec 4) (a b : BitVec 5) (ty : ElemType) (s : State) : Out := issueWord .vec (.vcmp c cc a b ty) s
def execVcmpI (c : BitVec 3) (cc : BitVec 4) (a : BitVec 5) (imm : BitVec 5) (ty : ElemType) (s : State) : Out := issueWord .vec (.vcmpI c cc a imm ty) s
def execVsel (d a b : BitVec 5) (ta tb : Bool) (p : BitVec 3) (s : State) : Out := issueWord .vec (.vsel d a b ta tb p) s
def execVmask (d : BitVec 5) (p : BitVec 3) (s : State) : Out := issueWord .vec (.vmask d p) s
def execVmaskw (c : BitVec 3) (mode : BitVec 2) (a q w : BitVec 5) (s : State) : Out := issueWord .vec (.vmaskw c mode a q w) s
def execVcvtRne (d a : BitVec 5) (ta : Bool) (src dst : ElemType) (s : State) : Out := issueWord .vec (.vcvtRne d a ta src dst) s
def execVcvtRz (d a : BitVec 5) (ta : Bool) (src dst : ElemType) (s : State) : Out := issueWord .vec (.vcvtRz d a ta src dst) s
def execVcvtRd (d a : BitVec 5) (ta : Bool) (src dst : ElemType) (s : State) : Out := issueWord .vec (.vcvtRd d a ta src dst) s
def execVcvtRu (d a : BitVec 5) (ta : Bool) (src dst : ElemType) (s : State) : Out := issueWord .vec (.vcvtRu d a ta src dst) s
def execVcvtSr (d a : BitVec 5) (ta : Bool) (src dst : ElemType) (s : State) : Out := issueWord .vec (.vcvtSr d a ta src dst) s
def execVredSum (o : VRRM) (s : State) : Out := issueWord .vec (.vredSum o) s
def execVredMax (o : VRRM) (s : State) : Out := issueWord .vec (.vredMax o) s
def execVredMin (o : VRRM) (s : State) : Out := issueWord .vec (.vredMin o) s
def execVredAmax (o : VRRM) (s : State) : Out := issueWord .vec (.vredAmax o) s
def execVredSsq (o : VRRM) (s : State) : Out := issueWord .vec (.vredSsq o) s
def execVscanSum (o : VRRM) (s : State) : Out := issueWord .vec (.vscanSum o) s
def execVscanMax (o : VRRM) (s : State) : Out := issueWord .vec (.vscanMax o) s
def execVexp2 (o : VRR) (s : State) : Out := issueWord .vec (.vexp2 o) s
def execVlog2 (o : VRR) (s : State) : Out := issueWord .vec (.vlog2 o) s
def execVrcp (o : VRR) (s : State) : Out := issueWord .vec (.vrcp o) s
def execVrsq (o : VRR) (s : State) : Out := issueWord .vec (.vrsq o) s
def execVperm (o : VRRT) (s : State) : Out := issueWord .vec (.vperm o) s
def execVpermRot (o : VRI) (s : State) : Out := issueWord .vec (.vpermRot o) s
def execVpermRev (o : VRR) (s : State) : Out := issueWord .vec (.vpermRev o) s
def execVpermZip (o : VRRT) (s : State) : Out := issueWord .vec (.vpermZip o) s
def execVpermUnz (o : VRRT) (s : State) : Out := issueWord .vec (.vpermUnz o) s
def execVbcast (o : VRI) (s : State) : Out := issueWord .vec (.vbcast o) s
def execVsplat (d a : BitVec 5) (ty : ElemType) (s : State) : Out := issueWord .vec (.vsplat d a ty) s
def execVsplatI (d : BitVec 5) (imm : BitVec 17) (s : State) : Out := issueWord .vec (.vsplatI d imm) s
def execViota (d : BitVec 5) (ty : ElemType) (s : State) : Out := issueWord .vec (.viota d ty) s
def execPand (d a b : BitVec 3) (ta tb : Bool) (s : State) : Out := issueWord .vec (.pand d a b ta tb) s
def execPor (d a b : BitVec 3) (ta tb : Bool) (s : State) : Out := issueWord .vec (.por d a b ta tb) s
def execPxor (d a b : BitVec 3) (ta tb : Bool) (s : State) : Out := issueWord .vec (.pxor d a b ta tb) s
def execPnot (d a : BitVec 3) (ta : Bool) (s : State) : Out := issueWord .vec (.pnot d a ta) s
def execVldW (o : VM) (s : State) : Out := issueWord .vec (.vldW o) s
def execVldC (o : VM) (s : State) : Out := issueWord .vec (.vldC o) s
def execVldN (o : VM) (s : State) : Out := issueWord .vec (.vldN o) s
def execVstW (o : VM) (s : State) : Out := issueWord .vec (.vstW o) s
def execVstN (o : VM) (s : State) : Out := issueWord .vec (.vstN o) s
def execVgthW (o : VG) (s : State) : Out := issueWord .vec (.vgthW o) s
def execVgthC (o : VG) (s : State) : Out := issueWord .vec (.vgthC o) s
def execVgthN (o : VG) (s : State) : Out := issueWord .vec (.vgthN o) s
def execVsctW (o : VG) (s : State) : Out := issueWord .vec (.vsctW o) s
def execVsctN (o : VG) (s : State) : Out := issueWord .vec (.vsctN o) s
def execPld (p : BitVec 3) (dn : BitVec 6) (x0 x1 : BitVec 5) (s : State) : Out := issueWord .vec (.pld p dn x0 x1) s
def execPst (p : BitVec 3) (dn : BitVec 6) (x0 x1 : BitVec 5) (s : State) : Out := issueWord .vec (.pst p dn x0 x1) s
def execVconfGap (c : BitVec 3) (a x : BitVec 5) (s : State) : Out := issueWord .vec (.vconfGap c a x) s
def execVconfDrift (c : BitVec 3) (a b x : BitVec 5) (s : State) : Out := issueWord .vec (.vconfDrift c a b x) s
def execVsig (t : BitVec 4) (s : State) : Out := issueWord .vec (.vsig t) s
def execVwaitk (t : BitVec 4) (s : State) : Out := issueWord .vec (.vwaitk t) s
def execVsplatL (d : BitVec 5) (imm : BitVec 32) (s : State) : Out := issueLong .vec (.vsplatL d imm) 1 imm s

end Sys2Proof.Machine
end

