-- ==== Sys2Proof/Machine/Matrix.lean ====
section
/-!
DEFINITION. The matrix engine (R192 to R210): multiply-accumulate, tile control, MPACK, readout, tile images and status.
-/

namespace Sys2Proof.Machine

/-! ## Tiles (R131 to R134) -/

def State.tile (s : State) (t : Nat) : Tile := s.core.a[t % 16]'(Nat.mod_lt _ (by decide))
def State.setTile (s : State) (t : Nat) (v : Tile) : State :=
  { s with core := { s.core with a := s.core.a.set (t % 16) v (Nat.mod_lt _ (by decide)) } }

/-- Element 32 i + j of a tile. -/
def Tile.elem (t : Tile) (k : Nat) : AccElem := t.elems[k % 1024]'(Nat.mod_lt _ (by decide))

/-- The NF table (R133); the argument is 0 for a finite addend, else its own NF code. -/
def combineNF (a b : BitVec 2) : BitVec 2 := if b = 0 then a else if a = 0 then b else if a = b then a else 3

/-- floor(v / 2^g) of a finite value. -/
def floorScaled (s : Bool) (n d : Nat) (g : Int) : Int :=
  if 0 ≤ g then sgn s n / ((d * 2 ^ g.toNat : Nat) : Int) else sgn s (n * 2 ^ (-g).toNat) / (d : Int)

/-- XAdd of one product to an element (R61, R132, R133). -/
def xadd (g : Int) (e : AccElem) : FV → AccElem
  | .nan => { e with nf := combineNF e.nf 3 }
  | .inf s => { e with nf := combineNF e.nf (if s then 2 else 1) }
  | .fin s n d => { e with g := e.g + BitVec.ofInt 136 (floorScaled s n d g) }

/-- A tile emptied, with its anchor kept or given. -/
def clearedTile (anchor : BitVec 16) : Tile := ⟨Vector.replicate 1024 AccElem.zero, anchor, false⟩

/-- A tile written anew has no uncorrectable element left. -/
def State.freshTile (s : State) (t : Nat) (v : Tile) : State :=
  { s.setTile t v with accPoison := s.accPoison.filter fun p => p.1 != t % 16 }

/-! ## Multiply-accumulate (R192 to R200) -/

/-- A command of the MMA family: required D1 fmt, whether zero points are read, the tile field, .zf. -/
structure Mma where
  fmt : Nat
  z : Bool
  t : BitVec 4
  zf : Bool
deriving DecidableEq, Repr

def mmaOf : Instr → Option Mma
  | .mmaS8 _ _ _ t zf => some ⟨0, false, t, zf⟩
  | .mmaN8 _ _ _ t zf => some ⟨3, false, t, zf⟩
  | .mmaBfx8 _ _ _ t zf => some ⟨8, false, t, zf⟩
  | .mmaS16 _ _ _ t zf => some ⟨1, false, t, zf⟩
  | .mmaN16 _ _ _ t zf => some ⟨4, false, t, zf⟩
  | .mmaBfx16 _ _ _ t zf => some ⟨9, false, t, zf⟩
  | .mmaZS8 _ _ _ t zf => some ⟨0, true, t, zf⟩
  | .mmaZN8 _ _ _ t zf => some ⟨3, true, t, zf⟩
  | .mmaZS16 _ _ _ t zf => some ⟨1, true, t, zf⟩
  | .mmaZN16 _ _ _ t zf => some ⟨4, true, t, zf⟩
  | .mgoS8 _ _ _ t zf => some ⟨0, false, t, zf⟩
  | .mgoN8 _ _ _ t zf => some ⟨3, false, t, zf⟩
  | .mgoBfx8 _ _ _ t zf => some ⟨8, false, t, zf⟩
  | .mgoS16 _ _ _ t zf => some ⟨1, false, t, zf⟩
  | .mgoN16 _ _ _ t zf => some ⟨4, false, t, zf⟩
  | .mgoBfx16 _ _ _ t zf => some ⟨9, false, t, zf⟩
  | _ => none

/-- A readout to memory: required D1 fmt, tile field and mode (R204). -/
structure Mrd where
  fmt : Nat
  t : BitVec 4
  mode : BitVec 3
deriving DecidableEq, Repr

def mrdOf : Instr → Option Mrd
  | .mrdF32 _ _ t q => some ⟨6, t, q⟩
  | .mrdBf16 _ _ t q => some ⟨7, t, q⟩
  | .mrdBfx8 _ _ t q => some ⟨8, t, q⟩
  | .mrdS8 _ _ t q => some ⟨0, t, q⟩
  | .mrdN8 _ _ t q => some ⟨3, t, q⟩
  | .mrdS32 _ _ t q => some ⟨2, t, q⟩
  | _ => none

/-- A readout to vectors: element type, destination, row group, tile and mode (R205). -/
structure Mrdv where
  ty : ElemType
  v : BitVec 5
  g : BitVec 3
  t : BitVec 4
  mode : BitVec 3
deriving DecidableEq, Repr

def mrdvOf : Instr → Option Mrdv
  | .mrdvF32 v g t q => some ⟨.f32, v, g, t, q⟩
  | .mrdvBf16 v g t q => some ⟨.bf16, v, g, t, q⟩
  | .mrdvS32 v g t q => some ⟨.s32, v, g, t, q⟩
  | _ => none

/-- The tile field of a command with a tile operand in its nest. -/
def tileField (i : Instr) : Option (BitVec 4) :=
  match mmaOf i, mrdOf i, i with
  | some m, _, _ => some m.t
  | _, some m, _ => some m.t
  | _, _, .msta _ _ t => some t
  | _, _, .mlda _ _ t => some t
  | _, _, _ => none

/-- The tile of iteration `k` (R192). -/
def tileAt (r : Running) (t : BitVec 4) (k : Nat) : Int := (t.toNat : Int) + nestCoord r.nest (iterIdx r.bounds k) 2 0 0

/-- The tile of the current iteration, or TILE. -/
def Running.tile (r : Running) (t : BitVec 4) : Except Cause Nat :=
  let k := tileAt r t r.iter
  if k < 0 ∨ 15 < k then .error (.tile k) else .ok k.toNat

/-- The values that a tile coordinate takes over the levels of a nest, from those in `acc`. -/
def tileReach (n : BitVec 1024) : List Nat → Nat → List Int → List Int
  | [], _, acc => acc
  | b :: bs, k, acc =>
    let w := nestStep n k 2
    let next :=
      if b = 0 then []
      else if stepOn w && stepDim w == 0 then (acc.flatMap fun x => (upTo b).map fun (i : Nat) => x + stepBy w * (i : Int)).eraseDups
      else acc
    tileReach n bs (k + 1) next

/-- The tiles that a command writes through its tile operand and marks EMPTY when it starts (R197). -/
def mtxTiles (r : Running) : RegSet :=
  let named (t : BitVec 4) : RegSet :=
    (tileReach r.nest r.bounds 0 [(t.toNat : Int)]).foldl (init := RegSet.none) fun acc x =>
      if x < 0 ∨ 15 < x then acc else acc.union (.ofA (BitVec.ofNat 4 x.toNat))
  match mmaOf r.entry.instr, r.entry.instr with
  | some m, _ => named m.t
  | none, .mlda _ _ t => named t
  | none, _ => .none

/-- This is the earliest iteration, in nest order, that names its tile (R196). -/
def Running.firstNaming (r : Running) (t : BitVec 4) : Bool :=
  (upTo r.iter).all fun k => tileAt r t k != tileAt r t r.iter

/-- K, the parallel elements per row of an iteration (R127, R193). -/
def kOf (fmt : Nat) : Nat := if fmtSize fmt = 1 then 96 else 48

/-- Parallel element coordinates, row by row. -/
def parCoords (r : Running) (k : Nat) : List (List Int) :=
  (upTo 32).flatMap fun i => (upTo k).map fun e => along1 (along (r.coords 0) e) (i : Nat)

/-- Serial row coordinates. -/
def serCoords (r : Running) (k : Nat) : List (List Int) := (upTo k).map fun e => along1 (r.coords 1) (e : Nat)

/-- The place of serial column `j` in its plane group: dimension 0 wraps column by column (R148). -/
def serBit (d : TDesc) (j : Nat) : Nat := if descWrap d 0 = 0 then j else j % 2 ^ descWrap d 0

/-- The engine keeps the parallel rows that it read last, and reads none where the operand-0 coordinates are those of the iteration before
(R200). -/
def Running.sameRows (r : Running) : Bool := r.rows != [] && r.rowsAt == r.coords 0

/-- The parts that an iteration of the MMA family uses: parallel elements, their headers, plane words, their headers (R195). The first that fails in this order
is reported, by the model's choice: log entry 87. -/
def mmaParts (r : Running) (s : State) (m : Mma) : Except Stop (List Part) :=
  let by_ := r.by_ permMtx
  let k := kOf m.fmt
  let headers (d : TDesc) (cs : List (List Int)) : Except Stop (List Part) :=
    if hasHeader d then collect (headerPart s by_ d) cs else .ok []
  match collect (elemPart s by_ r.d1) (parCoords r k), headers r.d1 (parCoords r k),
        collect (groupParts s by_ r.d2) (serCoords r k), headers r.d2 (serCoords r k) with
  | .ok a, .ok ha, .ok b, .ok hb => .ok ((if r.sameRows then r.rows else a ++ ha) ++ b.flatten ++ hb)
  | .error e, _, _, _ => .error e
  | _, .error e, _, _ => .error e
  | _, _, .error e, _ => .error e
  | _, _, _, .error e => .error e

/-- The operand values of an iteration: 32 rows of K parallel values, K rows of 32 serial values (R193). -/
def mmaValues (r : Running) (m : Mma) : List (List FV) × List (List FV) :=
  let k := kOf m.fmt
  let vals := r.src.map (partVal r.got)
  let a := vals.take (32 * k)
  let rest := vals.drop (32 * k)
  let ha := if hasHeader r.d1 then rest.take (32 * k) else List.replicate (32 * k) 0
  let rest := if hasHeader r.d1 then rest.drop (32 * k) else rest
  let p := planes r.d2
  let b := chunks p k rest
  let hb := if hasHeader r.d2 then rest.drop (p * k) else List.replicate k 0
  let xs := (List.zip ha a).map fun q => byteVal r.d1 m.z q.1 q.2
  let ys := (List.zip hb b).map fun q => (upTo 32).map fun j => planeVal r.d2 m.z q.1 (groupElem r.d2 q.2 (serBit r.d2 j))
  (chunks k 32 xs, ys)

/-- Column `j` of a list of rows. -/
def column (rows : List (List FV)) (j : Nat) : List FV := rows.map fun row => (row[j]?).getD FV.zero

/-- All XAdds of an iteration (R193). -/
def mmaTile (t : Tile) (xs ys : List (List FV)) : Tile :=
  let cols := (upTo 32).map (column ys)
  let g := t.anchor.toInt
  let sum (n : Fin 1024) : AccElem :=
    (List.zip ((xs[n.val / 32]?).getD []) ((cols[n.val % 32]?).getD [])).foldl
      (fun e q => xadd g e (q.1.mul q.2)) (t.elem n.val)
  { t with elems := Vector.ofFn sum }

/-- The anchor that .zf sets (R196). -/
def zfAnchor (r : Running) : BitVec 16 :=
  BitVec.ofInt 16 (clampInt (-32768) 32767 (descAnchor r.d1 + descAnchor r.d2))

/-- An iteration of the MMA family. -/
def mmaAct (r : Running) (s : State) (m : Mma) : State :=
  match r.tile m.t with
  | .error _ => s
  | .ok t =>
    let s := if m.zf && r.firstNaming m.t then s.freshTile t (clearedTile (zfAnchor r)) else s
    let (xs, ys) := mmaValues r m
    s.setTile t (mmaTile (s.tile t) xs ys)

/-! ## Tile control (R201, R202) -/

def zeroTile (t : Tile) : Tile := clearedTile t.anchor

/-- MANCH: every finite element on the new grid. -/
def reanchor (t : Tile) (g' : Int) : Tile :=
  let g := t.anchor.toInt
  let onGrid (e : AccElem) : Int := if 0 ≤ g - g' then e.g.toInt * 2 ^ (g - g').toNat else e.g.toInt / 2 ^ (g' - g).toNat
  let out (e : AccElem) : Bool := e.nf == 0 && (decide (onGrid e < -(2 ^ 135)) || decide (2 ^ 135 - 1 < onGrid e))
  { elems := t.elems.map fun e => if e.nf = 0 then { e with g := BitVec.ofInt 136 (onGrid e) } else e,
    anchor := BitVec.ofInt 16 g', range := t.range || t.elems.any out }

/-- MANCH's new anchor. -/
def manchTo (r : Running) : Int :=
  match r.entry.instr with
  | .manchI _ imm => imm.toInt
  | _ => r.entry.x0.toInt

/-! ## Readout (R135, R136) -/

/-- X′ of an element, and whether it saturated. -/
def readG (g : Int) : Int × Bool :=
  if -(2 ^ 127) ≤ g ∧ g < 2 ^ 127 then (g, false) else if g < 0 then (-(2 ^ 127), true) else (2 ^ 127 - 1, true)

/-- V = X′ · 2^g, with its NF code in place of a non-finite value, and whether X′ saturated. -/
def readV (anchor : Int) (e : AccElem) : FV × Bool :=
  let x := readG e.g.toInt
  if e.nf = 1 then (.inf false, x.2)
  else if e.nf = 2 then (.inf true, x.2)
  else if e.nf = 3 then (.nan, x.2)
  else (if x.1 = 0 then FV.zero else .scaled (decide (x.1 < 0)) x.1.natAbs anchor, x.2)

/-- V exceeds a float format's largest finite magnitude. -/
def beyondFloat (ty : ElemType) : FV → Bool
  | .fin _ n d => decide ((2 ^ floatPrec ty - 1) * 2 ^ (128 - floatPrec ty) * d < n)
  | _ => false

/-- Element bits and whether RANGE is set (R135). -/
def readElem (ty : ElemType) (mode sr : Nat) (anchor : Int) (e : AccElem) : Nat × Bool :=
  let (v, sat) := readV anchor e
  if ty.isFloat then (roundTo ty mode sr v, sat || beyondFloat ty v)
  else
    let out := match v with
      | .fin s n d => let i := roundInt mode sr s n d; decide (i < intMin ty) || decide (intMax ty < i)
      | _ => true
    (roundTo ty mode sr v, sat || out)

/-- SR coordinate of a destination element (R122). -/
def srCoord (c : List Int) : Nat :=
  let m (k : Nat) : Nat := (c.getD k 0 % 65536).toNat
  m 0 + 2 ^ 16 * m 1 + 2 ^ 32 * m 2 + 2 ^ 48 * m 3

/-- Destination coordinates of an MRD, row by row. -/
def mrdCoords (r : Running) : List (List Int) :=
  (upTo 32).flatMap fun i => (upTo 32).map fun j => along1 (along (r.coords 0) j) (i : Nat)

/-- The coordinates of the 32 destination blocks of MRD.bfx8. -/
def mrdBlocks (r : Running) : List (List Int) := (upTo 32).map fun i => along1 (r.coords 0) (i : Nat)

/-- The values that an MRD writes, elements first and then block headers, and whether RANGE is set. -/
def mrdValues (r : Running) (m : Mrd) (t : Tile) : List Nat × Bool :=
  let a := t.anchor.toInt
  let mode := m.mode.toNat
  let sr (c : List Int) : Nat := if mode = rmSR then srBits r.seed 0 (srCoord c) else 0
  if m.fmt = 8 then
    let rows := (upTo 32).map fun i =>
      let vs := (upTo 32).map fun j => readV a (t.elem (32 * i + j))
      let (h, bytes, sat) := quantBfx8 mode (fun j => sr (along1 (along (r.coords 0) j) (i : Nat))) (vs.map (·.1))
      (h.toNat, bytes, sat || vs.any (·.2))
    (rows.flatMap (fun x => x.2.1) ++ rows.map (·.1), rows.any fun x => x.2.2)
  else
    let out := ((mrdCoords r).zipIdx).map fun p => readElem (fmtType m.fmt) mode (sr p.1) a (t.elem p.2)
    (out.map (·.1), out.any (·.2))

def State.raiseRange (s : State) (t : Nat) (b : Bool) : State :=
  if b then s.setTile t { s.tile t with range := true } else s

/-- The elements of a row group read out to vectors (R205). -/
def mrdvValues (r : Running) (m : Mrdv) (t : Tile) : List Nat × Bool :=
  let out := (upTo 128).map fun e =>
    let k := 128 * m.g.toNat + e
    readElem m.ty m.mode.toNat (if m.mode.toNat = rmSR then srBits r.seed 1 k else 0) t.anchor.toInt (t.elem k)
  (out.map (·.1), out.any (·.2))

/-- MRDV writes one register for .bf16, two otherwise. -/
def mrdvAct (r : Running) (s : State) (m : Mrdv) : State :=
  let (vals, range) := mrdvValues r m (s.tile m.t.toNat)
  let s := s.raiseRange m.t.toNat range
  if m.ty = .bf16 then s.setV m.v (packElems 16 vals)
  else (s.setV m.v (packElems 32 (vals.take 64))).setV (m.v + 1) (packElems 32 (vals.drop 64))

/-! ## Tile images and status (R206 to R208) -/

/-- The 125-bit GS of a finite G, and whether it was clamped. -/
def imageG (g : Int) : Int × Bool :=
  if -(2 ^ 124) ≤ g ∧ g < 2 ^ 124 then (g, false) else if g < 0 then (-(2 ^ 124), true) else (2 ^ 124 - 1, true)

/-- The 1,024 words of a tile's image (R206, R207). -/
def tileImage (t : Tile) : List Nat :=
  let clamped := t.elems.any fun e => e.nf == 0 && (imageG e.g.toInt).2
  let mu := t.anchor.toNat + (if t.range || clamped then 2 ^ 16 else 0)
  (upTo 1024).map fun k =>
    let e := t.elem k
    let body := if e.nf = 0 then intBits 125 (imageG e.g.toInt).1 else e.nf.toNat * 2 ^ 126
    body + (mu.testBit k).toNat * 2 ^ 125

/-- The tile of an image. -/
def imageTile (ws : List Nat) : Tile :=
  let w (k : Nat) : Nat := (ws[k]?).getD 0
  let mu := (upTo 17).foldr (fun k acc => ((w k).testBit 125).toNat + 2 * acc) 0
  let one (k : Fin 1024) : AccElem := ⟨BitVec.ofNat 2 (w k.val / 2 ^ 126), (BitVec.ofNat 125 (w k.val)).signExtend 136⟩
  { elems := Vector.ofFn one, anchor := BitVec.ofNat 16 mu, range := mu.testBit 16 }

/-- The address of D1's element, which must be a multiple of 16, with `n` bytes that stay in their scratchpad (R207, R208). -/
def imageParts (r : Running) (s : State) (c : List Int) (n : Nat) : Except Cause (List Part) :=
  match wrapFrom r.d1 0 c with
  | .error e => .error e
  | .ok k =>
    let a := linearAddr r.d1 k
    if a % 16 ≠ 0 then .error (.align (BitVec.ofNat 64 a))
    else if descSpace r.d1 ≤ 1 ∧ Config.spadSize < (if descSpace r.d1 = 0 then a else a % Config.spadSize) + n then
      .error (.spad a)
    else match blockParts s (r.by_ permMtx) (descSpace r.d1) a n with
      | .error e => .error e.cause
      | .ok ps => .ok ps

/-- The 16-byte status record (R208). -/
def mstatRecord (s : State) (t : Tile) : Nat :=
  let inf := t.elems.any fun e => e.nf == 1 || e.nf == 2
  let nan := t.elems.any fun e => e.nf == 3
  let wide := t.elems.any fun e => e.nf == 0 && (readG e.g.toInt).2
  let nosave := t.elems.any fun e => e.nf == 0 && (imageG e.g.toInt).2
  t.anchor.toNat + 2 ^ 16 * t.range.toNat + 2 ^ 17 * inf.toNat + 2 ^ 18 * nan.toNat + 2 ^ 19 * wide.toNat +
    2 ^ 20 * nosave.toNat + 2 ^ 32 * s.core.mtxDone.toNat + 2 ^ 64 * s.now.toNat

/-! ## Checks -/

/-- The NEST check (R192): an enabled step of an operand that the command lacks, a tile step beyond dimension 0, or a tile origin. -/
def nestBad (r : Running) (has1 has2 : Bool) : Bool :=
  (!has1 && nestMoves r.nest 1) || (!has2 && nestMoves r.nest 2) || nestMovesBeyond0 r.nest 2 ||
    nestOrg r.nest 2 2 != 0 || nestOrg r.nest 2 3 != 0

/-- A serial format that MMA takes (R128, R194). -/
def serialOk (d : TDesc) (z : Bool) : Bool :=
  (isPB (descFmt d) && !z) || (isPI (descFmt d) && !descNosel d)

/-- What an MTX command refuses at its start. -/
def mtxStart (n : Nat) (r : Running) : Option Cause :=
  let i := r.entry.instr
  match mmaOf i, mrdOf i, i with
  | some m, _, _ =>
    if nestBad r true true then some .nest
    else if descFmt r.d1 != m.fmt || !serialOk r.d2 m.z then some .fmt
    else if !descLocal r.d1 || !descLocal r.d2 then some (.spaceStart n)
    else none
  | _, some m, _ =>
    if nestBad r false true then some .nest
    else if descFmt r.d1 != m.fmt then some .fmt
    else if descSpace r.d1 = 3 then some (.spaceStart n)
    else none
  | _, _, .mpackPi _ _ _ _ =>
    if nestBad r true false then some .nest
    else if !isPI (descFmt r.d1) || planePairBad r.d1 r.d2 true then some .fmt
    else if !descLocal r.d1 || !descLocal r.d2 then some (.spaceStart n)
    else none
  | _, _, .mpackPb _ _ _ _ =>
    if nestBad r true false then some .nest
    else if !isPB (descFmt r.d1) || planePairBad r.d1 r.d2 true then some .fmt
    else if !descLocal r.d1 || !descLocal r.d2 then some (.spaceStart n)
    else none
  | _, _, .msta _ _ _ => if nestBad r false true then some .nest else if descSpace r.d1 = 3 then some (.spaceStart n) else none
  | _, _, .mlda _ _ _ => if nestBad r false true then some .nest else if descSpace r.d1 = 3 then some (.spaceStart n) else none
  | _, _, .mstat _ _ => if descSpace r.d1 = 3 then some (.spaceStart n) else none
  | _, _, .manch _ _ => if manchTo r < -32768 ∨ 32767 < manchTo r then some (.anchorC (manchTo r)) else none
  | _, _, _ => none

/-- The accumulator elements that an iteration reads: tile, first element, count (R210). -/
def accReads (r : Running) : Option (Nat × Nat × Nat) :=
  let i := r.entry.instr
  let of_ (t : BitVec 4) : Option (Nat × Nat × Nat) :=
    match r.tile t with | .ok k => some (k, 0, 1024) | .error _ => none
  match mmaOf i, mrdOf i, mrdvOf i, i with
  | some m, _, _, _ => if m.zf && r.firstNaming m.t then none else of_ m.t
  | _, some m, _, _ => of_ m.t
  | _, _, some m, _ => some (m.t.toNat, 128 * m.g.toNat, 128)
  | _, _, _, .msta _ _ t => of_ t
  | _, _, _, .mstat _ t => some (t.toNat, 0, 1024)
  | _, _, _, _ => none

/-- The lowest uncorrectable element among those read: its NF becomes 3 and ECC is raised (R210). That the others wait for the restarts is the
model's choice: log entry 87. -/
def accEcc (r : Running) (s : State) : Option (State × Cause) :=
  match accReads r with
  | none => none
  | some (t, lo, n) =>
    match (upTo n).find? fun k => s.accPoison.contains (t, lo + k) with
    | none => none
    | some k =>
      let e := lo + k
      let tile := s.tile t
      let bad : AccElem := ⟨3, (tile.elem e).g⟩
      let tile : Tile := ⟨tile.elems.set (e % 1024) bad (Nat.mod_lt _ (by decide)), tile.anchor, tile.range⟩
      some ({ s.setTile t tile with accPoison := s.accPoison.filter (· != (t, e)) }, .eccTile t e)

/-- A coordinate that must be a multiple of 32. -/
def unaligned32 (c : List Int) : Bool := c.getD 0 0 % 32 != 0

/-- MPACK's parts (R203): the source elements and header, then the destination words and header. The affine pair of an .pi source whose 32 elements lie in
two blocks is that of the block of the first, the model's choice: log entry 77. -/
def mpackParts (r : Running) (s : State) (pb : Bool) : Except Stop (List Part × List Part) :=
  let by_ := r.by_ permMtx
  let rule := headerRule r.d2 r.d1 pb
  let hdr (d : TDesc) (c : List Int) (b : Bool) : Except Stop (List Part) :=
    if b then match headerPart s by_ d c with | .ok p => .ok [p] | .error e => .error e else .ok []
  match collect (elemPart s by_ r.d2) ((upTo 32).map (along (r.coords 1))), hdr r.d2 (r.coords 1) (rule == .copy),
        groupParts s by_ r.d1 (r.coords 0), hdr r.d1 (r.coords 0) (rule != .none) with
  | .ok a, .ok ha, .ok b, .ok hb => .ok (a ++ ha, b ++ hb)
  | .error e, _, _, _ => .error e
  | _, .error e, _, _ => .error e
  | _, _, .error e, _ => .error e
  | _, _, _, .error e => .error e

def mpackPlan (n : Nat) (r : Running) (s : State) (pb : Bool) : Planned :=
  if unaligned32 (r.coords 0) || (pb && unaligned32 (r.coords 1)) then .trap (.alignStart n)
  else match mpackParts r (r.view s) pb with
    | .error e => .trap e.cause
    | .ok (src, dst) => .go (readVisits .loadW src []) src dst 0 s

/-- The destination values of an MPACK or CPPLANE group: plane words, then the header that the rule gives. -/
def packGroup (plane byte : TDesc) (rule : HeaderRule) (bits : List Nat) (header : Nat) : List Nat :=
  groupWords plane (bits.map (toPlane plane byte)) ++
    (match rule with | .none => [] | .copy => [header] | .unit => [unitPair])

def sizesOf (ps : List Part) : Nat := ps.foldl (fun n p => n + p.size) 0

def mpackAct (r : Running) (s : State) (pb : Bool) : Acted :=
  let vals := r.src.map (partVal r.got)
  let out := packGroup r.d1 r.d2 (headerRule r.d2 r.d1 pb) (vals.take 32) ((vals[32]?).getD 0)
  ⟨s, writeVisits .engine (List.zip r.dst out), sizesOf r.dst⟩

/-- The destination parts of an MRD: elements, then block headers. -/
def mrdParts (r : Running) (s : State) (m : Mrd) : Except Stop (List Part) :=
  let by_ := r.by_ permMtx
  match collect (elemPart s by_ r.d1) (mrdCoords r),
        (if m.fmt = 8 then collect (headerPart s by_ r.d1) (mrdBlocks r) else .ok []) with
  | .ok a, .ok b => .ok (a ++ b)
  | .error e, _ => .error e
  | _, .error e => .error e

/-- The checks of an iteration of an MTX command and the pieces it reads. -/
def mtxPlan (n : Nat) (r : Running) (s : State) : Planned :=
  let i := r.entry.instr
  let v := r.view s
  let tileOk (t : BitVec 4) (k : Planned) : Planned := match r.tile t with | .error e => .trap e | .ok _ => k
  let guarded (k : Planned) : Planned := match accEcc r s with | some (s', c) => .trapIn s' c | none => k
  match mmaOf i, mrdOf i, i with
  | some m, _, _ =>
    tileOk m.t (if unaligned32 (r.coords 1) then .trap (.alignStart n)
      else match mmaParts r v m with
        | .error e => .trap e.cause
        | .ok ps => guarded (.go (readVisits .loadW ps []) ps [] 0 s))
  | _, some m, _ =>
    tileOk m.t (if m.fmt = 8 && unaligned32 (r.coords 0) then .trap (.alignStart n)
      else match mrdParts r v m with
        | .error e => .trap e.cause
        | .ok ps => guarded (.go [] [] ps 0 (r.touch permMtx ps s)))
  | _, _, .mpackPi _ _ _ _ => mpackPlan n r s false
  | _, _, .mpackPb _ _ _ _ => mpackPlan n r s true
  | _, _, .msta _ _ t =>
    tileOk t (match imageParts r v (r.coords 0) 16384 with
      | .error e => .trap e
      | .ok ps => guarded (.go [] [] ps 0 (r.touch permMtx ps s)))
  | _, _, .mlda _ _ t =>
    tileOk t (match imageParts r v (r.coords 0) 16384 with
      | .error e => .trap e
      | .ok ps => .go (readVisits .loadW ps []) ps [] 0 (r.touch permMtx ps s))
  | _, _, .mstat _ _ =>
    match imageParts r v [r.entry.x0.toInt, r.entry.x1.toInt, 0, 0] 16 with
    | .error e => .trap e
    | .ok ps => guarded (.go [] [] ps 0 (r.touch permMtx ps s))
  | _, _, _ => guarded (.none s)

/-- What an iteration of an MTX command does once its pieces are read. -/
def mtxAct (r : Running) (s : State) : Acted :=
  let i := r.entry.instr
  match mmaOf i, mrdOf i, mrdvOf i, i with
  | some m, _, _, _ => .only (mmaAct r s m)
  | _, some m, _, _ =>
    match r.tile m.t with
    | .error _ => .only s
    | .ok t =>
      let (vals, range) := mrdValues r m (s.tile t)
      ⟨s.raiseRange t range, writeVisits .engine (List.zip r.dst vals), 0⟩
  | _, _, some m, _ => .only (mrdvAct r s m)
  | _, _, _, .mzero t => .only (s.freshTile t.toNat (zeroTile (s.tile t.toNat)))
  | _, _, _, .mzeroAll => .only ((upTo 16).foldl (fun s t => s.freshTile t (zeroTile (s.tile t))) s)
  | _, _, _, .manch t _ => .only (s.setTile t.toNat (reanchor (s.tile t.toNat) (manchTo r)))
  | _, _, _, .manchI t _ => .only (s.setTile t.toNat (reanchor (s.tile t.toNat) (manchTo r)))
  | _, _, _, .mpackPi _ _ _ _ => mpackAct r s false
  | _, _, _, .mpackPb _ _ _ _ => mpackAct r s true
  | _, _, _, .msta _ _ t =>
    match r.tile t with
    | .error _ => .only s
    | .ok k => ⟨s, writeVisits .engine (List.zip r.dst (tileImage (s.tile k))), 0⟩
  | _, _, _, .mlda _ _ t =>
    match r.tile t with
    | .error _ => .only s
    | .ok k => .only (s.freshTile k (imageTile (r.src.map (partVal r.got))))
  | _, _, _, .mstat _ t => ⟨s, writeVisits .engine (spreadVal r.dst (mstatRecord s (s.tile t.toNat))), 0⟩
  | _, _, _, _ => .only s

/-- The parallel rows of an iteration of the MMA family as values, to be kept for the next one (R200). -/
def mtxRows (r : Running) : List Part :=
  match mmaOf r.entry.instr with
  | some m =>
    let n := 32 * kOf m.fmt
    (r.src.take (if hasHeader r.d1 then 2 * n else n)).map fun p => .lit (partVal r.got p) p.size
  | none => []

/-- A piece of MSTAT's record as it is written: its time is that of the write (R208). -/
def stampWrite (i : Instr) (now : BitVec 64) (v : WVisit) : WVisit :=
  match i with
  | .mstat _ _ => { v with data := now ++ v.data.extractLsb' 0 64 }
  | _ => v

/-- The Count slot of an MTX command (R203). -/
def mtxSlot : Instr → Option (BitVec 4)
  | .mpackPi _ _ _ b => some b
  | .mpackPb _ _ _ b => some b
  | _ => none

/-- A speculative task's MTX command waits at the queue head (R340). -/
def mtxHeld (i : Instr) (d1 : TDesc) (bbase : BitVec 22) (s : State) : Bool :=
  match mrdOf i, i with
  | some _, _ => s.outsideFrame d1
  | none, .mpackPi _ _ _ b => s.outsideFrame d1 || s.slotOutside bbase b
  | none, .mpackPb _ _ _ b => s.outsideFrame d1 || s.slotOutside bbase b
  | none, .msta _ _ _ => s.outsideFrame d1
  | none, .mstat _ _ => s.outsideFrame d1
  | none, _ => false

/-! ## At the splitter -/

def execMzero (t : BitVec 4) (s : State) : Out := issueWord .mtx (.mzero t) s
def execMzeroAll  (s : State) : Out := issueWord .mtx .mzeroAll s
def execManch (t : BitVec 4) (a : BitVec 5) (s : State) : Out := issueWord .mtx (.manch t a) s
def execManchI (t : BitVec 4) (imm : BitVec 12) (s : State) : Out := issueWord .mtx (.manchI t imm) s
def execMmaS8 (d1 d2 : BitVec 6) (n : BitVec 3) (t : BitVec 4) (zf : Bool) (s : State) : Out := issueWord .mtx (.mmaS8 d1 d2 n t zf) s
def execMmaN8 (d1 d2 : BitVec 6) (n : BitVec 3) (t : BitVec 4) (zf : Bool) (s : State) : Out := issueWord .mtx (.mmaN8 d1 d2 n t zf) s
def execMmaBfx8 (d1 d2 : BitVec 6) (n : BitVec 3) (t : BitVec 4) (zf : Bool) (s : State) : Out := issueWord .mtx (.mmaBfx8 d1 d2 n t zf) s
def execMmaS16 (d1 d2 : BitVec 6) (n : BitVec 3) (t : BitVec 4) (zf : Bool) (s : State) : Out := issueWord .mtx (.mmaS16 d1 d2 n t zf) s
def execMmaN16 (d1 d2 : BitVec 6) (n : BitVec 3) (t : BitVec 4) (zf : Bool) (s : State) : Out := issueWord .mtx (.mmaN16 d1 d2 n t zf) s
def execMmaBfx16 (d1 d2 : BitVec 6) (n : BitVec 3) (t : BitVec 4) (zf : Bool) (s : State) : Out := issueWord .mtx (.mmaBfx16 d1 d2 n t zf) s
def execMmaZS8 (d1 d2 : BitVec 6) (n : BitVec 3) (t : BitVec 4) (zf : Bool) (s : State) : Out := issueWord .mtx (.mmaZS8 d1 d2 n t zf) s
def execMmaZN8 (d1 d2 : BitVec 6) (n : BitVec 3) (t : BitVec 4) (zf : Bool) (s : State) : Out := issueWord .mtx (.mmaZN8 d1 d2 n t zf) s
def execMmaZS16 (d1 d2 : BitVec 6) (n : BitVec 3) (t : BitVec 4) (zf : Bool) (s : State) : Out := issueWord .mtx (.mmaZS16 d1 d2 n t zf) s
def execMmaZN16 (d1 d2 : BitVec 6) (n : BitVec 3) (t : BitVec 4) (zf : Bool) (s : State) : Out := issueWord .mtx (.mmaZN16 d1 d2 n t zf) s
def execMgoS8 (d1 d2 : BitVec 6) (n : BitVec 3) (t : BitVec 4) (zf : Bool) (s : State) : Out := issueWord .mtx (.mgoS8 d1 d2 n t zf) s
def execMgoN8 (d1 d2 : BitVec 6) (n : BitVec 3) (t : BitVec 4) (zf : Bool) (s : State) : Out := issueWord .mtx (.mgoN8 d1 d2 n t zf) s
def execMgoBfx8 (d1 d2 : BitVec 6) (n : BitVec 3) (t : BitVec 4) (zf : Bool) (s : State) : Out := issueWord .mtx (.mgoBfx8 d1 d2 n t zf) s
def execMgoS16 (d1 d2 : BitVec 6) (n : BitVec 3) (t : BitVec 4) (zf : Bool) (s : State) : Out := issueWord .mtx (.mgoS16 d1 d2 n t zf) s
def execMgoN16 (d1 d2 : BitVec 6) (n : BitVec 3) (t : BitVec 4) (zf : Bool) (s : State) : Out := issueWord .mtx (.mgoN16 d1 d2 n t zf) s
def execMgoBfx16 (d1 d2 : BitVec 6) (n : BitVec 3) (t : BitVec 4) (zf : Bool) (s : State) : Out := issueWord .mtx (.mgoBfx16 d1 d2 n t zf) s
def execMpackPi (d1 d2 : BitVec 6) (n : BitVec 3) (s : BitVec 4) (st : State) : Out := issueWord .mtx (.mpackPi d1 d2 n s) st
def execMpackPb (d1 d2 : BitVec 6) (n : BitVec 3) (s : BitVec 4) (st : State) : Out := issueWord .mtx (.mpackPb d1 d2 n s) st
def execMrdF32 (d1 : BitVec 6) (n : BitVec 3) (t : BitVec 4) (q : BitVec 3) (s : State) : Out := issueWord .mtx (.mrdF32 d1 n t q) s
def execMrdBf16 (d1 : BitVec 6) (n : BitVec 3) (t : BitVec 4) (q : BitVec 3) (s : State) : Out := issueWord .mtx (.mrdBf16 d1 n t q) s
def execMrdBfx8 (d1 : BitVec 6) (n : BitVec 3) (t : BitVec 4) (q : BitVec 3) (s : State) : Out := issueWord .mtx (.mrdBfx8 d1 n t q) s
def execMrdS8 (d1 : BitVec 6) (n : BitVec 3) (t : BitVec 4) (q : BitVec 3) (s : State) : Out := issueWord .mtx (.mrdS8 d1 n t q) s
def execMrdN8 (d1 : BitVec 6) (n : BitVec 3) (t : BitVec 4) (q : BitVec 3) (s : State) : Out := issueWord .mtx (.mrdN8 d1 n t q) s
def execMrdS32 (d1 : BitVec 6) (n : BitVec 3) (t : BitVec 4) (q : BitVec 3) (s : State) : Out := issueWord .mtx (.mrdS32 d1 n t q) s
def execMrdvF32 (v : BitVec 5) (g : BitVec 3) (t : BitVec 4) (q : BitVec 3) (s : State) : Out := issueWord .mtx (.mrdvF32 v g t q) s
def execMrdvBf16 (v : BitVec 5) (g : BitVec 3) (t : BitVec 4) (q : BitVec 3) (s : State) : Out := issueWord .mtx (.mrdvBf16 v g t q) s
def execMrdvS32 (v : BitVec 5) (g : BitVec 3) (t : BitVec 4) (q : BitVec 3) (s : State) : Out := issueWord .mtx (.mrdvS32 v g t q) s
def execMsta (d1 : BitVec 6) (n : BitVec 3) (t : BitVec 4) (s : State) : Out := issueWord .mtx (.msta d1 n t) s
def execMlda (d1 : BitVec 6) (n : BitVec 3) (t : BitVec 4) (s : State) : Out := issueWord .mtx (.mlda d1 n t) s
def execMstat (d1 : BitVec 6) (t : BitVec 4) (s : State) : Out := issueWord .mtx (.mstat d1 t) s
def execMsig (t : BitVec 4) (s : State) : Out := issueWord .mtx (.msig t) s
def execMwaitk (t : BitVec 4) (s : State) : Out := issueWord .mtx (.mwaitk t) s

end Sys2Proof.Machine
end

