-- ==== Sys2Proof/Machine/Copy.lean ====
section
/-!
DEFINITION. The copy engines LDQ and STQ (R212 to R224).
-/

namespace Sys2Proof.Machine

/-- What a copy does with a row (R213, R214, R216, R217). -/
inductive CopyKind where
  | move | toPlane | fromPlane | fill | prefetch | writeback
deriving DecidableEq, Repr

/-- A copy command: its action, the qualifiers of its local source and destination, which operand an index moves (1 for the source,
0 for the destination), its Count slot, its KV policy, and whether its global reads join the read set. -/
structure CopyOp where
  kind : CopyKind
  sq : Qual
  dq : Qual
  index : Option Nat
  slot : Option (BitVec 4)
  q : BitVec 3
  tracked : Bool
deriving DecidableEq, Repr

def copyIn (k : CopyKind) (dq : Qual) (b : BitVec 4) (q : BitVec 3) (tracked : Bool) : CopyOp :=
  ⟨k, .loadW, dq, none, some b, q, tracked⟩
def copyGath (dq : Qual) (b : BitVec 4) (q : BitVec 3) (tracked : Bool) : CopyOp :=
  ⟨.move, .loadW, dq, some 1, some b, q, tracked⟩
def copyOut (k : CopyKind) (sq : Qual) (b : BitVec 4) : CopyOp := ⟨k, sq, .engine, none, some b, 0, true⟩
def copyScat (sq : Qual) (b : BitVec 4) : CopyOp := ⟨.move, sq, .engine, some 0, some b, 0, true⟩

def copyOf : Instr → Option CopyOp
  | .cpinW _ _ _ b q => some (copyIn .move .storeW b q true)
  | .cpinN _ _ _ b q => some (copyIn .move .storeN b q true)
  | .cpinWNt _ _ _ b q => some (copyIn .move .storeW b q false)
  | .cpinNNt _ _ _ b q => some (copyIn .move .storeN b q false)
  | .cpgathW _ _ _ b q => some (copyGath .storeW b q true)
  | .cpgathN _ _ _ b q => some (copyGath .storeN b q true)
  | .cpgathWNt _ _ _ b q => some (copyGath .storeW b q false)
  | .cpgathNNt _ _ _ b q => some (copyGath .storeN b q false)
  | .cpplaneW _ _ _ b q => some (copyIn .toPlane .storeW b q true)
  | .cpplaneN _ _ _ b q => some (copyIn .toPlane .storeN b q true)
  | .cpplaneWNt _ _ _ b q => some (copyIn .toPlane .storeW b q false)
  | .cpplaneNNt _ _ _ b q => some (copyIn .toPlane .storeN b q false)
  | .cpfillW _ _ b => some (copyIn .fill .storeW b 0 true)
  | .cpfillN _ _ b => some (copyIn .fill .storeN b 0 true)
  | .cpmovW _ _ _ b => some { copyIn .move .storeW b 0 true with sq := .loadC }
  | .cpmovN _ _ _ b => some { copyIn .move .storeN b 0 true with sq := .loadC }
  | .cppre _ _ => some ⟨.prefetch, .loadN, .storeN, none, none, 0, false⟩
  | .cpoutW _ _ _ b => some (copyOut .move .loadW b)
  | .cpoutC _ _ _ b => some (copyOut .move .loadC b)
  | .cpoutN _ _ _ b => some (copyOut .move .loadN b)
  | .cpscatW _ _ _ b => some (copyScat .loadW b)
  | .cpscatC _ _ _ b => some (copyScat .loadC b)
  | .cpscatN _ _ _ b => some (copyScat .loadN b)
  | .cpdeplW _ _ _ b => some (copyOut .fromPlane .loadW b)
  | .cpdeplC _ _ _ b => some (copyOut .fromPlane .loadC b)
  | .cpdeplN _ _ _ b => some (copyOut .fromPlane .loadN b)
  | .cpwb _ _ b => some (copyOut .writeback .loadN b)
  | .cpinv _ _ b => some (copyOut .writeback .loadN b)
  | _ => none

/-- A command of STQ (R212, R217). -/
def isStq : Instr → Bool
  | .cpoutW _ _ _ _ => true
  | .cpoutC _ _ _ _ => true
  | .cpoutN _ _ _ _ => true
  | .cpscatW _ _ _ _ => true
  | .cpscatC _ _ _ _ => true
  | .cpscatN _ _ _ _ => true
  | .cpdeplW _ _ _ _ => true
  | .cpdeplC _ _ _ _ => true
  | .cpdeplN _ _ _ _ => true
  | .cpwb _ _ _ => true
  | .cpinv _ _ _ => true
  | _ => false

/-- CPMOV, whose operands are both local. -/
def isMov : Instr → Bool
  | .cpmovW _ _ _ _ => true
  | .cpmovN _ _ _ _ => true
  | _ => false

/-- The spaces that operands 0 and 1 may lie in (R212). -/
def copySpaces (i : Instr) (op : CopyOp) (d1 d2 : TDesc) : Bool :=
  let s1 := descSpace d1
  let s2 := descSpace d2
  match op.kind with
  | .prefetch => s1 == 2
  | .writeback => s1 == 2
  | .fill => descLocal d1
  | _ =>
    if isStq i then (descLocal d1 || s1 == 2) && descLocal d2
    else descLocal d1 && (descLocal d2 || (!isMov i && (s2 == 2 || s2 == 3)))

/-- A fmt pair that a command does not take (R203, R214, R216). -/
def copyFmtBad (op : CopyOp) (d1 d2 : TDesc) : Bool :=
  let f := descFmt d1
  let g := descFmt d2
  match op.kind with
  | .move =>
    descAffine d1 != descAffine d2 ||
      (if f < 8 ∧ g < 8 then fmtSize f != fmtSize g
       else f != g || descNosign d1 != descNosign d2 || descNosel d1 != descNosel d2)
  | .toPlane => planePairBad d1 d2 true
  | .fromPlane => planePairBad d2 d1 false
  | .fill => decide (8 ≤ f)
  | _ => false

/-- What a copy refuses at its start (R212 to R214). -/
def copyStart (n : Nat) (r : Running) : Option Cause :=
  match copyOf r.entry.instr with
  | none => none
  | some op =>
    let x := r.entry.x4
    let global := descSpace r.d1 == 2 || (op.kind != .fill && op.kind != .prefetch && op.kind != .writeback && descSpace r.d2 == 2)
    if !copySpaces r.entry.instr op r.d1 r.d2 then some (.spaceStart n)
    else if op.index.isSome then
      if x.extractLsb' 6 58 != 0 then some .arg
      else if !descLocal r.d3 || !(descFmt r.d3 == 2 || descFmt r.d3 == 5) then some .fmt
      else if copyFmtBad op r.d1 r.d2 then some .fmt
      else none
    else if op.kind != .fill && x.extractLsb' 0 4 != 0 then some (.alignStart n)
    else if op.kind != .fill && x != 0 && !global then some .arg
    else if copyFmtBad op r.d1 r.d2 then some .fmt
    else none

/-- The permission a copy's global accesses need (R158). -/
def copyPerm (i : Instr) : BitVec 8 := if isStq i then permStq else permLdq

/-- The access of a copy with its displacement (R212). -/
def copyBy (r : Running) (op : CopyOp) : AccessBy :=
  let disp : Int := if op.index.isSome || op.kind == .fill then 0 else r.entry.x4.toInt
  ⟨r.ctx.extractLsb' 0 4, copyPerm r.entry.instr, disp⟩

/-- Elements of the row: n (R213). -/
def copyLen (r : Running) : Nat := descExt r.d1 0 + 1

/-- Blocks or plane groups that hold `n` elements. -/
def blocksOf (n : Nat) : Nat := (n + 31) / 32

/-- The data parts of a row: elements, or the words of its plane groups. -/
def dataParts (s : State) (by_ : AccessBy) (d : TDesc) (c : List Int) (n : Nat) : Except Stop (List Part) :=
  if isPlane (descFmt d) then
    match collect (fun k => groupParts s by_ d (along c (32 * k))) (upTo (blocksOf n)) with
    | .ok l => .ok l.flatten
    | .error e => .error e
  else collect (fun k => elemPart s by_ d (along c k)) (upTo n)

/-- The header parts of a row. -/
def headParts (s : State) (by_ : AccessBy) (d : TDesc) (c : List Int) (n : Nat) : Except Stop (List Part) :=
  collect (fun k => headerPart s by_ d (along c (32 * k))) (upTo (blocksOf n))

/-- Whether the source's headers are read, and the destination's written. CPFILL writes no affine pair, the model's choice: log entry 78. -/
def copyHeaders (op : CopyOp) (d1 d2 : TDesc) : HeaderRule :=
  match op.kind with
  | .move => if hasHeader d1 then .copy else .none
  | .toPlane => headerRule d2 d1 (isPB (descFmt d1))
  | .fromPlane => headerRule d2 d1 (isPB (descFmt d2))
  | _ => .none

/-- The command reads rows from operand 1. -/
def readsRow (op : CopyOp) : Bool := op.kind == .move || op.kind == .toPlane || op.kind == .fromPlane

/-- The context's policy for the layer of a KV-space source. -/
def rowPolicy (r : Running) (s : State) : BitVec 3 := s.layerPolicy (r.ctx.extractLsb' 0 4) (kvDesc r.d2).layer

/-- The command reads rows from the KV space. -/
def readsKv (r : Running) : Bool := (copyOf r.entry.instr).any fun op => readsRow op && descSpace r.d2 == 3

/-- A row of a KV-space source as known parts (R362 to R364): the elements from c0 on, then the headers of their blocks, with the pieces of it
that an uncorrectable error has lost (R223). -/
def kvParts (s : State) (r : Running) (op : CopyOp) (c : List Int) (n : Nat) (heads : Bool) :
    Except Cause (Option (List Part × List RVisit × State)) :=
  match collect (fun k => match wrapFrom r.d2 0 (along c k) with | .ok l => .ok l | .error e => .error (.trap e)) (upTo n) with
  | .error e => .error e.cause
  | .ok cs =>
    let c0 := (cs.headD []).getD 0 0
    let c1 := (cs.headD []).getD 1 0
    match kvReadRow s r.ctx r.d2 c0 n c1 op.q (r.policy.getD (rowPolicy r s)) op.tracked with
    | .trap e => .error e
    | .wait => .ok none
    | .row el hs lost s' =>
      let data := ((el.drop c0).take n).map fun v => Part.lit v (fmtSize (descFmt r.d2))
      let head := if heads then ((hs.drop (c0 / 32)).take (blocksOf n)).map fun v => Part.lit v 2 else []
      .ok (some (data ++ head, lost, s'))

/-- The index element of an iteration: its part and value, or none while it must wait (R213). -/
def copyIndex (r : Running) (s : State) (op : CopyOp) : Except Cause (Option (List Part × Int)) :=
  match op.index with
  | none => .ok (some ([], 0))
  | some _ =>
    match elemPart s (copyBy r op) r.d3 (r.coords 2) with
    | .error e => .error e.cause
    | .ok p =>
      match s.peek p with
      | none => .ok none
      | some (v, bad) =>
        match p, bad with
        | .piece loc key _ _, true => .error (.ecc ((⟨key, loc, .loadW, 0⟩ : RVisit).addr s))
        | _, _ => .ok (some ([p], intVal (fmtType (descFmt r.d3)) v))

/-- The read of an index element waits for its granule as a load .w does, which orders it after the write that set the state (R213, R254). -/
def State.observeIndex (s : State) (r : Running) (ps : List Part) : State :=
  let a : Agent := .eng (if isStq r.entry.instr then .stq else .ldq) r.entry.no
  ps.foldl (fun s p => match p with | .piece (.spad g) _ _ _ => s.observe a g | _ => s) s

/-- The parts of operand 0 of an iteration. -/
def copyDst (r : Running) (s : State) (op : CopyOp) (c : List Int) : Except Stop (List Part) :=
  let by_ := copyBy r op
  match dataParts s by_ r.d1 c (copyLen r),
        (if copyHeaders op r.d1 r.d2 = .none then .ok [] else headParts s by_ r.d1 c (copyLen r)) with
  | .ok a, .ok b => .ok (a ++ b)
  | .error e, _ => .error e
  | _, .error e => .error e

/-- The parts of operand 1 of an iteration outside the KV space. -/
def copySrc (r : Running) (s : State) (op : CopyOp) (c : List Int) : Except Stop (List Part) :=
  let by_ := copyBy r op
  match dataParts s by_ r.d2 c (copyLen r),
        (if copyHeaders op r.d1 r.d2 = .copy then headParts s by_ r.d2 c (copyLen r) else .ok []) with
  | .ok a, .ok b => .ok (a ++ b)
  | .error e, _ => .error e
  | _, .error e => .error e

/-- A tensor whose rows are whole blocks or plane groups (R214). -/
def inBlocks (d : TDesc) : Bool := isPlane (descFmt d) || hasHeader d

/-- Rows of whole blocks or plane groups start at a multiple of 32, in every operand that the command has (R214); CPPRE takes no trap (R216). -/
def copyUnaligned (op : CopyOp) (d1 d2 : TDesc) (c0 c1 : List Int) : Bool :=
  if readsRow op then (inBlocks d1 || inBlocks d2) && (unaligned32 c0 || unaligned32 c1)
  else op.kind != .prefetch && inBlocks d1 && unaligned32 c0

/-- The checks of an iteration and the pieces it reads (R219). They are made for the index element first, then ALIGN, whose address is a free value, then
for operand 0, its elements before its headers, then for operand 1: log entry 78. -/
def copyPlan (n : Nat) (r : Running) (s : State) : Planned :=
  match copyOf r.entry.instr with
  | none => .none s
  | some op =>
    if op.kind = .prefetch then .none s
    else
      let v := r.view s
      match copyIndex r v op with
      | .error e => .trap e
      | .ok none => .wait
      | .ok (some (ip, idx)) =>
        let c0 := if op.index = some 0 then along1 (r.coords 0) idx else r.coords 0
        let c1 := if op.index = some 1 then along1 (r.coords 1) idx else r.coords 1
        if copyUnaligned op r.d1 r.d2 c0 c1 then .trap (.alignStart n)
        else match copyDst r v op c0 with
          | .error e => .trap e.cause
          | .ok dst =>
            let s := (r.touch (copyPerm r.entry.instr) dst s).observeIndex r ip
            if !readsRow op then .go [] [] dst 0 s
            else if descSpace r.d2 = 3 then
              match kvParts v r op c1 (copyLen r) (copyHeaders op r.d1 r.d2 == .copy) with
              | .error e => .trap e
              | .ok none => .wait
              | .ok (some (src, lost, v')) => .go (readVisits .loadW ip [] ++ lost) src dst 0 { s with unit := v'.unit }
            else match copySrc r v op c1 with
              | .error e => .trap e.cause
              | .ok src =>
                let s := r.touch (copyPerm r.entry.instr) src s
                .go (readVisits op.sq src (readVisits .loadW ip [])) src dst 0 s

/-- Values of plane groups from rows of 32 byte elements: all words, then the headers. -/
def packRow (plane byte : TDesc) (rule : HeaderRule) (g : Nat) (els heads : List Nat) : List Nat :=
  let words := (upTo g).flatMap fun k => groupWords plane (((els.drop (32 * k)).take 32).map (toPlane plane byte))
  words ++ (match rule with | .none => [] | .copy => heads | .unit => List.replicate g unitPair)

/-- Byte elements of plane groups, each at its coordinate after wrap (R148, R213), then the headers. -/
def unpackRow (plane byte : TDesc) (rule : HeaderRule) (n : Nat) (words heads : List Nat) : List Nat :=
  let p := planes plane
  let els := (upTo (blocksOf n)).flatMap fun k =>
    (upTo 32).map fun e => fromPlane plane byte (groupElem plane ((words.drop (p * k)).take p) (serBit plane e))
  els.take n ++ (match rule with | .none => [] | .copy => heads | .unit => List.replicate (blocksOf n) unitPair)

/-- Values of plane groups from a row of them: in the first `m` words each element is read at its coordinate after the source's wrap (R148, R213);
the headers follow. -/
def moveRow (src : TDesc) (m : Nat) (vals : List Nat) : List Nat :=
  ((vals.take m).map fun w => planeWord fun e => w.testBit (serBit src e)) ++ vals.drop m

/-- The values an iteration writes, in the order of its destination parts. -/
def copyValues (r : Running) (op : CopyOp) : List Nat :=
  let vals := r.src.map (partVal r.got)
  let n := copyLen r
  let g := blocksOf n
  let rule := copyHeaders op r.d1 r.d2
  match op.kind with
  | .move => if isPlane (descFmt r.d2) then moveRow r.d2 (g * planes r.d2) vals else vals
  | .toPlane => packRow r.d1 r.d2 rule g (vals.take n) (vals.drop n)
  | .fromPlane => unpackRow r.d2 r.d1 rule n (vals.take (g * planes r.d2)) (vals.drop (g * planes r.d2))
  | .fill => List.replicate n r.entry.x4.toNat
  | _ => []

/-- The count of an iteration (R215). Bytes that a wrapped row writes twice count twice, by the model's choice: log entry 87. -/
def copyCount (r : Running) (op : CopyOp) : Nat :=
  match op.kind with
  | .prefetch => 0
  | .writeback =>
    if isPlane (descFmt r.d1) then copyLen r / 32 * 4 * planes r.d1 else copyLen r * fmtSize (descFmt r.d1)
  | _ => sizesOf r.dst

/-- CPINV takes the lines of its row from every cache of the package: the instruction cache, which is not coherent (R55), and the L1, where a monitor on
one of them fires (R308). -/
def State.dropLines (s : State) (ps : List Part) : State :=
  let lines := ps.filterMap fun p => match p with | .piece (.glob k) _ _ _ => some (k / 4) | _ => none
  let s := { s with core := { s.core with icache := s.core.icache.filter fun w => !lines.contains (w.1 / 64) } }
  lines.foldl (fun s l => s.fireMonitor (64 * l)) s

/-- CPINV. -/
def isInv : Instr → Bool
  | .cpinv _ _ _ => true
  | _ => false

/-- What an iteration does once its pieces are read. CPWB changes nothing that the model holds: its data caches are coherent with their backing memory. -/
def copyAct (r : Running) (s : State) : Acted :=
  match copyOf r.entry.instr with
  | none => .only s
  | some op =>
    if op.kind = .writeback ∨ op.kind = .prefetch then
      ⟨if isInv r.entry.instr then s.dropLines r.dst else s, [], copyCount r op⟩
    else ⟨s, writeVisits op.dq (List.zip r.dst (copyValues r op)), copyCount r op⟩

/-- The Count slot of a copy. -/
def copySlot (i : Instr) : Option (BitVec 4) := (copyOf i).bind (·.slot)

/-- A speculative task's copy waits at the queue head (R218, R340). -/
def copyHeld (i : Instr) (d1 d2 : TDesc) (bbase : BitVec 22) (s : State) : Bool :=
  match copyOf i with
  | none => false
  | some op =>
    s.specNow && (op.kind == .writeback ||
      (op.kind != .prefetch && descLocal d1 && s.outsideFrame d1) ||
      (readsRow op && op.sq == .loadC && descLocal d2 && s.outsideFrame d2) ||
      (match op.slot with | some b => s.slotOutside bbase b | none => false))

/-! ## At the splitter -/

def execCpinW (d1 d2 : BitVec 6) (n : BitVec 3) (s : BitVec 4) (q : BitVec 3) (st : State) : Out := issueWord .ldq (.cpinW d1 d2 n s q) st
def execCpinN (d1 d2 : BitVec 6) (n : BitVec 3) (s : BitVec 4) (q : BitVec 3) (st : State) : Out := issueWord .ldq (.cpinN d1 d2 n s q) st
def execCpinWNt (d1 d2 : BitVec 6) (n : BitVec 3) (s : BitVec 4) (q : BitVec 3) (st : State) : Out := issueWord .ldq (.cpinWNt d1 d2 n s q) st
def execCpinNNt (d1 d2 : BitVec 6) (n : BitVec 3) (s : BitVec 4) (q : BitVec 3) (st : State) : Out := issueWord .ldq (.cpinNNt d1 d2 n s q) st
def execCpgathW (d1 d2 : BitVec 6) (n : BitVec 3) (s : BitVec 4) (q : BitVec 3) (st : State) : Out := issueWord .ldq (.cpgathW d1 d2 n s q) st
def execCpgathN (d1 d2 : BitVec 6) (n : BitVec 3) (s : BitVec 4) (q : BitVec 3) (st : State) : Out := issueWord .ldq (.cpgathN d1 d2 n s q) st
def execCpgathWNt (d1 d2 : BitVec 6) (n : BitVec 3) (s : BitVec 4) (q : BitVec 3) (st : State) : Out := issueWord .ldq (.cpgathWNt d1 d2 n s q) st
def execCpgathNNt (d1 d2 : BitVec 6) (n : BitVec 3) (s : BitVec 4) (q : BitVec 3) (st : State) : Out := issueWord .ldq (.cpgathNNt d1 d2 n s q) st
def execCpplaneW (d1 d2 : BitVec 6) (n : BitVec 3) (s : BitVec 4) (q : BitVec 3) (st : State) : Out := issueWord .ldq (.cpplaneW d1 d2 n s q) st
def execCpplaneN (d1 d2 : BitVec 6) (n : BitVec 3) (s : BitVec 4) (q : BitVec 3) (st : State) : Out := issueWord .ldq (.cpplaneN d1 d2 n s q) st
def execCpplaneWNt (d1 d2 : BitVec 6) (n : BitVec 3) (s : BitVec 4) (q : BitVec 3) (st : State) : Out := issueWord .ldq (.cpplaneWNt d1 d2 n s q) st
def execCpplaneNNt (d1 d2 : BitVec 6) (n : BitVec 3) (s : BitVec 4) (q : BitVec 3) (st : State) : Out := issueWord .ldq (.cpplaneNNt d1 d2 n s q) st
def execCpfillW (d1 : BitVec 6) (n : BitVec 3) (s : BitVec 4) (st : State) : Out := issueWord .ldq (.cpfillW d1 n s) st
def execCpfillN (d1 : BitVec 6) (n : BitVec 3) (s : BitVec 4) (st : State) : Out := issueWord .ldq (.cpfillN d1 n s) st
def execCpmovW (d1 d2 : BitVec 6) (n : BitVec 3) (s : BitVec 4) (st : State) : Out := issueWord .ldq (.cpmovW d1 d2 n s) st
def execCpmovN (d1 d2 : BitVec 6) (n : BitVec 3) (s : BitVec 4) (st : State) : Out := issueWord .ldq (.cpmovN d1 d2 n s) st
def execCppre (d1 : BitVec 6) (n : BitVec 3) (s : State) : Out := issueWord .ldq (.cppre d1 n) s
def execLsig (t : BitVec 4) (s : State) : Out := issueWord .ldq (.lsig t) s
def execLwaitk (t : BitVec 4) (s : State) : Out := issueWord .ldq (.lwaitk t) s
def execLbwait (slot : BitVec 4) (s : State) : Out := issueWord .ldq (.lbwait slot) s
def execCpinNL (d1 d2 : BitVec 6) (n : BitVec 3) (s : BitVec 4) (q : BitVec 3) (imm : BitVec 32) (st : State) : Out := issueLong .ldq (.cpinN d1 d2 n s q) 1 imm st
def execCpfillWL (d1 : BitVec 6) (n : BitVec 3) (s : BitVec 4) (imm : BitVec 32) (st : State) : Out := issueLong .ldq (.cpfillW d1 n s) 2 imm st
def execCpfillNL (d1 : BitVec 6) (n : BitVec 3) (s : BitVec 4) (imm : BitVec 32) (st : State) : Out := issueLong .ldq (.cpfillN d1 n s) 3 imm st
def execSsig (t : BitVec 4) (s : State) : Out := issueWord .stq (.ssig t) s
def execSwaitk (t : BitVec 4) (s : State) : Out := issueWord .stq (.swaitk t) s
def execSbwait (slot : BitVec 4) (s : State) : Out := issueWord .stq (.sbwait slot) s
def execCpoutW (d1 d2 : BitVec 6) (n : BitVec 3) (s : BitVec 4) (st : State) : Out := issueWord .stq (.cpoutW d1 d2 n s) st
def execCpoutC (d1 d2 : BitVec 6) (n : BitVec 3) (s : BitVec 4) (st : State) : Out := issueWord .stq (.cpoutC d1 d2 n s) st
def execCpoutN (d1 d2 : BitVec 6) (n : BitVec 3) (s : BitVec 4) (st : State) : Out := issueWord .stq (.cpoutN d1 d2 n s) st
def execCpscatW (d1 d2 : BitVec 6) (n : BitVec 3) (s : BitVec 4) (st : State) : Out := issueWord .stq (.cpscatW d1 d2 n s) st
def execCpscatC (d1 d2 : BitVec 6) (n : BitVec 3) (s : BitVec 4) (st : State) : Out := issueWord .stq (.cpscatC d1 d2 n s) st
def execCpscatN (d1 d2 : BitVec 6) (n : BitVec 3) (s : BitVec 4) (st : State) : Out := issueWord .stq (.cpscatN d1 d2 n s) st
def execCpdeplW (d1 d2 : BitVec 6) (n : BitVec 3) (s : BitVec 4) (st : State) : Out := issueWord .stq (.cpdeplW d1 d2 n s) st
def execCpdeplC (d1 d2 : BitVec 6) (n : BitVec 3) (s : BitVec 4) (st : State) : Out := issueWord .stq (.cpdeplC d1 d2 n s) st
def execCpdeplN (d1 d2 : BitVec 6) (n : BitVec 3) (s : BitVec 4) (st : State) : Out := issueWord .stq (.cpdeplN d1 d2 n s) st
def execCpwb (d1 : BitVec 6) (n : BitVec 3) (s : BitVec 4) (st : State) : Out := issueWord .stq (.cpwb d1 n s) st
def execCpinv (d1 : BitVec 6) (n : BitVec 3) (s : BitVec 4) (st : State) : Out := issueWord .stq (.cpinv d1 n s) st
def execCpoutNL (d1 d2 : BitVec 6) (n : BitVec 3) (s : BitVec 4) (imm : BitVec 32) (st : State) : Out := issueLong .stq (.cpoutN d1 d2 n s) 1 imm st

end Sys2Proof.Machine
end

