-- ==== Sys2Proof/Machine/CollOps.lean ====
section
/-!
DEFINITION. The collective engine's arithmetic, accesses and moorings (R404, R405, R409, R412, R413, R418, R419): what its units, its frames
and its timers share.
-/

namespace Sys2Proof.Machine

/-! ## Chunks on the wire (R137, R412, R413) -/

/-- A list in pieces of `n`. -/
def cutBytes (n : Nat) (l : List Byte) : List (List Byte) := chunks n (l.length / n + 1) l |>.filter (· != [])

/-- Wire(x) of an element: NF above the 126-bit G. -/
def wireOf (ty : ElemType) (g : Int) (bits : Nat) : BitVec 128 :=
  match elemVal ty bits with
  | .nan => (3#2 ++ 0#126 : BitVec 128)
  | .inf s => ((if s then 2#2 else 1#2) ++ 0#126 : BitVec 128)
  | .fin s n d => (0#2 ++ BitVec.ofInt 126 (floorScaled s n d g) : BitVec 128)

/-- The sum of two wire words. -/
def wireAdd (a b : BitVec 128) : BitVec 128 :=
  (combineNF (a.extractLsb' 126 2) (b.extractLsb' 126 2) ++ (a.extractLsb' 0 126 + b.extractLsb' 0 126) : BitVec 128)

/-- The readout of a wire word. -/
def wireOut (ty : ElemType) (g : Int) (a : BitVec 128) : Nat :=
  (readElem ty rmRNE 0 g ⟨a.extractLsb' 126 2, (a.extractLsb' 0 126).signExtend 136⟩).1

/-- A buffer's chunk in wire form. -/
def toWire (ty : ElemType) (g : Int) (bs : List Byte) : List Byte :=
  (cutBytes ty.bytes bs).flatMap fun e => leBytes 16 (wireOf ty g (leNat e)).toNat

/-- A chunk in wire form as buffer bytes. -/
def fromWire (ty : ElemType) (g : Int) (bs : List Byte) : List Byte :=
  (cutBytes 16 bs).flatMap fun w => leBytes ty.bytes (wireOut ty g (BitVec.ofNat 128 (leNat w)))

/-- Combines two chunks, piece by piece of `n` bytes. -/
def zipBytes (n : Nat) (f : Nat → Nat → Nat) (a b : List Byte) : List Byte :=
  (List.zip (cutBytes n a) (cutBytes n b)).flatMap fun p => leBytes n (f (leNat p.1) (leNat p.2))

def addWire (a b : List Byte) : List Byte :=
  zipBytes 16 (fun x y => (wireAdd (BitVec.ofNat 128 x) (BitVec.ofNat 128 y)).toNat) a b

/-- max and min of raw chunks: the rules of VMAX and VMIN, with the pulled element first. -/
def pickRaw (ty : ElemType) (op : BitVec 2) (a b : List Byte) : List Byte :=
  zipBytes ty.bytes (fun x y => if op = 1 then opMax ty x y else opMin ty x y) a b

/-- One addition of the fixed order: exact, then rounded (R137); a NaN operand comes through as R118 has it. -/
def foldAdd (ty : ElemType) (x y : Nat) : Nat :=
  if ty.isFloat then opAdd ty rmRNE x y else opAddSat ty x y

/-- The sum in ascending rank. -/
def fixedSum (ty : ElemType) : List (List Byte) → List Byte
  | [] => []
  | x :: xs => xs.foldl (fun acc y => zipBytes ty.bytes (foldAdd ty) acc y) x

/-! ## Accesses (R404) -/

/-- The physical places of an access under the context's PRT bit; a range, permission or residency failure is ADDR. -/
def State.collPlaces (s : State) (ctx : BitVec 4) : List (Nat × Nat) → Except CollReason (List (Nat × Nat))
  | [] => .ok []
  | (va, n) :: rest =>
    match s.translate ctx permPrt va with
    | .ok pa =>
      match s.collPlaces ctx rest with
      | .ok ps => .ok ((pa, n) :: ps)
      | .error r => .error r
    | .ecc _ => .error .ecc
    | _ => .error .addr

def State.collRead (s : State) (ctx : BitVec 4) (va n : Nat) : Except CollReason (List Byte) :=
  match s.collPlaces ctx (spans (n + 1) va n) with
  | .error r => .error r
  | .ok ps =>
    if ps.any fun p => (pieces (p.2 + 1) p.1 p.2).any fun q => s.poisoned (.glob (q.1 / 16)) then .error .ecc
    else .ok (ps.flatMap fun p => s.mem.getN p.1 p.2)

def State.collWrite (s : State) (ctx : BitVec 4) (va : Nat) (bs : List Byte) : Except CollReason State :=
  match s.collPlaces ctx (spans (bs.length + 1) va bs.length) with
  | .error r => .error r
  | .ok ps =>
    if ps.any fun p => (pieces (p.2 + 1) p.1 p.2).any fun q => s.cutOff (.glob (q.1 / 16)) then .error .ecc
    else .ok (ps.foldl (fun (s, bs) (p : Nat × Nat) => (s.writeBy none ctx p.1 (bs.take p.2), bs.drop p.2)) (s, bs)).1

/-! ## Communicators (R405) -/

/-- The communicator of a context and index. -/
def State.comm (s : State) (ctx : BitVec 4) (idx : Nat) : Option Comm :=
  s.coll.comms.find? fun c => c.entry.ctx == ctx && c.idx.toNat == idx

def State.setComm (s : State) (c : Comm) : State :=
  { s with coll := { s.coll with comms := s.coll.comms.map fun x => if x.entry.ctx = c.entry.ctx ∧ x.idx = c.idx then c else x } }

def Comm.size (c : Comm) : Nat := c.entry.sizem1.toNat + 1

/-- The quay address of a rank in the peer map. -/
def State.peerAddr (s : State) (e : CommEntry) (rank : Nat) : Except CollReason QuayAddr :=
  match s.collRead e.ctx (e.pmap.toNat + 4 * rank) 4 with
  | .ok bs => .ok (BitVec.ofNat 32 (leNat bs))
  | .error r => .error r

/-- The communicator that a frame is for: by the member core it is addressed to and the index alone. -/
def State.commOf (s : State) (dest : CollEnd) : Option Comm :=
  s.coll.comms.find? fun c => c.idx == dest.idx && c.member == dest.member

/-- The context is suspended: its engines stop at the unit boundary and answer ABSENT (R418). -/
def State.collAway (s : State) (c : Comm) : Bool := (s.context c.entry.ctx).suspended

/-- A frame of a communicator to a member's engine: it travels on the communicator's virtual channel (R401) with its compartment (R419). -/
def State.collSend (s : State) (c : Comm) (dst : QuayAddr) (f : CollFrame) : State :=
  s.send (.coll ⟨dst, c.idx⟩ c.entry.vc c.entry.cmp f)

/-- A running collective fails at its next unit boundary; the first reason stands (R408, R417). -/
def Comm.flag (c : Comm) (why : CollReason) (peer : BitVec 12) : Comm :=
  { c with run := c.run.map fun r => if r.failing.isSome then r else { r with failing := some (why, peer) } }

/-- The engine refuses a frame: its compartment differs, or its device has been revoked (R419, R421). -/
def State.collRefuses (s : State) (c : Comm) (cmp : BitVec 16) (src : QuayAddr) : Bool :=
  cmp != c.entry.cmp || s.revokedDev c.entry.cmp src

/-- A frame reaches a communicator's engine: no member answers NO-ROUTE, a suspended context's answers ABSENT and owes PRESENT, and `f` handles the
others (R226, R244, R418). -/
def State.collReach (s : State) (dest : CollEnd) (src : QuayAddr) (cmp : BitVec 16) (about : Answered) (f : Comm → State) : State :=
  match s.commOf dest with
  | none => s.send (.coll ⟨src, dest.idx⟩ 0 cmp (.noRoute about))
  | some c =>
    if s.collAway c then (s.setComm { c with owe := (c.owe ++ [src]).eraseDups }).collSend c src (.absent about)
    else f c

/-! ## Moorings of a collective (R413, R229 to R231, R235) -/

/-- The lowest free place of the engine's table of 256. -/
def CollRun.freeSlot (r : CollRun) : Option Nat := (upTo 256).find? fun k => !r.moors.any fun m => m.slot.toNat == k

/-- A mooring leaves the table, and its place a generation. -/
def Comm.releaseMoor (c : Comm) (m : CollMoor) : Comm :=
  { c with
    gens := c.gens.set m.slot.toNat (m.gen + 1) (by omega)
    run := c.run.map fun r => { r with moors := r.moors.filter fun x => x.slot != m.slot } }

/-- The moorings of a collective that ends without their acknowledgement: each leaves the table with its consumer pending (R229, R417). -/
def Comm.releaseAll (c : Comm) (r : CollRun) : Comm :=
  let c := { c with owing := c.owing ++ r.moors.filter fun m => !m.accepted }
  r.moors.foldl (fun c m => c.releaseMoor m) c

/-- The running collective's mooring of a place and generation. -/
def Comm.mooring (c : Comm) (slot gen : BitVec 8) : Option CollMoor :=
  c.run.bind fun r => r.moors.find? fun m => m.slot == slot && m.gen == gen

def Comm.mapMoors (c : Comm) (f : CollMoor → CollMoor) : Comm :=
  { c with run := c.run.map fun r => { r with moors := r.moors.map f } }

/-- The chunk of a mooring as a request gets it. -/
def State.moorData (s : State) (c : Comm) (r : CollRun) (m : CollMoor) : Except CollReason (List Byte) :=
  match m.data with
  | some bs => .ok bs
  | none =>
    match s.collRead c.entry.ctx m.buffer m.len with
    | .error e => .error e
    | .ok bs => .ok (if m.wire then toWire r.fmt c.entry.anchor.toInt bs else bs)

/-- The engine's answer to a pull request (R235, R413, R418, R419). REFUSED goes under the requester's compartment, as its other answers do (log entry 53). -/
def State.collServe (s : State) (dest : CollEnd) (q : SegRequest) : State :=
  s.collReach dest q.src q.cmp (.collRequest ⟨q.src, dest.idx⟩ q.lgen q.seg) fun c =>
    if s.collRefuses c q.cmp q.src then s.send (.coll ⟨q.src, c.idx⟩ c.entry.vc q.cmp (.refused q))
    else match c.run, c.mooring q.moor q.gen with
      | some r, some m =>
        match s.moorData c r m with
        | .ok bs => s.collSend c q.src (.data q ((bs.drop (4096 * q.seg)).take 4096))
        | .error .ecc => (s.setComm (c.flag .ecc m.peer)).collSend c q.src (.eccerr q)
        | .error e => (s.setComm (c.flag e m.peer)).collSend c q.src (.stale q)
      | _, _ => s.collSend c q.src (.stale q)

/-- An acknowledgement or decline of a compartment: the one consumer of a mooring is done with it; it is answered ACCEPT (R229, R244). One that does not
have the communicator's compartment has not been authenticated under it, and is discarded (R420). -/
def State.collConsumed (s : State) (dest : CollEnd) (cmp : BitVec 16) (src : QuayAddr) (moor gen : BitVec 8) : State :=
  let about : Answered := .collAck ⟨src, dest.idx⟩ dest.member moor gen
  s.collReach dest src cmp about fun c =>
    if s.collRefuses c cmp src then s
    else
      let s := match c.mooring moor gen with
        | some m => s.setComm (c.releaseMoor m)
        | none => s
      s.collSend c src (.accept about)

/-- A notice arrives (R231, R413, R418, R419). -/
def State.collNotice (s : State) (dest : CollEnd) (n : Notice) (q : BitVec 12) : State :=
  let about : Answered := .coll ⟨n.src, dest.idx⟩ n.moor n.gen
  s.collReach dest n.src n.cmp about fun c =>
    if s.collRefuses c n.cmp n.src then s
    else if c.inbox.any fun i => sameNotice i.notice n then s.collSend c n.src (.accept about)
    else if 256 ≤ c.inbox.length then s.collSend c n.src (.full about)
    else (s.setComm { c with inbox := c.inbox ++ [⟨n, q⟩] }).collSend c n.src (.accept about)

/-- Kinds of answer to a notice or an acknowledgement. -/
inductive AnswerKind where
  | accept | full | absent | noRoute
deriving DecidableEq, Repr

/-- A mooring after an answer to its notice (R231, R244): ACCEPT alone ends the repetition; ABSENT freezes the timer, ACCEPT and FULL free it. -/
def CollMoor.answered (m : CollMoor) (k : AnswerKind) : CollMoor :=
  { m with accepted := k == .accept, absent := k == .absent || (k == .noRoute && m.absent) }

/-- A notice is sent again while it has no answer, or another than ACCEPT: release leaves its consumer's pending bit set (R229, R231). -/
def State.collResend (s : State) (dest : CollEnd) (slot : Nat) : State :=
  match s.commOf dest with
  | none => s
  | some c =>
    let held := (match c.run with | some r => r.moors | none => []) ++ c.owing
    (held.filter fun m => m.slot.toNat == slot && !m.accepted).foldl (fun s m => s.collSend c m.addr (.notice m.notice m.q)) s

/-- An acknowledgement or decline of a chunk, as it is kept. -/
def Comm.keptFrame (c : Comm) (a : KeptAck) : CollFrame := if a.ack then .ack c.member a.moor a.gen else .decline c.member a.moor a.gen

/-- It is kept until it is answered, and sent (R244). -/
def State.collKeep (s : State) (c : Comm) (ack : Bool) (n : Notice) : State :=
  let a : KeptAck := ⟨n.src, n.moor, n.gen, n.cidx, ack⟩
  let c := { c with acks := c.acks ++ [a] }
  (s.setComm c).collSend c n.src (c.keptFrame a)

/-- An acknowledgement or decline without an answer, or with another than ACCEPT, is sent again (R244). -/
def State.collResendAck (s : State) (dest : CollEnd) (k : Nat) : State :=
  match s.commOf dest with
  | none => s
  | some c =>
    match c.acks[k]? with
    | some a => s.collSend c a.dst (c.keptFrame a)
    | none => s

/-- PRESENT of a peer clears its absent marks, and what was kept for it is sent again at once (R244). -/
def State.collPresent (s : State) (src : QuayAddr) : State :=
  let s : State := { s with coll := { s.coll with
    comms := s.coll.comms.map fun c => c.mapMoors fun m => if m.addr = src then { m with absent := false } else m } }
  s.coll.comms.foldl (init := s) fun s c =>
    (c.acks.filter (·.dst == src)).foldl (init := s) fun s a => s.collSend c src (c.keptFrame a)

/-- A microsecond of a communicator's moorings: one whose timer reaches 0 fails the collective with RECLAIM (R230, R417). -/
def Comm.tick (c : Comm) : Comm :=
  match c.run with
  | none => c
  | some r =>
    let expired := r.moors.find? fun m => !m.absent && decide (m.remain ≤ 1)
    let c := c.mapMoors fun m => if m.absent then m else { m with remain := m.remain - 1 }
    match expired with
    | some m => c.flag .reclaim m.peer
    | none => c

def State.collTick (s : State) : State := { s with coll := { s.coll with comms := s.coll.comms.map Comm.tick } }

end Sys2Proof.Machine
end

