-- ==== Sys2Proof/Machine/Coll.lean ====
section
/-!
DEFINITION. Communicators and their words (R405 to R409), step programs (R410, R412), the units of a collective (R413, R415), how it
completes or fails (R414, R417), and the suspension of a context (R418).
-/

namespace Sys2Proof.Machine

/-! ## Creating and destroying (R405) -/

/-- A field of a communicator entry lies out of its range. -/
def commBad (idx : Nat) (e : CommEntry) : Bool :=
  decide (63 < idx) || decide (e.sizem1.toNat < e.rank.toNat) || e.pmap.extractLsb' 0 4 != 0 || e.slen == 0 ||
    decide (512 < e.sbase.toNat + e.slen.toNat) || e.timeout == 0

/-- The partitions of two entries overlap. -/
def partsMeet (a b : CommEntry) : Bool :=
  decide (a.sbase.toNat < b.sbase.toNat + b.slen.toNat) && decide (b.sbase.toNat < a.sbase.toNat + a.slen.toNat)

def freshComm (idx : Nat) (e : CommEntry) (member : QuayAddr) : Comm :=
  { idx := BitVec.ofNat 6 idx, entry := e, member := member, state := 0, reason := 0, seq := 0, step := 0, peer := 0,
    gens := Vector.replicate 256 0, owe := [], inbox := [], acks := [], owing := [], pulls := 0, run := none }

/-- Harbourmaster refuses a partition that it cannot reserve, an index in use, and one that another communicator of the own member core has. The
engine of this die serves the communicators whose own member core, as the peer map names it, lies on the die (R404). -/
def execCommunicatorCreate (idx : Nat) (e : CommEntry) (s : State) : Out :=
  .next (match s.peerAddr e e.rank.toNat with
    | .error _ => s
    | .ok own =>
      let taken := s.coll.comms.any fun o =>
        partsMeet o.entry e || (o.idx.toNat == idx && (o.entry.ctx == e.ctx || o.member == own))
      if commBad idx e || taken || devOf own != devOf s.self || dieOf own != s.selfDie then s
      else { s with coll := { s.coll with comms := s.coll.comms ++ [freshComm idx e own] } })

def execCommunicatorDestroy (ctx : BitVec 4) (idx : Nat) (s : State) : Out :=
  .next { s with coll := { s.coll with comms := s.coll.comms.filter fun c => !(c.entry.ctx == ctx && decide (c.idx.toNat = idx)) } }

/-! ## Steps (R410, R412) -/

inductive StepOp where
  | data (d : DataStep)
  | wait
  | loop (n : Nat) (ps qs : Int) (len : Nat)
  | endStep
deriving DecidableEq, Repr

/-- The step of a word; none where its encoding fails the collective. -/
def stepOf (w : BitVec 64) : Option StepOp :=
  let op := w.extractLsb' 60 4
  if op = 5 then (if w.extractLsb' 0 60 = 0 then some .wait else none)
  else if op = 7 then (if w.extractLsb' 0 60 = 0 then some .endStep else none)
  else if op = 6 then
    if w.extractLsb' 0 16 = 0 ∧ w.extractLsb' 16 8 ≠ 0 then
      some (.loop ((w.extractLsb' 48 12).toNat + 1) (w.extractLsb' 36 12).toInt (w.extractLsb' 24 12).toInt (w.extractLsb' 16 8).toNat)
    else none
  else if op = 0 ∨ 7 < op.toNat then none
  else
    let d : DataStep :=
      { op := op, px := w.getLsbD 59, pc := w.extractLsb' 47 12, qa := w.getLsbD 46, qd := (w.extractLsb' 34 12).toInt,
        bs := w.extractLsb' 32 2, bd := w.extractLsb' 30 2, wr := w.getLsbD 29, fw := w.getLsbD 28, raw := w.getLsbD 27,
        ph := w.extractLsb' 23 4 }
    if w.extractLsb' 0 23 ≠ 0 ∨ ((d.wr || d.fw) ∧ op ≠ 3) ∨ (d.raw ∧ op ≠ 1 ∧ op ≠ 2) ∨ (op = 4 ∧ d.pc ≠ 0) ∨ (op = 1 ∧ d.bd ≠ 0) then none
    else some (.data d)

/-- k, ps and qs of the loop that the program stands in. -/
structure LoopAt where
  k : Nat
  ps : Int
  qs : Int
deriving DecidableEq, Repr

/-- P; none where px = 1 names no rank. -/
def peerOf (rank size : Nat) (l : LoopAt) (d : DataStep) : Option Nat :=
  if d.px then
    let p := rank ^^^ (d.pc.toNat * 2 ^ l.k % 4096)
    if p < size then some p else none
  else some (((rank : Int) + d.pc.toInt + l.k * l.ps) % (size : Int)).toNat

def mirrorOf (rank size p : Nat) (d : DataStep) : Nat :=
  if d.px then p else ((2 * (rank : Int) - p) % (size : Int)).toNat

/-- q. -/
def blockOf (rank size : Nat) (l : LoopAt) (d : DataStep) : Nat :=
  ((if d.qa then (rank : Int) else 0) + d.qd + l.k * l.qs) % (size : Int) |>.toNat

/-- tag(q, j). -/
def collTag (idx : BitVec 6) (seq : BitVec 16) (ph : BitVec 4) (q j : Nat) : BitVec 32 :=
  (idx ++ seq.extractLsb' 0 2 ++ ph ++ 0#4 ++ BitVec.ofNat 8 q ++ BitVec.ofNat 8 j : BitVec 32)

/-! ## Where the program stands -/

/-- Chunks of a block. -/
def CollRun.cpb (r : CollRun) : Nat := (r.blen.toNat + 4096 * r.fmt.bytes - 1) / (4096 * r.fmt.bytes)

/-- Chunk cpb − 1 has passed END. -/
def CollRun.passed (r : CollRun) : Bool := decide (r.cpb ≤ r.chunk)

/-- The word of step `i`, as it stands now. -/
def State.stepWord (s : State) (c : Comm) (r : CollRun) (i : Nat) : Except CollReason (BitVec 64) :=
  match s.collRead c.entry.ctx (r.prog.toNat + 8 * i) 8 with
  | .ok bs => .ok (BitVec.ofNat 64 (leNat bs))
  | .error e => .error e

/-- The step at `i`. -/
def State.stepRead (s : State) (c : Comm) (r : CollRun) (i : Nat) : Except CollReason StepOp :=
  match s.stepWord c r i with
  | .error e => .error e
  | .ok w => match stepOf w with | some o => .ok o | none => .error .step

/-- Moves over LOOP and END, which take no unit, to the next step that is one; a step outside the rules of R410 fails the collective there.
`fuel` covers the chunks left. -/
def State.atStep (s : State) (c : Comm) : Nat → CollRun → CollRun
  | 0, r => r
  | fuel + 1, r =>
    if r.passed then r
    else match s.stepRead c r r.stepAt with
      | .error e => { r with failing := some (e, 0) }
      | .ok (.loop _ _ _ _) =>
        if r.loop.isSome then { r with failing := some (.step, 0) }
        else s.atStep c fuel { r with stepAt := r.stepAt + 1, loop := some (r.stepAt, 0) }
      | .ok .endStep =>
        if r.loop.isSome then { r with failing := some (.step, 0) }
        else if r.cpb ≤ r.chunk + 1 then { r with chunk := r.chunk + 1, kept := [] }
        else s.atStep c fuel { r with chunk := r.chunk + 1, stepAt := 0, kept := [] }
      | .ok _ => r

/-- A unit is complete: the program goes on, through the loop if its body has ended. -/
def State.goOn (s : State) (c : Comm) (r : CollRun) : CollRun :=
  let next := { r with stepAt := r.stepAt + 1 }
  let r := match r.loop with
    | none => next
    | some (top, k) =>
      match s.stepRead c r top with
      | .ok (.loop n _ _ len) =>
        if r.stepAt < top + len then next
        else if k + 1 < n then { r with stepAt := top + 1, loop := some (top, k + 1) }
        else { next with loop := none }
      | .ok _ => { r with failing := some (.step, 0) }
      | .error e => { r with failing := some (e, 0) }
  if r.failing.isSome then r else s.atStep c (r.cpb + 4) r

/-- The loop values at the step to perform; a LOOP that has been rewritten into another step fails the collective. -/
def State.loopAt (s : State) (c : Comm) (r : CollRun) : Except CollReason LoopAt :=
  match r.loop with
  | none => .ok ⟨0, 0, 0⟩
  | some (top, k) =>
    match s.stepRead c r top with
    | .ok (.loop _ ps qs _) => .ok ⟨k, ps, qs⟩
    | .ok _ => .error .step
    | .error e => .error e

/-! ## Status (R409, R414) -/

/-- The status word of a communicator. -/
def Comm.status (c : Comm) : BitVec 64 :=
  match c.run with
  | some r => (0#16 ++ 0#12 ++ BitVec.ofNat 12 r.stepAt ++ c.seq ++ 0#4 ++ 0#2 ++ 1#2 : BitVec 64)
  | none => (0#16 ++ c.peer ++ c.step ++ c.seq ++ c.reason ++ 0#2 ++ c.state : BitVec 64)

/-- The status record: the status, the bitmap's length, and the bitmap in whole 64-bit words. -/
def statusRecord (c : Comm) (r : CollRun) : List Byte :=
  let n := c.size * r.cpb
  let map := (r.bitmap.eraseDups).foldl (fun acc b => acc + 2 ^ b) 0
  leBytes 8 c.status.toNat ++ leBytes 8 n ++ leBytes (8 * ((n + 63) / 64)) map

/-! ## The words (R406 to R409) -/

/-- The communicator that X[A] names for the running context. -/
def State.namedComm (s : State) (x : Word) : Option Comm := if 64 ≤ x.toNat then none else s.comm s.ctx x.toNat

/-- The element type of an argument block's fmt. -/
def collFmt (b : BitVec 8) : Option ElemType :=
  match (b.extractLsb' 0 3).toNat with
  | 2 => some .s32 | 6 => some .f32 | 7 => some .bf16 | _ => none

/-- The wire element size: XA-exact sums travel as 16-byte words (R412). -/
def wireSize (mode : Bool) (op : BitVec 2) (ty : ElemType) : Nat := if !mode && op == 0 then 16 else ty.bytes

/-- The collective that an argument block asks for; none where a reserved field is nonzero or a field lies out of its range (R407). -/
def collOf (a : BitVec 512) (bbase : BitVec 22) : Option CollRun :=
  let f (lo w : Nat) : BitVec w := a.extractLsb' lo w
  let prog := f 0 64
  let bufs : Vector (BitVec 64) 4 := #v[f 64 64, f 128 64, f 192 64, f 256 64]
  let blen := f 320 32
  let b := f 352 8
  let st := f 384 64
  match collFmt b with
  | none => none
  | some ty =>
    let es := ty.bytes
    if prog.extractLsb' 0 3 ≠ 0 ∨ bufs.toList.any (fun x => x.extractLsb' 0 4 != 0) ∨ blen.toNat % 16 ≠ 0 ∨ blen.toNat % es ≠ 0 ∨ blen = 0 ∨
        2 ^ 20 * es < blen.toNat ∨ b.extractLsb' 4 2 = 3 ∨ b.getLsbD 3 ∨ b.extractLsb' 6 2 ≠ 0 ∨ f 364 4 ≠ 0 ∨ f 368 16 ≠ 0 ∨
        st.extractLsb' 0 4 ≠ 0 ∨ f 448 64 ≠ 0 then none
    else some
      { prog := prog, bufs := bufs, blen := blen, fmt := ty, op := b.extractLsb' 4 2, slot := f 360 4, st := st, bbase := bbase, chunk := 0,
        stepAt := 0, loop := none, moors := [], pull := none, kept := [], bitmap := [], bytes := 0, failing := none }

/-- CSTART with its block read and checked (R407). -/
def cstart (d : BitVec 5) (c : Comm) (r : CollRun) (s : State) : State :=
  if c.entry.slen.toNat < 2 * wireSize c.entry.mode r.op r.fmt then s.raise 0x78 .arg
  else if c.run.isSome then s.stall
  else
    let c := { c with seq := c.seq + 1 }
    let c := { c with run := some (s.atStep c (r.cpb + 4) r) }
    (s.setComm c).retireX d ((c.seq ++ c.idx : BitVec 22).setWidth 64)

def execCstart (d a b : BitVec 5) (s : State) : Out :=
  let ea := s.x b
  .next (if s.specNow then s.stallSpec
    else match s.namedComm (s.x a) with
      | none => s.raise 0x78 .arg
      | some c =>
        if ea.extractLsb' 0 6 != 0 then s.raise 0x78 (.align ea)
        else match scalarLoad s true ea 64 with
          | .trap t => s.raise 0x78 t
          | .wait => s.stallSpec
          | .absent => s.stallShut
          | .ok (bs, s') =>
            match collOf (BitVec.ofNat 512 (leNat bs)) s.core.sys.bbase with
            | none => s.raise 0x78 .arg
            | some r => cstart d c r s')

/-- CABORT: the running collective ends at its next unit boundary (R408). -/
def execCabort (a : BitVec 5) (s : State) : Out :=
  .next (if s.specNow then s.stallSpec
    else match s.namedComm (s.x a) with
      | none => s.raise 0x79 .arg
      | some c => (s.setComm (c.flag .abort 0)).retire)

def execCstat (d a : BitVec 5) (s : State) : Out :=
  .next (match s.namedComm (s.x a) with
    | none => s.raise 0x7A .arg
    | some c => s.retireX d c.status)

/-! ## The unit at hand (R412, R413) -/

def State.unitAt (s : State) (c : Comm) (r : CollRun) (d : DataStep) : Except CollReason UnitAt :=
  match s.loopAt c r with
  | .error e => .error e
  | .ok l =>
    let rank := c.entry.rank.toNat
    match peerOf rank c.size l d with
    | none => .error .step
    | some p =>
      match (if d.op = 4 then .ok 0 else s.peerAddr c.entry p) with
      | .error e => .error e
      | .ok a =>
        let q := blockOf rank c.size l d
        let off := 4096 * r.fmt.bytes * r.chunk
        .ok { d := d, peer := p, addr := a, mirror := mirrorOf rank c.size p d, q := q, tag := collTag c.idx c.seq d.ph q r.chunk,
              off := q * r.blen.toNat + off, len := min (4096 * r.fmt.bytes) (r.blen.toNat - off),
              wire := !c.entry.mode && r.op == 0 && !d.raw }

/-- What the engine performs next: a WAIT, or a data step. -/
inductive UnitNow where
  | wait
  | data (u : UnitAt)
deriving DecidableEq, Repr

/-- The unit at hand as the program's words stand now; a word that is no unit fails the collective, as does a peer that does not exist or cannot be
read. -/
def State.unitNow (s : State) (c : Comm) (r : CollRun) : Except CollReason UnitNow :=
  match s.stepRead c r r.stepAt with
  | .error e => .error e
  | .ok .wait => .ok .wait
  | .ok (.data d) =>
    match s.unitAt c r d with
    | .ok u => .ok (.data u)
    | .error e => .error e
  | .ok _ => .error .step

/-- Bytes of the unit's chunk on the wire. -/
def UnitAt.wireLen (u : UnitAt) (ty : ElemType) : Nat := if u.wire then 16 * (u.len / ty.bytes) else u.len

/-- Partition bytes in use: forwarded chunks and kept contributions. -/
def CollRun.used (r : CollRun) : Nat :=
  (r.moors.foldl (fun n m => n + (m.data.getD []).length) 0) + r.kept.foldl (fun n k => n + k.2.2.length) 0

/-- Partition space, and a place for a forwarded chunk's mooring, are free for a unit that pulls. -/
def Comm.room (c : Comm) (r : CollRun) (u : UnitAt) : Bool :=
  let n := u.wireLen r.fmt
  decide (r.used + n + (if u.d.fw then n else 0) ≤ 4096 * c.entry.slen.toNat) && (!u.d.fw || r.freeSlot.isSome)

/-- The notice that a unit awaits: of its peer, its tag and its block in full (R412). -/
def Comm.awaited (c : Comm) (u : UnitAt) : Option Notice :=
  (c.inbox.find? fun i => i.notice.src == u.addr && i.notice.tag == u.tag && i.q == BitVec.ofNat 12 u.q).map (·.notice)

/-! ## Arbitration (R415) -/

/-- A unit is ready: its awaited notice has arrived, its partition space is free and, for WAIT, its condition holds. A notice of the wrong size needs no
space to fail. -/
def Comm.ready (c : Comm) (r : CollRun) : UnitNow → Bool
  | .wait => r.moors.isEmpty
  | .data u =>
    if u.d.op = 1 then r.freeSlot.isSome
    else if u.d.op = 4 then true
    else match c.awaited u with
      | none => false
      | some n => noticeBytes n != u.wireLen r.fmt || c.room r u

/-- The collective of a communicator that runs and is at a unit boundary, its program settled as its words stand now. -/
def State.atBoundary (s : State) (c : Comm) : Option CollRun :=
  match c.run with
  | none => none
  | some r => if s.collAway c || r.failing.isSome || r.passed || r.pull.isSome then none else some (s.atStep c (r.cpb + 4) r)

/-- The unit that a settled collective has at hand: none once its program has ended, an error where a step fails it. -/
def State.atHand (s : State) (c : Comm) (r : CollRun) : Option (Except CollReason UnitNow) :=
  match r.failing with
  | some (e, _) => some (.error e)
  | none => if r.passed then none else some (s.unitNow c r)

/-- The communicator has a ready unit. -/
def State.unitReady (s : State) (c : Comm) : Bool :=
  match s.atBoundary c with
  | none => false
  | some r =>
    match s.atHand c r with
    | some (.ok u) => c.ready r u
    | _ => false

/-- The engine is inside a unit of the communicator: it pulls, and no answer ABSENT has made it wait (R416; log entry 72). -/
def Comm.busy (c : Comm) : Bool :=
  match c.run.bind (·.pull) with
  | some p => !p.segs.any (·.absentWait)
  | none => false

/-- Place in the rotation after the index last served. -/
def State.turnOf (s : State) (c : Comm) : Nat := (c.idx.toNat + 127 - s.coll.last) % 64

/-- The engine is between units, and no other communicator with a ready unit goes before this one. -/
def State.collTurn (s : State) (c : Comm) : Bool :=
  !s.coll.comms.any fun o =>
    (o.idx != c.idx || o.entry.ctx != c.entry.ctx) &&
      (o.busy || (s.unitReady o &&
        (decide (o.entry.prio.toNat < c.entry.prio.toNat) || (o.entry.prio == c.entry.prio && decide (s.turnOf o < s.turnOf c)))))

/-! ## Units (R413) -/

def CollRun.buf (r : CollRun) (b : BitVec 2) : Nat := (r.bufs[b.toNat]'(by omega)).toNat

/-- The unit stops the collective: it fails at this boundary. -/
def State.failUnit (s : State) (c : Comm) (e : CollReason) (peer : Nat) : State := s.setComm (c.flag e (BitVec.ofNat 12 peer))

/-- The unit is complete. -/
def State.endUnit (s : State) (c : Comm) (r : CollRun) : State :=
  let s := s.setComm { c with run := some (s.goOn c r) }
  { s with coll := { s.coll with last := c.idx.toNat } }

/-- Writes a chunk of a buffer and marks it in the bitmap. -/
def State.putChunk (s : State) (c : Comm) (r : CollRun) (u : UnitAt) (bs : List Byte) : Except CollReason (State × CollRun) :=
  match s.collWrite c.entry.ctx (r.buf u.d.bd + u.off) bs with
  | .error e => .error e
  | .ok s => .ok (s, { r with bytes := r.bytes + bs.length, bitmap := (r.bitmap ++ [u.q * r.cpb + r.chunk]).eraseDups })

def State.ownChunk (s : State) (c : Comm) (r : CollRun) (u : UnitAt) : Except CollReason (List Byte) :=
  s.collRead c.entry.ctx (r.buf u.d.bs + u.off) u.len

/-- Moors a chunk and notifies a rank (R413, R227). A mooring for a revoked device counts as declined at once (R421). -/
def State.moorChunk (s : State) (c : Comm) (r : CollRun) (u : UnitAt) (dest : Nat) (data : Option (List Byte)) :
    Except CollReason (State × CollRun) :=
  match r.freeSlot, s.peerAddr c.entry dest with
  | _, .error e => .error e
  | none, .ok _ => .ok (s, r)
  | some k, .ok dst =>
    if s.revokedDev c.entry.cmp dst then .ok (s, r)
    else
    let gen := c.gens[k % 256]'(Nat.mod_lt _ (by decide))
    let n : Notice :=
      { tag := u.tag, size := BitVec.ofNat 20 (u.wireLen r.fmt / 16 - 1), cls := 0, prio := c.entry.prio, src := c.member,
        moor := BitVec.ofNat 8 k, gen := gen, cidx := 0, grp := false, off := 0, cmp := c.entry.cmp, ctx := c.entry.ctx }
    let m : CollMoor :=
      { slot := BitVec.ofNat 8 k, gen := gen, peer := BitVec.ofNat 12 dest, addr := dst, data := data, buffer := r.buf u.d.bs + u.off, len := u.len,
        wire := u.wire, remain := c.entry.timeout.toNat, absent := false, accepted := false, notice := n, q := BitVec.ofNat 12 u.q }
    .ok (s.collSend c dst (.notice n m.q), { r with moors := r.moors ++ [m] })

/-- A communicator at a unit boundary whose turn it is, with its unit at hand; the program words may fail it there, whosever turn it is. -/
def State.unitDue (s : State) (ctx : BitVec 4) (idx : Nat) : Option (Comm × CollRun × Except CollReason UnitNow) :=
  match s.comm ctx idx with
  | none => none
  | some c =>
    match s.atBoundary c with
    | none => none
    | some r =>
      let c := { c with run := some { r with failing := none } }
      match s.atHand c r with
      | none => none
      | some (.error e) => some (c, r, .error e)
      | some (.ok u) => if s.collTurn c && c.ready r u then some (c, r, .ok u) else none

/-- Performs a ready data step of the given op. -/
def State.dataUnit (s : State) (ctx : BitVec 4) (idx : Nat) (op : BitVec 4) (f : State → Comm → CollRun → UnitAt → State) : State :=
  match s.unitDue ctx idx with
  | some (c, _, .error e) => s.failUnit c e 0
  | some (c, r, .ok (.data u)) => if u.d.op = op then f s c r u else s
  | _ => s

def execStepNote (ctx : BitVec 4) (idx : Nat) (s : State) : Out :=
  .next (s.dataUnit ctx idx 1 fun s c r u =>
    match s.moorChunk c r u u.peer none with
    | .ok (s, r) => s.endUnit c r
    | .error e => s.failUnit c e 0)

def execStepCopy (ctx : BitVec 4) (idx : Nat) (s : State) : Out :=
  .next (s.dataUnit ctx idx 4 fun s c r u =>
    match s.ownChunk c r u with
    | .error e => s.failUnit c e 0
    | .ok bs =>
      match s.putChunk c r u bs with
      | .ok (s, r) => s.endUnit c r
      | .error e => s.failUnit c e 0)

/-- WAIT: every mooring made so far has been released. -/
def execStepWait (ctx : BitVec 4) (idx : Nat) (s : State) : Out :=
  .next (match s.unitDue ctx idx with
    | some (c, _, .error e) => s.failUnit c e 0
    | some (c, r, .ok .wait) => s.endUnit c r
    | _ => s)

/-! ## Pulls (R234 to R238, R413, R416, R417) -/

/-- The request for a segment of the pull in progress. -/
def State.collRequest (s : State) (c : Comm) (p : CollPull) (k : Nat) : State :=
  let n := p.notice
  s.collSend c n.src (.request
    { src := c.member, moor := n.moor, gen := n.gen, cidx := n.cidx, seg := k, land := 0, lgen := p.lgen, cmp := c.entry.cmp,
      coll := some ⟨n.src, c.idx⟩ })

/-- A pull has failed: its notice leaves the inbox, and where R243 says so the producer is sent a decline (R231). -/
def State.dropPull (s : State) (c : Comm) (r : CollRun) (n : Notice) (e : CollReason) (peer : Nat) (decline : Bool) : State :=
  let c := { c with inbox := c.inbox.filter fun i => !sameNotice i.notice n, run := some { r with pull := none } }
  let c := c.flag e (BitVec.ofNat 12 peer)
  if decline then s.collKeep c false n else s.setComm c

/-- A unit starts to pull: its space is reserved by its being the only one, and every segment is requested. -/
def State.startPull (s : State) (c : Comm) (r : CollRun) (u : UnitAt) : State :=
  match c.awaited u with
  | none => s
  | some n =>
    if noticeBytes n ≠ u.wireLen r.fmt then s.dropPull c r n .size u.peer true
    else
      let p : CollPull := { unit := u, notice := n, lgen := c.pulls, segs := (upTo (segCount (noticeBytes n))).map fun k => ⟨k, none, 0, false⟩ }
      let c := { c with pulls := c.pulls + 1, run := some { r with pull := some p } }
      (upTo p.segs.length).foldl (init := s.setComm c) fun s k => s.collRequest c p k

/-- The notice of a pull that is over leaves the inbox, and the unit is at its boundary again. -/
def Comm.endPull (c : Comm) (r : CollRun) (p : CollPull) : Comm :=
  { c with inbox := c.inbox.filter fun i => !sameNotice i.notice p.notice, run := some { r with pull := none } }

def Comm.setPull (c : Comm) (r : CollRun) (p : CollPull) : Comm := { c with run := some { r with pull := some p } }

def CollPull.mapSeg (p : CollPull) (k : Nat) (f : CollSeg → CollSeg) : CollPull :=
  { p with segs := p.segs.map fun g => if g.seg = k then f g else g }

/-- The bytes of a pull, once every segment has landed. -/
def CollPull.bytes (p : CollPull) : Option (List Byte) :=
  if p.segs.all (·.bytes.isSome) then some (p.segs.flatMap fun g => g.bytes.getD []) else none

/-- The sum of a fixed-order PRS with wr: it needs the contribution of every rank to the block. -/
def fixedTotal (c : Comm) (r : CollRun) (q : Nat) (own : List Byte) : Option (List Byte) :=
  let part (k : Nat) : Option (List Byte) :=
    if k = c.entry.rank.toNat then some own else (r.kept.find? fun x => x.1 == q && x.2.1 == k).map (·.2.2)
  let parts := (upTo c.size).filterMap part
  if parts.length = c.size then some (fixedSum r.fmt parts) else none

/-- PRS with its pulled chunk. -/
def prsUnit (c : Comm) (u : UnitAt) (s : State) (r : CollRun) (bs : List Byte) : Except CollReason (State × CollRun) :=
  match s.ownChunk c r u with
  | .error e => .error e
  | .ok own =>
    if c.entry.mode && r.op == 0 then
      if u.d.fw then .error .step
      else
        let r := { r with kept := r.kept ++ [(u.q, u.peer, bs)] }
        if !u.d.wr then .ok (s, r)
        else match fixedTotal c r u.q own with
          | none => .error .step
          | some total => s.putChunk c { r with kept := r.kept.filter fun x => x.1 != u.q } u total
    else
      let g := c.entry.anchor.toInt
      let a := if u.wire then addWire bs (toWire r.fmt g own) else pickRaw r.fmt r.op bs own
      match (if u.d.wr then s.putChunk c r u (if u.wire then fromWire r.fmt g a else a) else .ok (s, r)) with
      | .error e => .error e
      | .ok (s, r) => if u.d.fw then s.moorChunk c r u u.mirror (some a) else .ok (s, r)

/-- A unit with its pulled chunk. -/
def pulledUnit (c : Comm) (u : UnitAt) (s : State) (r : CollRun) (bs : List Byte) : Except CollReason (State × CollRun) :=
  if u.d.op = 3 then prsUnit c u s r bs
  else s.putChunk c r u (if u.wire then fromWire r.fmt c.entry.anchor.toInt bs else bs)

/-- The last segment has landed: the chunk is acknowledged, which is kept until it is answered, and the unit goes on with it. -/
def State.pullLanded (s : State) (c : Comm) (r : CollRun) (p : CollPull) (bs : List Byte) : State :=
  let n := p.notice
  let c := c.endPull r p
  let s := s.collKeep c true n
  let c := (s.comm c.entry.ctx c.idx.toNat).getD c
  match pulledUnit c p.unit s { r with pull := none } bs with
  | .error e => s.failUnit c e 0
  | .ok (s, r) => s.endUnit c r

/-- A segment of a pull has not landed, and has a property. -/
def CollPull.open_ (p : CollPull) (k : Nat) (f : CollSeg → Bool) : Bool := p.segs.any fun g => g.seg == k && g.bytes.isNone && f g

/-- What a pull in progress makes of an answer, of a request's time-out, or of the end of a wait (R236, R238, R417). A response of another compartment, or
any answer of a device that has been revoked, is a refusal (R419, R421). The producer is sent a decline where R243 says so. -/
def State.pullAnswer (s : State) (c : Comm) (r : CollRun) (p : CollPull) (ans : PullAnswer) : State :=
  let fail (e : CollReason) (decline : Bool) : State := s.dropPull c r p.notice e p.unit.peer decline
  let refuses (cmp : BitVec 16) : Bool := s.collRefuses c cmp p.notice.src
  let open_ := p.open_
  match ans with
  | .start => s
  | .data cmp k bs =>
    if !open_ k (fun _ => true) then s
    else if refuses cmp then fail .refused false
    else if bs.length ≠ segBytes (noticeBytes p.notice) k then s
    else
      let p := p.mapSeg k fun g => { g with bytes := some bs, absentWait := false }
      match p.bytes with
      | none => s.setComm (c.setPull r p)
      | some bs => s.pullLanded c r p bs
  | .done cmp => if refuses cmp then fail .refused false else s.setComm (c.endPull r p)
  | .stale cmp => if refuses cmp then fail .refused false else fail .stale false
  | .noRoute => fail .noRoute true
  | .refused => fail .refused false
  | .ecc cmp => if refuses cmp then fail .refused false else fail .ecc true
  | .absent k =>
    if !open_ k (fun _ => true) then s
    else if s.revokedDev c.entry.cmp p.notice.src then fail .refused false
    else s.setComm (c.setPull r (p.mapSeg k fun g => { g with absentWait := true }))
  | .retry k =>
    if open_ k (fun g => !g.absentWait && decide (6 ≤ g.tries)) then fail .noRoute true
    else if open_ k (fun g => !g.absentWait) then
      let p := p.mapSeg k fun g => { g with tries := g.tries + 1 }
      let c := c.setPull r p
      (s.setComm c).collRequest c p k
    else s
  | .again k =>
    if open_ k (·.absentWait) then
      let p := p.mapSeg k fun g => { g with absentWait := false }
      let c := c.setPull r p
      (s.setComm c).collRequest c p k
    else s

/-- A pulling unit of the given op: its turn, or what reaches its pull. -/
def State.stepPulling (s : State) (ctx : BitVec 4) (idx : Nat) (op : BitVec 4) (ans : PullAnswer) : State :=
  match s.comm ctx idx with
  | none => s
  | some c =>
    match c.run with
    | none => s
    | some r =>
      match r.pull with
      | some p => if p.unit.d.op = op ∧ r.failing = none then s.pullAnswer c r p ans else s
      | none => if ans = .start then s.dataUnit ctx idx op fun s c r u => s.startPull c r u else s

def execStepPull (ctx : BitVec 4) (idx : Nat) (ans : PullAnswer) (s : State) : Out := .next (s.stepPulling ctx idx 2 ans)
def execStepPrs (ctx : BitVec 4) (idx : Nat) (ans : PullAnswer) (s : State) : Out := .next (s.stepPulling ctx idx 3 ans)

/-! ## Frames to the engine (R404, R412) -/

/-- An answer to the request for a segment reaches the pull that sent it; a late one finds another pull, or its segment landed (R236, R237). -/
def State.collReply (s : State) (dest : CollEnd) (lgen : BitVec 8) (seg : Nat) (ans : PullAnswer) : State :=
  match s.commOf dest with
  | none => s
  | some c =>
    match c.run with
    | none => s
    | some r =>
      match r.pull with
      | some p => if p.lgen = lgen ∧ r.failing = none ∧ p.open_ seg (fun _ => true) then s.pullAnswer c r p ans else s
      | none => s

/-- An answer to a notice, a request or an acknowledgement of the engine (R231, R238, R244). -/
def State.collAnswered (s : State) (k : AnswerKind) : Answered → State
  | .coll dest moor gen =>
    match s.commOf dest with
    | none => s
    | some c =>
      let mark (m : CollMoor) : CollMoor := if m.slot = moor ∧ m.gen = gen then m.answered k else m
      s.setComm { c.mapMoors mark with owing := (c.owing.map mark).filter fun m => !m.accepted }
  | .collRequest dest lgen seg =>
    match k with
    | .absent => s.collReply dest lgen seg (.absent seg)
    | .noRoute => s.collReply dest lgen seg .noRoute
    | _ => s
  | .collAck dest src moor gen =>
    match k, s.commOf dest with
    | .accept, some c => s.setComm { c with acks := c.acks.filter fun a => !(a.dst == src && a.moor == moor && a.gen == gen) }
    | _, _ => s
  | _ => s

/-- The compartment that a frame names inside, where it names one. -/
def CollFrame.cmp : CollFrame → Option (BitVec 16)
  | .notice n _ => some n.cmp
  | .request r => some r.cmp
  | _ => none

/-- The communicator that a frame is for has the compartment under which the frame was authenticated (R420). -/
def State.collSame (s : State) (dest : CollEnd) (cmp : BitVec 16) : Bool := (s.commOf dest).all fun c => c.entry.cmp == cmp

/-- A frame of a compartment to a collective engine of this die arrives. One that names another inside, and an answer that does not come under the
communicator's, has not been authenticated under it and is discarded (R420). -/
def State.collDeliver (s : State) (dest : CollEnd) (cmp : BitVec 16) (f : CollFrame) : State :=
  if f.cmp.any (· != cmp) then s
  else match f with
    | .notice n q => s.collNotice dest n q
    | .request r => s.collServe dest r
    | .ack src moor gen => s.collConsumed dest cmp src moor gen
    | .decline src moor gen => s.collConsumed dest cmp src moor gen
    | .data r bs => s.collReply dest r.lgen r.seg (.data cmp r.seg bs)
    | .stale r => s.collReply dest r.lgen r.seg (.stale cmp)
    | .eccerr r => s.collReply dest r.lgen r.seg (.ecc cmp)
    | .refused r => s.collReply dest r.lgen r.seg .refused
    | .accept a => if s.collSame dest cmp then s.collAnswered .accept a else s
    | .full a => if s.collSame dest cmp then s.collAnswered .full a else s
    | .absent a => if s.collSame dest cmp then s.collAnswered .absent a else s
    | .noRoute a => if s.collSame dest cmp then s.collAnswered .noRoute a else s
    | .present src => if s.collSame dest cmp then s.collPresent src else s

/-! ## Completion and failure (R414, R417) -/

/-- The collective has ended: its record is written, where that succeeds, and its bytes are counted at the starting core. -/
def State.endColl (s : State) (c : Comm) (r : CollRun) (state : BitVec 2) (reason : BitVec 4) (peer : BitVec 12) : Except CollReason State :=
  let c := { c with run := none, state := state, reason := reason, step := BitVec.ofNat 12 r.stepAt, peer := peer }
  let rec_ := statusRecord c r
  match s.collWrite c.entry.ctx r.st.toNat rec_ with
  | .error e => .error e
  | .ok s => .ok ((s.setComm c).countFor c.entry.ctx (s.slotAddr r.bbase r.slot) (r.bytes + rec_.length))

def execCollectiveCompletion (ctx : BitVec 4) (idx : Nat) (s : State) : Out :=
  .next (match s.comm ctx idx with
    | none => s
    | some c =>
      match c.run with
      | none => s
      | some r =>
        let r := s.atStep c (r.cpb + 4) r
        if s.collAway c || r.failing.isSome || r.pull.isSome || !r.passed || !r.moors.isEmpty then s
        else match s.endColl c r 2 0 0 with
          | .ok s => s
          | .error e => s.setComm (c.flag e 0))

/-- The failure sequence at a unit boundary: a pull in progress is dropped with its notice, the moorings end, the record and the Count are written, and
COLLFAIL is posted unless the reason is ABORT. That no decline goes for a dropped pull is the model's choice: log entry 83. -/
def State.failColl (s : State) (c : Comm) (r : CollRun) (why : CollReason) (peer : BitVec 12) : State :=
  let c := match r.pull with
    | some p => { c with inbox := c.inbox.filter fun i => !sameNotice i.notice p.notice }
    | none => c
  let c := c.releaseAll r
  let s := match s.endColl c r 3 why.code peer with
    | .ok s => s
    | .error _ =>
      let c := { c with run := none, state := 3, reason := why.code, step := BitVec.ofNat 12 r.stepAt, peer := peer }
      (s.setComm c).countFor c.entry.ctx (s.slotAddr r.bbase r.slot) r.bytes
  if why = .abort then s else { s with posted := s.posted ++ [.collfail c.idx] }

/-- What only the staging memory can report: an uncorrectable error in it. The engine itself finds every other failure. -/
def collReported : CollReason → Bool
  | .ecc => true
  | _ => false

def execCollectiveFailure (ctx : BitVec 4) (idx : Nat) (why : CollReason) (peer : BitVec 12) (s : State) : Out :=
  .next (match s.comm ctx idx with
    | none => s
    | some c =>
      match c.run with
      | none => s
      | some r =>
        if s.collAway c then s
        else match r.failing with
          | some (e, p) => s.failColl c r e p
          | none => if collReported why then s.failColl c r why peer else s)

/-! ## Suspending a context (R418) -/

def execContextSuspend (ctx : BitVec 4) (s : State) : Out :=
  .next (s.setContext ctx { s.context ctx with suspended := true })

/-- PRESENT goes to every peer that was answered ABSENT, and the collectives go on. -/
def execContextResume (ctx : BitVec 4) (s : State) : Out :=
  let s := s.setContext ctx { s.context ctx with suspended := false }
  let mine := s.coll.comms.filter fun c => c.entry.ctx == ctx
  let s := s.sendAll (mine.flatMap fun c => c.owe.map fun a => .coll ⟨a, c.idx⟩ c.entry.vc c.entry.cmp (.present c.member))
  .next { s with coll := { s.coll with comms := s.coll.comms.map fun c => if c.entry.ctx = ctx then { c with owe := [] } else c } }

end Sys2Proof.Machine
end

