-- ==== Sys2Proof/Machine/Quay.lean ====
section
/-!
DEFINITION. The quay's tables and the traffic that reaches it (R226 to R244): moorings and their release, the inbox and matching, pulls, the
berth scheduler, failures and absent quays. The events of spec 95 that belong to the quay stand at the end.
-/

namespace Sys2Proof.Machine

/-! ## Moorings (R228 to R230) -/

def State.moor (s : State) (m : Nat) : MoorEntry := s.quay.moor[m % 256]'(Nat.mod_lt _ (by decide))
def State.setMoor (s : State) (m : Nat) (e : MoorEntry) : State :=
  s.setQuay fun q => { q with moor := q.moor.set (m % 256) e (Nat.mod_lt _ (by decide)) }

/-- A bit of a consumer mask. -/
def bit63 (i : Nat) : BitVec 63 := 1#63 <<< i

/-- Retention count: bits set in pending. -/
def MoorEntry.count (e : MoorEntry) : Nat := ((upTo 63).filter fun i => e.pending.getLsbD i).length
/-- The timer is frozen: some pending consumer is absent. -/
def MoorEntry.frozen (e : MoorEntry) : Bool := (e.pending &&& e.absent) != 0
/-- Granules of the block. -/
def MoorEntry.granules (e : MoorEntry) : List Nat := (upTo (e.size.toNat + 1)).map (e.off.toNat + ·)

/-- The generation of an entry's latest notices: release has ended it, and changes neither their pending bits nor the answers to them (R229). -/
def MoorEntry.noteGen (e : MoorEntry) : BitVec 8 := if e.valid then e.gen else e.gen - 1

/-- A queue has found the granule MOORED by a store .n or a write without a qualifier, and waits (R142). -/
def Queue.waitsMoored (q : Queue) (g : Nat) : Bool :=
  let waits (r : Running) : Bool := r.stage == .writing && (r.writes.head?.any fun w => w.loc == .spad g && (w.qual == .storeN || w.qual == .engine))
  q.run.any waits || q.hrun.any waits

/-- An agent sets a moored granule EMPTY: what waits for it is ordered after what the agent is (R142, R254). -/
def State.unmoor (s : State) (a : Agent) (g : Nat) : State :=
  let s := (Eng.all.filter fun e => (s.q.get e).waitsMoored g).foldl (fun (t : State) e => t.learn (.eng e 0) fun w => w.knownTo a) s
  (s.setGran g .empty).markGran a g

/-- Release: the block's granules become EMPTY, its bytes are counted into the release slot, and the entry ends its generation (R229). -/
def State.releaseBy (s : State) (a : Agent) (m : Nat) : State :=
  let e := s.moor m
  let s := e.granules.foldl (fun s g => s.unmoor a (granIdx s.selfRank g)) s
  let s := s.countAt e.baddr (16 * (e.size.toNat + 1))
  s.setMoor m { e with valid := false, expired := false, gen := e.gen + 1 }

/-- A release of the quay's own. -/
def State.release (s : State) (m : Nat) : State := s.releaseBy .quay m

/-- An acknowledgement (or a decline) of consumer `i` (R229): its notice has been delivered (R110). -/
def State.consumed (s : State) (ack : Bool) (m : Nat) (gen : BitVec 8) (i : Nat) : State :=
  let s := s.told m gen i
  let e := s.moor m
  if e.valid && e.gen == gen && decide (i < 63) && e.pending.getLsbD i then
    let e := { e with pending := e.pending &&& ~~~bit63 i, pulled := if ack then e.pulled ||| bit63 i else e.pulled }
    let s := s.setMoor m e
    if e.pending = 0 then s.release m else s
  else s

/-- HALT has retired on this core (R114, R242). -/
def State.haltedHere (s : State) : Bool := s.core.phase == .halted

/-- The timer of an entry reaches 0 (R229, R242). -/
def State.expire (s : State) (m : Nat) : State :=
  let e := s.moor m
  if s.haltedHere then (s.setMoor m { e with remain := 0 }).release m
  else
    let s := s.setMoor m { e with remain := 0, expired := true }
    { s with posted := s.posted ++ [.reclaim (BitVec.ofNat 8 m) e.gen] }

/-- The timer of an entry runs (R230). -/
def MoorEntry.ticking (e : MoorEntry) : Bool := e.valid && e.pending != 0 && !e.expired && !e.frozen

/-- One microsecond for one entry. -/
def State.tickMoor (s : State) (m : Nat) : State :=
  let e := s.moor m
  if !e.ticking then s
  else if e.remain.toNat ≤ 1 then s.expire m
  else s.setMoor m { e with remain := e.remain - 1 }

/-! ## Frames to a quay -/

/-- This core counts as bound for quay traffic: while a valid record names it, and after its launch's records have lapsed at completion while its
tables hold something (R226). -/
def State.quayBound (s : State) : Bool :=
  s.bound s.selfDie s.selfCore none ||
    (s.quay.lapsed && (s.quay.moor.toList.any (·.valid) || s.quay.land.toList.any (·.state != .free)))

/-- Keeps an acknowledgement or decline until it is answered, and sends it (R244). -/
def State.sendAck (s : State) (ack : Bool) (n : Notice) : State :=
  let k : KeptAck := ⟨n.src, n.moor, n.gen, n.cidx, ack⟩
  let s := s.setQuay fun q => { q with kept := q.kept ++ [k] }
  s.send (if ack then .ack n.src s.self n.moor n.gen n.cidx else .decline n.src s.self n.moor n.gen n.cidx)

def State.keptFrame (s : State) (k : KeptAck) : Frame :=
  if k.ack then .ack k.dst s.self k.moor k.gen k.cidx else .decline k.dst s.self k.moor k.gen k.cidx

/-! ## Inbox and landings (R231 to R233) -/

def State.land (s : State) (l : Nat) : LandEntry := s.quay.land[l % 64]'(Nat.mod_lt _ (by decide))
def State.setLand (s : State) (l : Nat) (e : LandEntry) : State :=
  s.setQuay fun q => { q with land := q.land.set (l % 64) e (Nat.mod_lt _ (by decide)) }

/-- A freed landing keeps its generation (R232, R237). -/
def LandEntry.freed (e : LandEntry) : LandEntry := { LandEntry.free with lgen := e.lgen }

def State.dropNotice (s : State) (n : Notice) : State :=
  s.setQuay fun q => { q with inbox := q.inbox.filter fun i => !sameNotice i.notice n }

def freshSeg (k : Nat) : SegState := ⟨k, false, false, false, false, 0, false, []⟩

/-- Requests in flight of a landing are forgotten. -/
def State.dropFlight (s : State) (l : Nat) : State :=
  (s.setQuay fun q => { q with inFlight := q.inFlight.filter fun p => p.1 != l }).refreshQuiet

/-- A landing whose removal was asked for is removed once nothing is in flight for it (R247). -/
def State.finishRemoval (s : State) (l : Nat) : State :=
  let e := s.land l
  if e.removing && !s.quay.inFlight.any (fun p => p.1 == l) then
    let s := s.setQuay fun q => { q with inbox := q.inbox.map fun i => if i.land = some l then { i with land := none } else i }
    s.setLand l e.freed
  else s

/-- A granule gets back what it held before the pull, unless it has been moored since (R143, R243). -/
def State.undoGranule (s : State) (u : Nat × GState × List Byte) : State :=
  if s.granState u.1 == .moored then s else (s.writeSpad (16 * u.1) u.2.2).setGran u.1 u.2.1

/-- A landing fails (R243): the granules of segments that are not counted get back their bytes and states. -/
def State.failLanding (s : State) (l : Nat) (reason : BitVec 4) (decline : Bool) : State :=
  let e := s.land l
  let s := ((e.segs.filter fun g => !g.counted).flatMap (·.undo)).foldl State.undoGranule s
  let s := s.setLand l { e with state := .failed, reason := reason, notice := none, segs := [], failing := none }
  let s := s.dropFlight l
  let s := match e.notice with
    | none => s
    | some n => let s := s.dropNotice n; if decline then s.sendAck false n else s
  let s := if s.haltedHere then s else { s with posted := s.posted ++ [.pullfail (BitVec.ofNat 6 l) e.lgen reason] }
  s.finishRemoval l

/-- A notice and a landing-table entry of one tag are paired (R233). -/
def State.pair (s : State) (n : Notice) (l : Nat) : State :=
  let e := s.land l
  if e.state = .standing then ((s.setLand l e.freed).dropNotice n).sendAck false n
  else
    let s := s.setQuay fun q => { q with inbox := q.inbox.map fun i => if sameNotice i.notice n then { i with land := some l } else i }
    let e := { e with state := .pulling, src := n.src, notice := some n, landed := 0,
                      segs := (upTo (segCount (noticeBytes n))).map freshSeg }
    let s := s.setLand l e
    if e.size < n.size then s.failLanding l 4 true else s

/-- The oldest posted landing or standing decline of a tag. -/
def State.oldestLand (s : State) (tag : BitVec 32) : Option Nat :=
  ((upTo 64).filter fun l =>
      (s.land l).tag == tag && ((s.land l).state == .posted || (s.land l).state == .standing) && !(s.land l).removing).foldl
    (init := none) fun best l =>
      match best with
      | none => some l
      | some b => if (s.land l).order < (s.land b).order then some l else some b

/-- The oldest unmatched notice of a tag. -/
def State.oldestNotice (s : State) (tag : BitVec 32) : Option Notice :=
  (s.quay.inbox.find? fun i => i.notice.tag == tag && i.land.isNone).map (·.notice)

/-- A newly posted entry takes the oldest unmatched notice of its tag (R233). -/
def State.matchLand (s : State) (l : Nat) : State :=
  match s.oldestNotice (s.land l).tag with
  | some n => s.pair n l
  | none => s

/-- A notice arrives (R231, R233, R244, R419). -/
def State.noticeIn (s : State) (n : Notice) : State :=
  let moor := n.moor.toNat
  let cidx := n.cidx.toNat
  if s.quay.absent then s.send (.absent n.src (.notice moor n.gen cidx))
  else if !s.quayBound then s.send (.noRouteR n.src (.notice moor n.gen cidx))
  else if n.cmp != s.cmpOf s.quayCtx || s.revokedDev n.cmp n.src then s
  else if s.quay.inbox.any fun i => sameNotice i.notice n then s.send (.accept n.src (.notice moor n.gen cidx))
  else if 256 ≤ s.quay.inbox.length then s.send (.fullR n.src (.notice moor n.gen cidx))
  else
    let s := s.setQuay fun q => { q with inbox := q.inbox ++ [⟨n, false, none⟩] }
    let s := s.send (.accept n.src (.notice moor n.gen cidx))
    match s.oldestLand n.tag with
    | some l => s.pair n l
    | none => s

/-- The notice of a mooring entry for consumer `i` (R227). -/
def State.noticeOf (s : State) (m i : Nat) : Notice :=
  let e := s.moor m
  { tag := e.tag, size := e.size, cls := e.cls, prio := e.prio, src := s.self, moor := BitVec.ofNat 8 m, gen := e.noteGen,
    cidx := BitVec.ofNat 6 i, grp := e.grp, off := e.off, cmp := s.cmpOf e.ctx, ctx := e.ctx }

/-- Changes an entry where an answer is to its latest notices. -/
def State.markMoor (s : State) (m : Nat) (gen : BitVec 8) (f : MoorEntry → MoorEntry) : State :=
  if (s.moor m).noteGen = gen then s.setMoor m (f (s.moor m)) else s

/-- A notice of an entry's generation to consumer `i` is answered ACCEPT or ABSENT: the consumer is marked, where these are its latest
notices. -/
def State.markConsumer (s : State) (m : Nat) (gen : BitVec 8) (i : Nat) (absent : Bool) : State :=
  (s.told m gen i).markMoor m gen fun e =>
    { e with accepted := if absent then e.accepted &&& ~~~bit63 i else e.accepted ||| bit63 i,
             absent := if absent then e.absent ||| bit63 i else e.absent &&& ~~~bit63 i }

/-- The consumers of a mooring entry on a device. -/
def MoorEntry.consumersOn (e : MoorEntry) (dev : BitVec 12) : List Nat :=
  (e.consumers.zipIdx.filter fun p => p.1.extractLsb' 0 12 == dev).map (·.2)

/-- The pending bits of a revoked device's consumers count as declines, and nothing is owed to them (R229, R421). -/
def State.declineDevice (s : State) (cmp : BitVec 16) (dev : BitVec 12) : State :=
  let s := s.setQuay fun q => { q with untold := q.untold.filter fun u => !(u.2.cmp == cmp && u.1.extractLsb' 0 12 == dev) }
  (upTo 256).foldl (init := s) fun s m =>
    let e := s.moor m
    if e.valid && s.cmpOf e.ctx == cmp then
      (e.consumersOn dev).foldl (init := s) fun s i => s.consumed false m e.gen i
    else s

/-! ## Pulling (R234 to R238) -/

def State.mapSeg (s : State) (l k : Nat) (f : SegState → SegState) : State :=
  let e := s.land l
  s.setLand l { e with segs := e.segs.map fun g => if g.seg = k then f g else g }

def LandEntry.seg (e : LandEntry) (k : Nat) : Option SegState := e.segs.find? (·.seg == k)

/-- Bytes of the block that a landing pulls. -/
def LandEntry.blockBytes (e : LandEntry) : Nat := (e.notice.map noticeBytes).getD 0

/-- Granules of segment k of a landing's region, as indices of `State.gran`. -/
def State.segGranules (s : State) (l k : Nat) : List Nat :=
  let e := s.land l
  (upTo ((segBytes e.blockBytes k + 15) / 16)).map fun j => granIdx s.selfRank (e.off.toNat + 256 * k + j)

/-- A segment of a landing that is pulling under a generation has a property. -/
def State.segIs (s : State) (l : Nat) (lgen : BitVec 8) (k : Nat) (p : SegState → Bool) : Bool :=
  let e := s.land l
  e.state == .pulling && e.lgen == lgen && (match e.seg k with | some g => p g | none => false)

/-- A response is accepted: its landing is pulling under that generation and about to fail for no earlier answer, and its segment is requested, and neither
landed nor landing (R236). -/
def State.accepts (s : State) (l : Nat) (lgen : BitVec 8) (k : Nat) : Bool :=
  (s.land l).failing.isNone && s.segIs l lgen k fun g => g.requested && !g.answered

/-- Counts the landed segments in ascending order; the last one completes the pull (R236). -/
def State.countSegs (s : State) (l : Nat) : Nat → State
  | 0 => s
  | fuel + 1 =>
    let e := s.land l
    match e.segs.find? fun g => !g.counted with
    | none =>
      match e.notice with
      | some n => ((s.dropNotice n).setLand l e.freed).sendAck true n
      | none => s
    | some g =>
      if !g.landed then s
      else
        let b := segBytes e.blockBytes g.seg
        let here (w : Recent) : Bool := w.writer == .quay && (s.segGranules l g.seg).any fun x => w.loc == .spad x
        let s := s.countWrites here e.baddr b
        let e := { e with landed := e.landed + BitVec.ofNat 32 b,
                          segs := e.segs.map fun h => if h.seg = g.seg then { h with counted := true, undo := [] } else h }
        (s.setLand l e).countSegs l fuel

/-- A segment has landed: it is counted in its turn (R236). -/
def State.segLanded (s : State) (l k : Nat) : State :=
  let s := s.mapSeg l k fun g => { g with landed := true }
  let s := s.setQuay fun q => { q with inFlight := q.inFlight.filter (· != (l, k)) }
  ((s.countSegs l ((s.land l).segs.length + 1)).finishRemoval l).refreshQuiet

/-- A response's landing still pulls it. -/
def State.landing (s : State) (a : Arrived) : Bool := s.segIs a.land a.lgen a.seg fun g => g.answered && !g.landed

/-- A landing fails, once the responses that came before have landed (R243, R251). -/
def State.failAfter (s : State) (l : Nat) (reason : BitVec 4) (decline : Bool) : State :=
  if s.quay.arrived.any fun a => a.land == l && s.landing a then s.setLand l { s.land l with failing := some (reason, decline) }
  else s.failLanding l reason decline

/-- A data response (R236, R237, R419): its granules are written one at a time, by moves of the quay. -/
def State.dataIn (s : State) (l : Nat) (lgen : BitVec 8) (k : Nat) (cmp : BitVec 16) (bytes : List Byte) : State :=
  if !s.accepts l lgen k then s
  else if cmp != s.cmpOf s.quayCtx || s.revokedDev cmp (s.land l).src then s.failAfter l 5 false
  else (s.mapSeg l k fun g => { g with answered := true }).setQuay fun q => { q with arrived := q.arrived ++ [⟨l, lgen, k, bytes, 0⟩] }

/-- The next granule of a response. -/
def State.nextGranule (s : State) (a : Arrived) : Option Nat := (s.segGranules a.land a.seg)[a.next]?

/-- The quay is done with a response: a landing that has been failing fails when none of its responses is left. -/
def State.doneWith (s : State) (a : Arrived) : State :=
  let s := s.setQuay fun q => { q with arrived := q.arrived.filter (· != a) }
  match (s.land a.land).failing with
  | some (reason, decline) => if (s.land a.land).state == .pulling then s.failAfter a.land reason decline else s
  | none => s

/-- The quay's write of a granule of a landing: an engine write without a qualifier (R142, R236). -/
def State.landGranule (s : State) (g : Nat) (bytes : List Byte) : State :=
  ((((s.writeSpad (16 * g) bytes).noteWrite s .quay 0 (.spad g) (BitVec.allOnes 16)).setGran g (Qual.engine.after (s.granState g))).markLanded g)

/-- The quay's move on a response: it writes the next granule, unless the granule is MOORED (R140, R142, R236); after the last one the segment has landed; a
response that its landing no longer pulls is dropped. -/
def State.landNext (s : State) (a : Arrived) : Option State :=
  if !s.landing a then some (s.doneWith a)
  else match s.nextGranule a with
    | none => some ((s.segLanded a.land a.seg).doneWith a)
    | some g =>
      if !Qual.engine.ready (s.granState g) then none
      else
        let old := (g, s.granState g, s.spad.getN (16 * g) 16)
        let s := (s.mapSeg a.land a.seg fun x => { x with undo := x.undo ++ [old] }).landGranule g ((a.bytes.drop (16 * a.next)).take 16)
        let b := { a with next := a.next + 1 }
        let s := s.setQuay fun q => { q with arrived := q.arrived.map fun x => if x = a then b else x }
        some (if (s.nextGranule b).isNone then (s.segLanded b.land b.seg).doneWith b else s)

/-- The first response on which the quay can move. -/
def State.arrivedStep (s : State) : Option State := s.quay.arrived.findSome? s.landNext

/-- The request for segment k of a landing (R234). -/
def State.requestOf (s : State) (l k : Nat) : Option Frame :=
  let e := s.land l
  e.notice.map fun n => .request n.src
    { src := s.self, moor := n.moor, gen := n.gen, cidx := n.cidx, seg := k, land := BitVec.ofNat 6 l, lgen := e.lgen,
      cmp := s.cmpOf s.quayCtx, coll := none }

/-- The producer's answer to a pull request (R235, R419). REFUSED goes under the requester's compartment: log entry 53. -/
def State.serve (s : State) (r : SegRequest) : State :=
  let e := s.moor r.moor.toNat
  if s.quay.absent then s.send (.absent r.src (.request r.land.toNat r.lgen r.seg))
  else if !s.quayBound then s.send (.noRouteR r.src (.request r.land.toNat r.lgen r.seg))
  else if r.cmp != s.cmpOf (if e.valid then e.ctx else s.quayCtx) || s.revokedDev r.cmp r.src then
    s.send (.refusedR r.src r.land r.lgen r.seg r.cmp)
  else if !e.valid || e.gen != r.gen then s.send (.staleR r.src r.land r.lgen r.seg)
  else if !(decide (r.cidx.toNat < 63) && e.pending.getLsbD r.cidx.toNat) then s.send (.doneR r.src r.land r.lgen r.seg)
  else
    let total := 16 * (e.size.toNat + 1)
    let n := segBytes total r.seg
    let a := spadAddr s.selfRank (16 * e.off.toNat + 4096 * r.seg)
    let bad := (upTo ((n + 15) / 16)).any fun j => s.poisoned (.spad (a / 16 + j))
    if bad then s.send (.eccerrR r.src r.land r.lgen r.seg)
    else s.send (.data r.src r.land r.lgen r.seg (s.cmpOf e.ctx) (s.spad.getN a n))

/-! ## The berth scheduler (R239 to R241) -/

/-- The pull class of a notice: its own, or the override of its tag. -/
def State.classOf (s : State) (n : Notice) : BitVec 4 :=
  ((s.quay.overrides.find? fun p => p.1 == n.tag).map (·.2)).getD n.cls

/-- The distance class of a source; none for a device without a route. -/
def State.distance (s : State) (src : QuayAddr) : Option Nat :=
  if devOf src = devOf s.self then some (if dieOf src = s.selfDie then 0 else 1)
  else (s.pkg.routes.find? fun p => p.1 == devOf src && p.2.valid).map fun p => p.2.dclass.toNat

/-- Bytes in flight of the landings that satisfy a test. -/
def State.flight (s : State) (p : LandEntry → Bool) : Nat :=
  (s.quay.inFlight.filter fun x => p (s.land x.1)).foldl (fun acc x => acc + segBytes (s.land x.1).blockBytes x.2) 0

/-- A segment that may be requested, with its key. -/
structure Berth where
  land : Nat
  seg : Nat
  prio : Nat
  dirty : Nat
  arrival : Nat
deriving DecidableEq, Repr

def Berth.before (a b : Berth) : Bool :=
  decide (a.prio < b.prio) || (a.prio == b.prio && (decide (a.dirty < b.dirty) || (a.dirty == b.dirty && decide (a.arrival < b.arrival))))

/-- Every granule of a landing's unlanded region is EMPTY: of the whole landing, which may be larger than the block that it pulls. -/
def State.clean (s : State) (l : Nat) : Bool :=
  let e := s.land l
  (upTo (e.size.toNat + 1)).all fun j =>
    (decide (16 * j < e.blockBytes) && e.segs.any fun h => h.seg == j / 256 && h.landed) || s.granState (granIdx s.selfRank (e.off.toNat + j)) == .empty

/-- The candidate of a landing: its lowest segment not yet requested, where its granules are EMPTY and the limits allow it. -/
def State.berth (s : State) (l : Nat) : Option Berth :=
  let e := s.land l
  match e.notice, e.segs.find? fun g => !g.requested with
  | some n, some g =>
    let b := segBytes e.blockBytes g.seg
    let empty := (s.segGranules l g.seg).all fun x => s.granState x == .empty
    let c := s.classOf n
    let pol := s.quay.policy[c.toNat]'(by omega)
    let share := (pol.extractLsb' 8 8).toNat
    let win := (pol.extractLsb' 16 16).toNat
    let classFlight := s.flight fun x => match x.notice with | some m => s.classOf m == c | none => false
    let paced := match s.distance n.src with
      | none => true
      | some d =>
        let f := s.flight fun x => match x.notice with | some m => s.distance m.src == some d | none => false
        let pwin := ((s.quay.pace[d % 8]'(Nat.mod_lt _ (by decide))).extractLsb' 0 24).toNat
        f == 0 || decide (f + b ≤ 64 * pwin)
    let ok := e.state == .pulling && !e.removing && e.failing.isNone && empty &&
      (share == 0 || decide (s.quay.issued[c.toNat]'(by omega) < 625 * share)) &&
      (win == 0 || classFlight == 0 || decide (classFlight + b ≤ 256 * win)) && paced
    if !ok then none
    else
      let p := min (max ((n.prio.toNat : Int) + (pol.extractLsb' 0 6).toInt) 0) 63
      let arr := (s.quay.inbox.findIdx? fun i => sameNotice i.notice n).getD 0
      some ⟨l, g.seg, p.toNat, if s.clean l then 0 else 1, arr⟩
  | _, _ => none

/-- The eligible landing with the lowest key. -/
def State.bestBerth (s : State) : Option Berth :=
  ((upTo 64).filterMap s.berth).foldl (init := none) fun best b =>
    match best with
    | none => some b
    | some a => if b.before a then some b else some a

/-- One decision of the scheduler; none while there is no candidate or the quay is absent. -/
def State.issueSeg (s : State) : Option State :=
  if s.quay.absent then none
  else match s.bestBerth with
    | none => none
    | some b =>
      let e := s.land b.land
      match e.notice, s.requestOf b.land b.seg with
      | some n, some f =>
        let c := s.classOf n
        let n0 := s.quay.issued[c.toNat]'(by omega)
        let s := s.mapSeg b.land b.seg fun g => { g with requested := true }
        let s := s.setQuay fun q => { q with
          inFlight := q.inFlight ++ [(b.land, b.seg)],
          issued := q.issued.set c.toNat (n0 + segBytes e.blockBytes b.seg) (by omega) }
        some ((s.send f).refreshQuiet)
      | _, _ => none

/-! ## Events of the quay -/

def execNotice (n : NoticeIn) (s : State) : Out :=
  .next (match n.coll with | some c => s.collNotice c.dest n.notice c.q | none => s.noticeIn n.notice)

/-- ACCEPT ends the wait for an answer and clears an absent mark (R231, R244). -/
def execAccept (about : Answered) (s : State) : Out :=
  .next (match about with
    | .notice m g i => s.markConsumer m g i false
    | .request _ _ _ => s
    | .ack src moor gen cidx =>
      s.setQuay fun q => { q with kept := q.kept.filter fun k =>
        !(k.dst == src && k.moor == moor && k.gen == gen && k.cidx == cidx) }
    | a => s.collAnswered .accept a)

/-- FULL clears an absent mark; the notice is sent again after 8 µs by NOTICE_RESEND_TIMEOUT (R231, R244). -/
def State.fullIn (s : State) (about : Answered) : State :=
  match about with
  | .notice m g i => s.markMoor m g fun e => { e with absent := e.absent &&& ~~~bit63 i, accepted := e.accepted &&& ~~~bit63 i }
  | .request _ _ _ => s
  | .ack _ _ _ _ => s
  | a => s.collAnswered .full a

/-- The notice that a FULL is an answer to. -/
def fullAbout (moor : Nat) : FullFor → Answered
  | .quay gen cidx => .notice moor gen cidx
  | .coll dest gen => .coll dest (BitVec.ofNat 8 moor) gen

def execFull (moor : Nat) (who : FullFor) (s : State) : Out := .next (s.fullIn (fullAbout moor who))

/-- A request that was answered ABSENT waits 64 µs, outside the repetitions of R238. -/
def State.requestAbsent (s : State) (l : Nat) (lgen : BitVec 8) (k : Nat) : State :=
  if s.accepts l lgen k then s.mapSeg l k fun g => { g with absentWait := true } else s

def execAbsent (about : Answered) (s : State) : Out :=
  .next (match about with
    | .notice m g i => s.markConsumer m g i true
    | .request l g k => s.requestAbsent l g k
    | .ack _ _ _ _ => s
    | a => s.collAnswered .absent a)

/-- NO-ROUTE fails a landing with reason NOROUTE; a notice, acknowledgement or decline is sent again by its timeout (R231, R243, R244). -/
def State.noRouteIn (s : State) (about : Answered) : State :=
  match about with
  | .notice m g i => (s.told m g i).markMoor m g fun e => { e with accepted := e.accepted &&& ~~~bit63 i }
  | .request l g k => if s.accepts l g k then s.failAfter l 3 true else s
  | .ack _ _ _ _ => s
  | a => s.collAnswered .noRoute a

def execNoRoute (about : Answered) (s : State) : Out := .next (s.noRouteIn about)

/-- PRESENT clears the absent marks of that consumer and sends again what was kept for it (R244). -/
def execPresent (src : QuayAddr) (s : State) : Out :=
  let s := s.setQuay fun q => { q with moor := q.moor.map fun e =>
    let bits := e.consumers.zipIdx.foldl (fun (b : BitVec 63) p => if p.1 == src then b ||| bit63 p.2 else b) 0
    { e with absent := e.absent &&& ~~~bits } }
  .next ((s.sendAll ((s.quay.kept.filter (·.dst == src)).map s.keptFrame)).collPresent src)

/-- A notice of this quay that has no answer, or another than ACCEPT, is sent again while its consumer's pending bit is set (R231), which release leaves as
it is (R229). One whose entry has published another block since has its bit no more, and goes on being sent while FENCE.fabric waits for it (R110): log
entry 27. -/
def State.resendNotice (s : State) (moor cidx : Nat) : State :=
  let e := s.moor moor
  let n := s.noticeOf moor cidx
  let due := decide (cidx < 63) && e.pending.getLsbD cidx && !e.accepted.getLsbD cidx
  let dst := if due then (e.consumers[cidx]?).filter fun d => !s.revokedDev n.cmp d else none
  let older := s.quay.untold.filter fun u => u.2.moor.toNat == moor && u.2.cidx.toNat == cidx && u.2.gen != n.gen
  s.sendAll ((dst.map fun d => Frame.notice d n).toList ++ older.map fun u => .notice u.1 u.2)

def execNoticeResendTimeout (moor : Nat) (who : ResendTo) (s : State) : Out :=
  .next (match who.coll with
    | some dest => s.collResend dest moor
    | none => s.resendNotice moor who.cidx)

def execSegmentRequestIssue (s : State) : Out := .next (s.issueSeg.getD s)
def execSegmentRequest (r : SegRequest) (s : State) : Out :=
  .next (match r.coll with | some dest => s.collServe dest r | none => s.serve r)
def execDataResponse (land : Nat) (lgen : BitVec 8) (seg : Nat) (cmp : BitVec 16) (data : List Byte) (s : State) : Out :=
  .next (s.dataIn land lgen seg cmp data)

/-- The source of a landing has been revoked: its answers are refused (R421). -/
def State.refusesSource (s : State) (l : Nat) : Bool := s.revokedDev (s.cmpOf s.quayCtx) (s.land l).src

/-- An answer without data fails a landing that accepts it; a revoked source's is refused (R243, R421). -/
def State.failAnswer (s : State) (l : Nat) (lgen : BitVec 8) (k : Nat) (reason : BitVec 4) (decline : Bool) : State :=
  if !s.accepts l lgen k then s
  else if s.refusesSource l then s.failAfter l 5 false
  else s.failAfter l reason decline

/-- DONE: the notice leaves the inbox and the landing is posted again (R236). -/
def execDoneResponse (land : Nat) (lgen : BitVec 8) (seg : Nat) (s : State) : Out :=
  .next (if !s.accepts land lgen seg then s
    else if s.refusesSource land then s.failAfter land 5 false
    else
      let e := s.land land
      let s := match e.notice with | some n => s.dropNotice n | none => s
      let s := s.setLand land { e with state := .posted, landed := 0, notice := none, segs := [], src := 0 }
      let s := (s.dropFlight land).finishRemoval land
      if (s.land land).state == .posted then s.matchLand land else s)

def execStaleResponse (land : Nat) (lgen : BitVec 8) (seg : Nat) (s : State) : Out :=
  .next (s.failAnswer land lgen seg 1 false)
def execEccerrResponse (land : Nat) (lgen : BitVec 8) (seg : Nat) (s : State) : Out :=
  .next (s.failAnswer land lgen seg 6 true)
def execRefused (land : Nat) (lgen : BitVec 8) (seg : Nat) (s : State) : Out :=
  .next (s.failAnswer land lgen seg 5 false)

/-- A request without an answer is repeated, six times at most (R238). -/
def execRequestRetryTimeout (land seg : Nat) (s : State) : Out :=
  let e := s.land land
  .next (match e.seg seg with
    | some g =>
      if e.state == .pulling && e.failing.isNone && g.requested && !g.answered && !g.absentWait && !s.quay.absent then
        if 6 ≤ g.tries then s.failAfter land 2 true
        else
          let s := s.mapSeg land seg fun g => { g with tries := g.tries + 1 }
          match s.requestOf land seg with
          | some f => s.send f
          | none => s
      else s
    | none => s)

def execAbsentWaitTimeout (land seg : Nat) (s : State) : Out :=
  let e := s.land land
  .next (match e.seg seg with
    | some g =>
      if e.state == .pulling && e.failing.isNone && g.absentWait && !s.quay.absent then
        let s := s.mapSeg land seg fun g => { g with absentWait := false }
        match s.requestOf land seg with
        | some f => s.send f
        | none => s
      else s
    | none => s)

/-- A pre-empted core's request that has had no answer is dropped, and sent again after the return (R271). The segment keeps its repetitions,
by the model's choice: log entry 88. -/
def execPreemptRequestDrop (land seg : Nat) (s : State) : Out :=
  .next (if s.quay.absent && s.quay.inFlight.contains (land, seg) && !((s.land land).seg seg).any (·.answered) then
      let s := s.mapSeg land seg fun g => if g.answered then g else { g with requested := false, absentWait := false }
      ((s.setQuay fun q => { q with inFlight := q.inFlight.filter (· != (land, seg)) }).finishRemoval land).refreshQuiet
    else s)

/-- An acknowledgement or decline is applied or discarded, and answered ACCEPT, which ends its repetition; a pre-empted producer answers ABSENT,
and owes its PRESENT; a core that is not bound answers NO-ROUTE (R226, R229, R244). -/
def State.ackIn (s : State) (ack : Bool) (src : QuayAddr) (moor gen : BitVec 8) (cidx : BitVec 6) : State :=
  if s.quay.absent then
    let s := s.setQuay fun q => { q with owePresent := (q.owePresent ++ [src]).eraseDups }
    s.send (.absent src (.ack s.self moor gen cidx))
  else if !s.quayBound then s.send (.noRouteR src (.ack s.self moor gen cidx))
  else if s.revokedDev (s.cmpOf (s.moor moor.toNat).ctx) src then s
  else (s.consumed ack moor.toNat gen cidx.toNat).send (.accept src (.ack s.self moor gen cidx))

/-- The compartment of the communicator that a frame is for: an event that names none has been authenticated under it. -/
def State.cmpAt (s : State) (dest : CollEnd) : BitVec 16 := ((s.commOf dest).map (·.entry.cmp)).getD 0

def execAcknowledgement (src : QuayAddr) (moor : BitVec 8) (gen : BitVec 8) (cidx : BitVec 6) (coll : Option CollEnd) (s : State) : Out :=
  .next (match coll with | some dest => s.collConsumed dest (s.cmpAt dest) src moor gen | none => s.ackIn true src moor gen cidx)
def execDecline (src : QuayAddr) (moor : BitVec 8) (gen : BitVec 8) (cidx : BitVec 6) (coll : Option CollEnd) (s : State) : Out :=
  .next (match coll with | some dest => s.collConsumed dest (s.cmpAt dest) src moor gen | none => s.ackIn false src moor gen cidx)

def execAckResendTimeout (a : KeptAt) (s : State) : Out :=
  .next (match a.coll with
    | some dest => s.collResendAck dest a.k
    | none =>
      match s.quay.kept[a.k]? with
      | some a => s.send (s.keptFrame a)
      | none => s)

/-- A tick of the package's microsecond clock: the mooring timers of the quay and of the collective engine, and a new interval of the berth
scheduler (R230, R239). -/
def State.microTick (s : State) : State :=
  ((upTo 256).foldl (fun s m => s.tickMoor m) s).setQuay (fun q => { q with issued := Vector.replicate 16 0 }) |>.collTick

/-- The microsecond clock ticks now (R230). -/
def State.ticksNow (s : State) : Bool := s.now.toNat % 2500 == 0

def execMicrosecondTick (s : State) : Out := .next (if s.ticksNow then s.microTick else s)

/-- The next tick takes the entry's timer to 0 (R229, R230). -/
def State.moorEnds (s : State) (m : Nat) : Bool := (s.moor m).ticking && decide ((s.moor m).remain.toNat ≤ 1)

/-- The tick that takes an entry's timer to 0: a tick of the whole clock. -/
def execMooringTimeout (moor : Nat) (s : State) : Out := .next (if s.ticksNow && s.moorEnds moor then s.microTick else s)

end Sys2Proof.Machine
end

