-- ==== Sys2Proof/Machine/Port.lean ====
section
/-!
DEFINITION. The port engine (R245 to R250): dense blocks and records, publishing, landings, notices, the quay's tables.
-/

namespace Sys2Proof.Machine

/-! ## Dense blocks and records (R245) -/

/-- Length in bytes of a dense block. -/
def denseLen (d : TDesc) : Nat := (descExt d 0 + 1) * fmtSize (descFmt d) * (descExt d 1 + 1)

/-- The shape of a dense block. -/
def denseShape (d : TDesc) : Bool :=
  descExt d 2 == 0 && descExt d 3 == 0 && (upTo 4).all (fun k => descWrap d k == 0) && descSwz d == 0 &&
    (descExt d 1 == 0 || descStride d 1 * 16 == (descExt d 0 + 1) * fmtSize (descFmt d))

/-- What a dense block of at least `atLeast` bytes refuses. -/
def denseBad (n atLeast : Nat) (d : TDesc) : Option Cause :=
  if descSpace d != 0 then some (.spaceStart n)
  else if 8 ≤ descFmt d || !denseShape d then some .fmt
  else if denseLen d % 16 != 0 || denseLen d < atLeast then some .arg
  else if Config.spadSize < 16 * descBase d + denseLen d then some (.spad (max (16 * descBase d) Config.spadSize))
  else none

/-- First granule of a dense block, as `State.gran` numbers it. -/
def denseGran (s : State) (d : TDesc) : Nat := granIdx s.selfRank (descBase d)

/-- Writes `n` bytes of a number at the start of a dense block, as engine writes without a qualifier. -/
def recordVisits (s : State) (d : TDesc) (n v : Nat) : List WVisit :=
  (upTo (n / 16)).map fun k =>
    let g := denseGran s d + k
    ⟨g, .spad g, .engine, BitVec.allOnes 16, BitVec.ofNat 128 (v / 2 ^ (128 * k))⟩

/-- The parts of the first `n` bytes of a dense block, 4 bytes each. -/
def denseWords (s : State) (d : TDesc) (n : Nat) : List Part :=
  (upTo (n / 4)).map fun k =>
    let g := denseGran s d + k / 4
    .piece (.spad g) g (k % 4 * 4) 4

/-! ## Records (R227, R228, R232) -/

def noticeRecord (n : Notice) : BitVec 256 :=
  (0#76 ++ n.ctx ++ n.cmp ++ 0#14 ++ n.off ++ 1#1 ++ 0#8 ++ BitVec.ofBool n.grp ++ n.cidx ++ n.gen ++ n.moor ++ n.src ++
    0#2 ++ n.prio ++ n.cls ++ n.size ++ n.tag : BitVec 256)

def moorRecord (e : MoorEntry) : BitVec 256 :=
  (0#1 ++ e.pulled ++ 0#1 ++ e.pending ++ 0#4 ++ e.slot ++ e.group ++ BitVec.ofBool e.grp ++ BitVec.ofBool e.frozen ++ e.remain ++
    e.gen ++ BitVec.ofNat 6 e.count ++ e.off ++ BitVec.ofBool e.expired ++ BitVec.ofBool e.valid ++ e.prio ++ e.cls ++ e.size ++
    e.tag : BitVec 256)

def LandState.code : LandState → BitVec 3
  | .free => 0 | .posted => 1 | .pulling => 2 | .failed => 3 | .standing => 4

def landRecord (l : Nat) (e : LandEntry) : BitVec 256 :=
  (0#64 ++ e.src ++ e.landed ++ 0#26 ++ e.size ++ e.off ++ 0#6 ++ BitVec.ofNat 6 l ++ e.slot ++ e.lgen ++ e.reason ++ 0#1 ++
    e.state.code ++ e.tag : BitVec 256)

/-! ## Selections -/

/-- The lowest free mooring index (R246). -/
def State.freeMoor (s : State) : Option Nat := (upTo 256).find? fun m => !(s.moor m).valid
/-- The lowest free landing (R247). -/
def State.freeLand (s : State) : Option Nat := (upTo 64).find? fun l => (s.land l).state == .free

/-- The valid entries that RELS or RETEND names by index and generation (R250). -/
def State.moorNamed (s : State) (x : Word) : List Nat :=
  let m := (x.extractLsb' 0 8).toNat
  if (s.moor m).valid && (s.moor m).gen == x.extractLsb' 8 8 then [m] else []

def State.moorTagged (s : State) (tag : BitVec 32) : List Nat :=
  (upTo 256).filter fun m => (s.moor m).valid && (s.moor m).tag == tag

/-- The tag in s[31:0]. -/
def tagOf (r : Running) : BitVec 32 := r.entry.x4.extractLsb' 0 32

/-- The oldest notice not yet reported (R248), of a tag or of any. -/
def State.unreported (s : State) (tag : Option (BitVec 32)) : Option Notice :=
  (s.quay.inbox.find? fun i => !i.reported && (match tag with | some t => i.notice.tag == t | none => true)).map (·.notice)

/-- Unmatched notices of a tag, oldest first. -/
def State.unmatched (s : State) (tag : BitVec 32) : List Notice :=
  (s.quay.inbox.filter fun i => i.notice.tag == tag && i.land.isNone).map (·.notice)

/-- The oldest landing-table entry of a tag (R248). -/
def State.oldestEntry (s : State) (tag : BitVec 32) : Option Nat :=
  ((upTo 64).filter fun l => (s.land l).state != .free && (s.land l).tag == tag).foldl (init := none) fun best l =>
    match best with
    | none => some l
    | some b => if (s.land l).order < (s.land b).order then some l else some b

/-! ## Holding at the queue head -/

/-- The PRT commands that a speculative task does not hold (R245). -/
def prtSpecFree : Instr → Bool
  | .nwaitN _ => true
  | .landq _ => true
  | .moorq _ => true
  | .moorqTag _ => true
  | _ => false

/-- PSIG and PWAITK, the token words of the queue. -/
def prtToken : Instr → Bool
  | .psig _ => true
  | .pwaitk _ => true
  | _ => false

/-- A PRT command of a speculative task waits at the head of its queue, PBWAIT among them (R245, R340, R344). -/
def prtSpecHeld (i : Instr) (d1 : TDesc) (s : State) : Bool :=
  s.specNow && !prtToken i && (if prtSpecFree i then s.outsideFrame d1 else true)

/-- A PRT command whose checks pass waits at the head of its queue for a table entry or a notice (R246 to R248). -/
def prtHeld (i : Instr) (x4 : Word) (s : State) : Bool :=
  let tag := x4.extractLsb' 0 32
  match i with
    | .note _ _ _ => s.freeMoor.isNone
    | .noteG _ _ _ => s.freeMoor.isNone
    | .land _ _ => s.freeLand.isNone
    | .decl => (s.unmatched tag).isEmpty && s.freeLand.isNone
    | .nwait _ => (s.unreported none).isNone
    | .nwaitTag _ => (s.unreported (some tag)).isNone
    | _ => false

/-! ## Checks (R245 to R250) -/

/-- The bits of s that a command uses. -/
def prtFields : Instr → BitVec 64
  | .note _ _ _ => BitVec.allOnes 64
  | .noteG _ _ _ => BitVec.allOnes 64
  | .land _ _ => 0xFFFFFFFF
  | .unland => 0xFFFFFFFF
  | .decl => 0xFFFFFFFF
  | .declAll => 0xFFFFFFFF
  | .nwaitTag _ => 0xFFFFFFFF
  | .landq _ => 0xFFFFFFFF
  | .relsTag => 0xFFFFFFFF
  | .moorqTag _ => 0xFFFFFFFF
  | .pgrp _ => 0x3F
  | .pclass => 0x1FFFFFFFFF
  | .rels => 0xFFFF
  | .retend => 0xFFFFFFFF
  | .retendTag => 0xFFFFFFFFFFFF
  | .moorq _ => 0xFF
  | _ => 0

/-- The s of a NOTE (R246): E and what it leaves zero. -/
def noteArgBad (x : Word) : Bool :=
  if x.getLsbD 63 then x.extractLsb' 32 16 == 0 || x.extractLsb' 58 5 != 0 else x.extractLsb' 32 31 != 0

/-- A consumer or member list (R246). -/
def listBad (d : TDesc) : Option Cause :=
  if descSpace d != 0 || descFmt d != 5 || descExt d 1 != 0 || descExt d 2 != 0 || descExt d 3 != 0 || descSwz d != 0 ||
      (upTo 4).any (fun k => descWrap d k != 0) then some .fmt
  else if 62 < descExt d 0 then some .arg
  else if Config.spadSize < 16 * descBase d + 4 * (descExt d 0 + 1) then some (.spad (max (16 * descBase d) Config.spadSize))
  else none

/-- The first failure of a list of checks. -/
def firstBad : List (Option Cause) → Option Cause
  | [] => none
  | some c :: _ => some c
  | none :: l => firstBad l

def argIf (b : Bool) : Option Cause := if b then some .arg else none

/-- The group of a NOTE.g. -/
def State.group (s : State) (g : BitVec 6) : List QuayAddr := s.quay.groups[g.toNat]'(by omega)

/-- What a PRT command refuses at its start. -/
def prtStart (n : Nat) (r : Running) (s : State) : Option Cause :=
  let x := r.entry.x4
  let fields := argIf ((x &&& ~~~prtFields r.entry.instr) != 0)
  match r.entry.instr with
  | .note _ _ _ => firstBad [denseBad n 0 r.d1, listBad r.d2, argIf (noteArgBad x)]
  | .noteG _ g _ => firstBad [denseBad n 0 r.d1, argIf ((s.group g).isEmpty), argIf (noteArgBad x)]
  | .land _ _ => firstBad [fields, denseBad n 0 r.d1]
  | .nwait _ => denseBad n 32 r.d1
  | .nwaitN _ => denseBad n 32 r.d1
  | .nwaitTag _ => firstBad [fields, denseBad n 32 r.d1]
  | .landq _ => firstBad [fields, denseBad n 32 r.d1]
  | .moorq _ => firstBad [fields, denseBad n 32 r.d1]
  | .moorqTag _ => firstBad [fields, denseBad n 32 r.d1]
  | .ppol _ => denseBad n 128 r.d1
  | .ppace _ => denseBad n 32 r.d1
  | .pgrp _ => firstBad [fields, listBad r.d1]
  | .pclass =>
    let tag := tagOf r
    let known := s.quay.overrides.any fun p => p.1 == tag
    firstBad [fields, argIf (!x.getLsbD 36 && !known && decide (16 ≤ s.quay.overrides.length))]
  | .retend => firstBad [fields, argIf (x.extractLsb' 16 16 == 0)]
  | .retendTag => firstBad [fields, argIf (x.extractLsb' 32 16 == 0)]
  | _ => fields

/-- The reads of a PRT command: the list or table it names. A NOTE takes its mooring index here. -/
def prtPlan (r : Running) (s : State) : Planned :=
  let read (ps : List Part) (aux : Nat) : Planned := .go (readVisits .loadW ps []) ps [] (BitVec.ofNat 256 aux) s
  match r.entry.instr with
  | .note _ _ _ =>
    match s.freeMoor with
    | none => .wait
    | some m => read (denseWords s r.d2 (4 * (descExt r.d2 0 + 1))) m
  | .noteG _ g _ =>
    match s.freeMoor with
    | none => .wait
    | some m => .go [] ((s.group g).map fun a => .lit a.toNat 4) [] (BitVec.ofNat 256 m) s
  | .ppol _ => read (denseWords s r.d1 128) 0
  | .ppace _ => read (denseWords s r.d1 32) 0
  | .pgrp _ => read (denseWords s r.d1 (4 * (descExt r.d1 0 + 1))) 0
  | _ => .none s

/-- The 4-byte words that a command read. -/
def prtWords (r : Running) : List (BitVec 32) := r.src.map fun p => BitVec.ofNat 32 (partVal r.got p)

/-- A member list names each quay once and leaves the reserved field of each address zero. -/
def membersBad (l : List (BitVec 32)) : Bool := l.any (fun a => a.extractLsb' 20 12 != 0) || decide (l.eraseDups.length ≠ l.length)

/-- Pairs of words as 64-bit entries. -/
def pairWords : List (BitVec 32) → List (BitVec 64)
  | a :: b :: l => (b ++ a : BitVec 64) :: pairWords l
  | _ => []

/-- What the contents of a list or table refuse, before any effect (R246, R249). -/
def prtContent (r : Running) : Option Cause :=
  let w := prtWords r
  match r.entry.instr with
  | .note _ _ _ => argIf (membersBad w)
  | .pgrp _ => argIf (membersBad w)
  | .ppol _ => argIf ((pairWords w).any fun e => e.extractLsb' 6 2 != 0 || e.extractLsb' 32 32 != 0)
  | .ppace _ => argIf (w.any fun e => e.extractLsb' 24 8 != 0)
  | _ => none

/-! ## Effects -/

/-- The granules of a NOTE's block: each waits until it is FULL and becomes MOORED (R246). -/
def noteVisits (r : Running) (s : State) : List WVisit :=
  (upTo (denseLen r.d1 / 16)).map fun k => ⟨denseGran s r.d1 + k, .spad (denseGran s r.d1 + k), .moor, 0, 0⟩

/-- Timeout, class and priority of a NOTE (R246). -/
def noteParams (x : Word) : BitVec 16 × BitVec 4 × BitVec 6 :=
  if x.getLsbD 63 then (x.extractLsb' 32 16, x.extractLsb' 48 4, x.extractLsb' 52 6) else (4096, 0, 32)

/-- The entry becomes valid and the notices go out, in list order (R246). The pending bit of a consumer on a revoked device counts as a decline at once, and
no notice goes to it (R421). -/
def State.publish (s : State) (r : Running) (m : Nat) (slot : BitVec 4) (grp : Option (BitVec 6)) : State :=
  let l := prtWords r
  let (remain, cls, prio) := noteParams r.entry.x4
  let e : MoorEntry :=
    { tag := tagOf r, size := BitVec.ofNat 20 (denseLen r.d1 / 16 - 1), cls := cls, prio := prio, valid := true, expired := false,
      off := BitVec.ofNat 18 (descBase r.d1), gen := (s.moor m).gen, remain := remain, grp := grp.isSome,
      group := grp.getD 0, slot := slot, pending := BitVec.ofNat 63 (2 ^ l.length - 1), pulled := 0, absent := 0, accepted := 0,
      baddr := s.slotAddr r.bbase slot, consumers := l, ctx := r.ctx.extractLsb' 0 4 }
  let s := s.setMoor m e
  let gone (p : QuayAddr × Nat) : Bool := s.revokedDev (s.cmpOf e.ctx) p.1
  let out := (l.zipIdx.filter fun p => !gone p).map fun p => (p.1, s.noticeOf m p.2)
  let t := (s.setQuay fun q => { q with untold := q.untold ++ out }).sendAll (out.map fun p => .notice p.1 p.2)
  (l.zipIdx.filter gone).foldl (fun t p => t.consumed false m e.gen p.2) t

/-- A landing or standing decline is posted in a free entry, and matched (R247, R248). -/
def State.post (s : State) (l : Nat) (tag : BitVec 32) (st : LandState) (slot : BitVec 4) (off : BitVec 18) (size : BitVec 20)
    (baddr : Nat) : State :=
  let e := { LandEntry.free with
    tag := tag, state := st, lgen := (s.land l).lgen + 1, slot := slot, off := off, size := size, baddr := baddr, order := s.quay.posted }
  let s := (s.setQuay fun q => { q with posted := q.posted + 1 }).setLand l e
  s.matchLand l

/-- UNLAND removes an entry: at once, or when nothing is in flight for it (R247). -/
def State.removeLand (s : State) (l : Nat) : State :=
  let e := s.land l
  if e.state == .pulling then (s.setLand l { e with removing := true }).finishRemoval l else s.setLand l e.freed

/-- Marks a notice reported. -/
def State.markReported (s : State) (n : Notice) : State :=
  s.setQuay fun q => { q with inbox := q.inbox.map fun i => if sameNotice i.notice n then { i with reported := true } else i }

/-- NWAIT's report of a notice; none writes zeros (R248). -/
def State.report (s : State) (r : Running) (n : Option Notice) : Acted :=
  match n with
  | some n =>
    let s := (s.markReported n).setSys fun x => { x with ntag := 1#1 ++ n.tag }
    ⟨s, recordVisits s r.d1 32 (noticeRecord n).toNat, 0⟩
  | none =>
    let s := s.setSys fun x => { x with ntag := 0 }
    ⟨s, recordVisits s r.d1 32 0, 0⟩

def State.retend (s : State) (timeout : BitVec 16) (ms : List Nat) : State :=
  ms.foldl (init := s) fun s m =>
    let e := s.moor m
    let p := Posted.reclaim (BitVec.ofNat 8 m) e.gen
    { s with posted := s.posted.filter (· != p) }.setMoor m { e with remain := timeout, expired := false }

/-- What a PRT command does once its list or table is read and checked. -/
def prtAct (r : Running) (s : State) : Acted :=
  let x := r.entry.x4
  let tag := tagOf r
  match r.entry.instr with
  | .note _ _ _ => ⟨s, noteVisits r s, 0⟩
  | .noteG _ _ _ => ⟨s, noteVisits r s, 0⟩
  | .land _ slot =>
    match s.freeLand with
    | some l =>
      .only (s.post l tag .posted slot (BitVec.ofNat 18 (descBase r.d1)) (BitVec.ofNat 20 (denseLen r.d1 / 16 - 1))
        (s.slotAddr r.bbase slot))
    | none => .only s
  | .unland => .only (((upTo 64).filter fun l => (s.land l).state != .free && (s.land l).tag == tag).foldl State.removeLand s)
  | .unlandAll => .only (((upTo 64).filter fun l => (s.land l).state != .free).foldl State.removeLand s)
  | .decl =>
    match s.unmatched tag with
    | n :: _ => .only ((s.dropNotice n).sendAck false n)
    | [] =>
      match s.freeLand with
      | some l => .only (s.post l tag .standing 0 0 0 0)
      | none => .only s
  | .declAll => .only ((s.unmatched tag).foldl (fun s n => (s.dropNotice n).sendAck false n) s)
  | .nwait _ => s.report r (s.unreported none)
  | .nwaitN _ => s.report r (s.unreported none)
  | .nwaitTag _ => s.report r (s.unreported (some tag))
  | .landq _ => ⟨s, recordVisits s r.d1 32 (((s.oldestEntry tag).map fun l => (landRecord l (s.land l)).toNat).getD 0), 0⟩
  | .ppol _ =>
    let w := pairWords (prtWords r)
    .only (s.setQuay fun q => { q with policy := Vector.ofFn fun i => (w[i.val]?).getD 0 })
  | .ppace _ =>
    let w := prtWords r
    .only (s.setQuay fun q => { q with pace := Vector.ofFn fun i => (w[i.val]?).getD 0 })
  | .pgrp _ => .only (s.setQuay fun q => { q with groups := q.groups.set (x.extractLsb' 0 6).toNat (prtWords r) (by omega) })
  | .pclass =>
    let rest := s.quay.overrides.filter fun p => p.1 != tag
    .only (s.setQuay fun q => { q with overrides := if x.getLsbD 36 then rest else rest ++ [(tag, x.extractLsb' 32 4)] })
  | .rels => .only ((s.moorNamed x).foldl (State.releaseBy · (.eng .prt r.entry.no)) s)
  | .relsTag => .only ((s.moorTagged tag).foldl (State.releaseBy · (.eng .prt r.entry.no)) s)
  | .retend => .only (s.retend (x.extractLsb' 16 16) (s.moorNamed x))
  | .retendTag => .only (s.retend (x.extractLsb' 32 16) (s.moorTagged tag))
  | .moorq _ => ⟨s, recordVisits s r.d1 32 (moorRecord (s.moor (x.extractLsb' 0 8).toNat)).toNat, 0⟩
  | .moorqTag _ => ⟨s, recordVisits s r.d1 32 (((s.moorTagged tag).head?.map fun m => (moorRecord (s.moor m)).toNat).getD 0), 0⟩
  | _ => .only s

/-- What follows the writes of a PRT command; none while it waits for responses in flight (R246, R247). -/
def prtFinish (r : Running) (s : State) : Option State :=
  let index : Option Nat := let m := r.aux.toNat; if (s.moor m).valid then s.freeMoor else some m
  let removing (p : LandEntry → Bool) : Bool := s.quay.land.toList.any fun e => e.removing && p e
  match r.entry.instr with
  | .note _ _ slot => index.map fun m => s.publish r m slot none
  | .noteG _ g slot => index.map fun m => s.publish r m slot (some g)
  | .unland => if removing (fun e => e.tag == tagOf r) then none else some s
  | .unlandAll => if removing (fun _ => true) then none else some s
  | _ => some s

/-! ## At the splitter -/

def execNote (d1 d2 : BitVec 6) (s : BitVec 4) (st : State) : Out := issueWord .prt (.note d1 d2 s) st
def execNoteG (d1 : BitVec 6) (g : BitVec 6) (s : BitVec 4) (st : State) : Out := issueWord .prt (.noteG d1 g s) st
def execLand (d1 : BitVec 6) (s : BitVec 4) (st : State) : Out := issueWord .prt (.land d1 s) st
def execUnland (s : State) : Out := issueWord .prt .unland s
def execUnlandAll (s : State) : Out := issueWord .prt .unlandAll s
def execDecl (s : State) : Out := issueWord .prt .decl s
def execDeclAll (s : State) : Out := issueWord .prt .declAll s
def execNwait (d1 : BitVec 6) (s : State) : Out := issueWord .prt (.nwait d1) s
def execNwaitN (d1 : BitVec 6) (s : State) : Out := issueWord .prt (.nwaitN d1) s
def execNwaitTag (d1 : BitVec 6) (s : State) : Out := issueWord .prt (.nwaitTag d1) s
def execLandq (d1 : BitVec 6) (s : State) : Out := issueWord .prt (.landq d1) s
def execPpol (d1 : BitVec 6) (s : State) : Out := issueWord .prt (.ppol d1) s
def execPpace (d1 : BitVec 6) (s : State) : Out := issueWord .prt (.ppace d1) s
def execPgrp (d1 : BitVec 6) (s : State) : Out := issueWord .prt (.pgrp d1) s
def execPclass (s : State) : Out := issueWord .prt .pclass s
def execRels (s : State) : Out := issueWord .prt .rels s
def execRelsTag (s : State) : Out := issueWord .prt .relsTag s
def execRetend (s : State) : Out := issueWord .prt .retend s
def execRetendTag (s : State) : Out := issueWord .prt .retendTag s
def execMoorq (d1 : BitVec 6) (s : State) : Out := issueWord .prt (.moorq d1) s
def execMoorqTag (d1 : BitVec 6) (s : State) : Out := issueWord .prt (.moorqTag d1) s
def execPsig (t : BitVec 4) (s : State) : Out := issueWord .prt (.psig t) s
def execPwaitk (t : BitVec 4) (s : State) : Out := issueWord .prt (.pwaitk t) s
def execPbwait (slot : BitVec 4) (s : State) : Out := issueWord .prt (.pbwait slot) s
def execNoteL (d1 d2 : BitVec 6) (s : BitVec 4) (imm : BitVec 32) (st : State) : Out := issueLong .prt (.note d1 d2 s) 1 imm st
def execLandL (d1 : BitVec 6) (s : BitVec 4) (imm : BitVec 32) (st : State) : Out := issueLong .prt (.land d1 s) 2 imm st
def execUnlandL (imm : BitVec 32) (s : State) : Out := issueLong .prt .unland 3 imm s
def execDeclL (imm : BitVec 32) (s : State) : Out := issueLong .prt .decl 4 imm s
def execNwaitL (d1 : BitVec 6) (imm : BitVec 32) (s : State) : Out := issueLong .prt (.nwaitTag d1) 5 imm s
def execRetendL (imm : BitVec 32) (s : State) : Out := issueLong .prt .retend 6 imm s

end Sys2Proof.Machine
end

