-- ==== Sys2Proof/Machine/Kv.lean ====
section
/-!
DEFINITION. The KV cache engine (R355 to R377): its checks, the pages and tails it changes, early exit and the tether, and what its
commands read and write.
-/

namespace Sys2Proof.Machine

/-! ## Entries and frames -/

def KvHandle.zero (index : Nat) (gen : BitVec 8) : KvHandle :=
  { index := index, gen := gen, tenant := 0, ctx := 0, model := 0, valid := false, bound := 0, len := 0, lo := 0, owed := 0,
    mapFrame := 0, fl := [], pages := [], hidden := [] }

def State.kvEntry (s : State) (i : Nat) : KvHandle := (s.kvHandle i).getD (KvHandle.zero i 0)

/-- The states of a frame as the handle has them (R363, R370): a frame that a fork shares may hold states of the other handle. -/
def KvHandle.guard (h : KvHandle) (l pg : Nat) (f : KvFrame) : KvFrame :=
  { f with states := f.states.zipIdx.map fun p => if h.shut l (64 * pg + p.2) then 0 else p.1 }

/-- The page map of a handle is written: its layout is the engine's (R357). -/
def State.putMap (s : State) (h : KvHandle) : Except Cause State :=
  (s.setKvHandle h).kvStore h.ctx (4096 * h.mapFrame) ((upTo (64 + 8 * h.pages.length)).map (Config.pageMapByte h.index h.pages))

/-- A page's frame is the handle's own. -/
def KvHandle.repoint (h : KvHandle) (l pg n : Nat) : KvHandle :=
  { h with pages := (h.pages.filter fun p => !(p.1 == l && p.2.1 == pg)) ++ [(l, pg, n)]
           hidden := h.hidden.filter fun p => !(p.1 == l && p.2.1 == pg) }

/-- A frame's rows are copied into another (R361). -/
def State.copyFrame (s : State) (e : Nat) (old new : KvFrame) : Except Cause State :=
  (s.kvFetch old.ctx [(old.base + 64, old.size e - 64)]).bind (s.kvStore new.ctx (new.base + 64))

/-- The frame of page (or tail) `pg` of a layer, made the handle's own: taken where there is none, copied where it is shared (R361). -/
def kvOwn (s : State) (i l pg : Nat) : Except Cause State :=
  let h := s.kvEntry i
  let e := (s.modelOf h).elems
  match (h.pageFrame l pg).bind (s.kvFrame h.ctx) with
  | none => (s.takeFrame h.ctx false true noStates).bind fun r => r.1.putMap (h.repoint l pg r.2.num)
  | some f =>
    let g := h.guard l pg f
    if 1 < f.ref then
      (s.takeFrame h.ctx false f.tail g.states).bind fun r => (r.1.copyFrame e f r.2).bind fun s =>
        (s.dropFrame h.ctx f.num).bind fun s => s.putMap (h.repoint l pg r.2.num)
    else if g = f && !h.hidden.any (fun x => x.1 == l && x.2.1 == pg) then .ok s
    else (s.setKvFrame g).bind fun s => s.putMap (h.repoint l pg f.num)

/-- The frame of a page that the handle owns. -/
def State.kvPage (s : State) (i l pg : Nat) : Option KvFrame :=
  let h := s.kvEntry i
  (h.pageFrame l pg).bind (s.kvFrame h.ctx)

/-- The rows of a page, one after the other: those of K, then those of V. -/
def pageRows : List (Bool × Nat) := ((upTo 64).map fun i => (false, i)) ++ (upTo 64).map fun i => (true, i)

/-- A tail's rows are quantised into a page (R360). -/
def State.fillPage (s : State) (e : Nat) (tail page : KvFrame) : Except Cause State :=
  pageRows.foldlM (fun t p => (s.tailRow tail e p.1 p.2).bind (t.kvPutRow page e p.1 p.2)) s

/-- The flush of a layer's tail (R360): its page takes the rows, and the tail is left empty for the next 64 positions. -/
def kvFlush (s : State) (i l : Nat) : Except Cause State :=
  let fl := (s.kvEntry i).flushed l
  (kvOwn s i l fl).bind fun s =>
    let h := s.kvEntry i
    let e := (s.modelOf h).elems
    match s.kvPage i l fl with
    | none => .ok s
    | some t =>
      (s.takeFrame h.ctx false false t.states).bind fun r => (r.1.fillPage e t r.2).bind fun s =>
        (s.kvStore h.ctx (t.base + 64) (List.replicate (256 * e) 0)).bind fun s => (s.setKvFrame { t with states := noStates }).bind fun s =>
          let h := (h.repoint l fl r.2.num).repoint l (fl + 1) t.num
          s.putMap { h with fl := splice h.fl l [fl + 1] }

/-- Flushes until the tail covers page `pg`, and makes that page the handle's own. -/
def kvReach (s : State) (i l pg : Nat) : Nat → Except Cause State
  | 0 => kvOwn s i l pg
  | fuel + 1 => if (s.kvEntry i).flushed l < pg then (kvFlush s i l).bind fun s => kvReach s i l pg fuel else kvOwn s i l pg

/-- A tail whose 64 entries are all PRESENT or OWED is flushed (R360). -/
def kvComplete (s : State) (i l : Nat) : Except Cause State :=
  let h := s.kvEntry i
  let fl := h.flushed l
  match s.kvPage i l fl with
  | none => .ok s
  | some f => if (h.guard l fl f).states.all (· != 0) then kvFlush s i l else .ok s

/-- Sets the state of an entry, and its rows where they are given. -/
def kvSet (s : State) (i l p : Nat) (v : BitVec 2) (rows : Option (List Nat × List Nat)) : Except Cause State :=
  let h := s.kvEntry i
  let e := (s.modelOf h).elems
  match s.kvPage i l (p / 64) with
  | none => .ok s
  | some f =>
    let put : Except Cause State := match rows with
      | none => .ok s
      | some (k, w) => (s.kvPutRow f e false (p % 64) k).bind fun s => s.kvPutRow f e true (p % 64) w
    put.bind fun (s : State) => (s.setKvFrame (f.putState (p % 64) v)).map fun s => s.writeLines [entryLine h.index l p]

/-- An entry of a position below some limit is OWED. -/
def kvOwedBelow (s : State) (h : KvHandle) (p : Nat) : Bool :=
  (upTo (s.modelOf h).layers).any fun l => (upTo (min p h.len.toNat)).any fun q => s.kvState h l q == 2

/-! ## Early exit (R366, R367) -/

/-- Address of a position's stash slot. -/
def kvSlot (m : KvModel) (index p : Nat) : Nat :=
  (m.sbase.toNat + (64 + 16 * m.ssize.toNat) * (index * 2 ^ m.sdl.toNat + p % 2 ^ m.sdl.toNat)) % 2 ^ 64

/-- The slot serves an earlier exit with an OWED entry. -/
def kvSlotBusy (s : State) (a : Nat) : Bool :=
  s.kv.stash.any fun t =>
    decide (t.addr = a) &&
      (let h := s.kvEntry t.index
       h.valid && (upTo (s.modelOf h).layers).any fun l => s.kvState h l t.pos == 2)

/-- The layers that an exit marks. -/
def kvMarks (s : State) (h : KvHandle) (p e : Nat) : List Nat :=
  (upTo (s.modelOf h).layers).filter fun l => decide (e < l) && s.kvState h l p == 0

/-- A backfill task. -/
def kvTask (s : State) (h : KvHandle) (m : KvModel) (p l slot : Nat) : Task :=
  { num := 0, entry := m.entry, args := BitVec.ofNat 64 slot, ts := m.tsbase + BitVec.ofNat 64 (p * m.layers + l),
    wid := BitVec.ofNat 64 (h.index * 256 + l), budget := m.budget, prio := m.prio, spec := m.spec, timeline := m.timeline,
    pmask := m.pmask, frame := m.frame, parent := 0, dep := false, launch := (s.runTask.map (·.launch)).getD 0, ctx := h.ctx, die := 0,
    state := .ready, core := 0, aborts := 0, trap := 0, nonspec := false, readsFrom := [], saveTk := Vector.replicate 16 0,
    saveBphase := 0, shut := false }

/-- Every die has room for the tasks that an exit creates on it (R333). -/
def kvRoom (s : State) (ts : List Task) : Bool :=
  (upTo 4).all fun d =>
    let k := (ts.filter fun t => decide ((s.bindingDie t).getD s.selfDie = d)).length
    k == 0 || decide (s.tasksOn d + k ≤ taskLimit)

def kvTasks (s : State) (h : KvHandle) (p e : Nat) : List Task :=
  let m := s.modelOf h
  (kvMarks s h p e).map fun l => kvTask s h m p l (kvSlot m h.index p)

/-- Discards the backfill tasks of a handle (R367, R343). -/
def State.dropBackfills (s : State) (index : Nat) : State :=
  let mine := s.kv.backfills.filter fun b => b.2.1 == index
  let s := { s with kv := { s.kv with backfills := s.kv.backfills.filter fun b => b.2.1 != index } }
  mine.foldl (fun s b => abortAll (s.abortFuel 1) [(b.1, true)] s) s

/-! ## Operands (R369) -/

/-- What each command lets s hold. -/
def kvFields : Instr → BitVec 64
  | .kvnew _ => 0xFFFFFF
  | .kvexit _ => 1
  | .kvflush => 1
  | .kvtrim _ => BitVec.allOnes 64
  | .kvmapK _ _ => 0x1FFFF
  | .kvmapV _ _ => 0x1FFFF
  | .kvpol => 0x7FFFF
  | .kvowed _ => 3
  | .kvbft _ => 0x1F
  | _ => 0

def kvArg (r : Running) : Option Cause := argIf ((r.entry.x4 &&& ~~~kvFields r.entry.instr) != 0)

/-- A row operand: a dense block of fmt 7 whose rows have E elements. -/
def kvRowBad (n : Nat) (d : TDesc) (e : Nat) : Option Cause :=
  firstBad [denseBad n 0 d, if descFmt d != 7 || descExt d 0 + 1 != e then some .fmt else none]

/-- Row r of a row operand; none where it lies outside the extent. -/
def kvRowParts (s : State) (d : TDesc) (r : Word) : Except Cause (List Part) :=
  match wrapFrom d 0 [0, r.toInt, 0, 0] with
  | .error c => .error c
  | .ok c =>
    let a := linearAddr d c
    .ok ((upTo ((descExt d 0 + 1) / 2)).map fun k =>
      let g := granIdx s.selfRank (a / 16 + k / 4)
      .piece (.spad g) g (k % 4 * 4) 4)

/-- 2-byte elements of parts read 4 bytes at a time. -/
def halves : List Nat → List Nat
  | [] => []
  | v :: l => v % 65536 :: v / 65536 :: halves l

/-- The handles of KVTRIM's list (R369): a fmt-5 block with an even number of elements. -/
def trimBad (n : Nat) (d : TDesc) : Option Cause :=
  let els := (descExt d 0 + 1) * (descExt d 1 + 1)
  if descSpace d != 0 then some (.spaceStart n)
  else if descFmt d != 5 || !denseShape d then some .fmt
  else if els % 2 != 0 then some .arg
  else if Config.spadSize < 16 * descBase d + 4 * els then some (.spad (max (16 * descBase d) Config.spadSize))
  else none

/-- Handles in the list. -/
def trimCount (d : TDesc) : Nat := (descExt d 0 + 1) * (descExt d 1 + 1) / 2

/-- The handle of an iteration of KVTRIM, as two words. -/
def trimParts (s : State) (r : Running) : List Part :=
  (upTo 2).map fun k =>
    let w := 2 * r.iter + k
    let g := denseGran s r.d1 + w / 4
    .piece (.spad g) g (w % 4 * 4) 4

/-- The handle of X0, with checks 1 to 4 of R356. -/
def kvHandleOf (s : State) (r : Running) : Except Cause KvHandle := s.kvDeref r.ctx r.entry.x0

/-- The bound that a handle value carries. -/
def kvBoundOf (h : Word) : Nat := (h.extractLsb' 12 20).toNat

/-! ## Holding at the queue head -/

/-- The commands that run in a speculative task at once (R369). -/
def kvSpecFree : Instr → Bool
  | .kvmapK _ _ => true
  | .kvmapV _ _ => true
  | .kvlen _ => true
  | .kvstat _ => true
  | .kvowed _ => true
  | .kvwait => true
  | .kvfenceDie => true
  | .kvfencePkg => true
  | _ => false

/-- A KVC command waits at the head of its queue (R340, R344, R366, R370). -/
def kvHeld (en : Entry) (d1 : TDesc) (s : State) : Bool :=
  let i := en.instr
  let h := s.kvDeref s.core.sys.ctx en.x0
  if s.specNow && !kvSpecFree i then true
  else match i, h with
    | .kvlen _, _ => s.outsideFrame d1
    | .kvstat _, _ => s.outsideFrame d1
    | .kvowed _, _ => s.outsideFrame d1
    | .kvfork _, .ok h => kvOwedBelow s h en.x1.toNat
    | .kvexit _, .ok h =>
      let p := en.x1.toNat
      kvSlotBusy s (kvSlot (s.modelOf h) h.index p) || (!en.x4.getLsbD 0 && !kvRoom s (kvTasks s h p en.x2.toNat))
    | _, _ => false

/-! ## Checks -/

/-- Checks 5 of R356 on positions. -/
def kvBad (s : State) (r : Running) (ps : List Nat) : Option Cause :=
  match kvHandleOf s r with
  | .error c => some c
  | .ok h => if ps.any (kvOutside h (kvBoundOf r.entry.x0)) then some (.kvbound r.entry.x0) else none

/-- E of the handle's model; 0 where the handle is bad. -/
def kvElems (s : State) (r : Running) : Nat := match kvHandleOf s r with | .ok h => (s.modelOf h).elems | .error _ => 0
def kvLayers (s : State) (r : Running) : Nat := match kvHandleOf s r with | .ok h => (s.modelOf h).layers | .error _ => 0
def kvLen (s : State) (r : Running) : Nat := match kvHandleOf s r with | .ok h => h.len.toNat | .error _ => 0

/-- Positions that KVOWED covers. -/
def owedCount (r : Running) : Nat := 8 * denseLen r.d1 / 2 ^ r.entry.x4.toNat

/-- The fmt of a KVMAP's descriptor: BFX8 below the flushed count, .bf16 in the tail, else none (R362, R372). -/
def kvMapFmt (s : State) (r : Running) : Option Nat :=
  match kvHandleOf s r with
  | .error _ => none
  | .ok h =>
    let p := r.entry.x1.toNat
    let n := r.entry.x4.toNat
    let l := r.entry.x2.toNat
    let b := 64 * h.flushed l
    if n = 0 ∨ 65536 < n ∨ p % 64 ≠ 0 ∨ (s.modelOf h).layers ≤ l then none
    else if p + n ≤ b then some 8
    else if b ≤ p ∧ p + n ≤ b + 64 then some 7
    else none

/-- What a KVC command refuses at its start (R356, R369 to R374). -/
def kvStart (n : Nat) (r : Running) (s : State) : Option Cause :=
  let x := r.entry.x4
  let p := r.entry.x1.toNat
  let l := r.entry.x2.toNat
  let e := kvElems s r
  let layer := argIf (decide (kvLayers s r ≤ l))
  match r.entry.instr with
  | .kvnew _ =>
    let m := s.kvModel (r.ctx.extractLsb' 0 4) (x.extractLsb' 20 4).toNat
    firstBad [kvArg r, denseBad n 16 r.d1, argIf (x.extractLsb' 0 20 == 0 || x.extractLsb' 20 4 == 15 || !m.valid)]
  | .kvappend _ _ =>
    firstBad [kvArg r, kvBad s r [p], kvRowBad n r.d1 e, kvRowBad n r.d2 e, layer, argIf (decide (kvLen s r < p))]
  | .kvfill _ _ => firstBad [kvArg r, kvBad s r [p], kvRowBad n r.d1 e, kvRowBad n r.d2 e, layer]
  | .kvexit _ =>
    let short := match kvHandleOf s r with | .ok h => decide (denseLen r.d1 < 16 * (s.modelOf h).ssize.toNat) | .error _ => false
    firstBad [kvArg r, kvBad s r [p], denseBad n 0 r.d1, if descFmt r.d1 != 7 then some .fmt else none,
      argIf (short || decide (kvLen s r ≤ p)), layer]
  | .kvflush => firstBad [kvArg r, kvBad s r [], layer]
  | .kvfork _ => firstBad [kvArg r, denseBad n 16 r.d1, kvBad s r [], argIf (decide (kvLen s r < p))]
  | .kvfree => firstBad [kvArg r, kvBad s r []]
  | .kvtrim _ => firstBad [trimBad n r.d1, argIf (x.extractLsb' 0 6 != 0)]
  | .kvmapK _ _ => firstBad [kvArg r, kvBad s r [], argIf (kvMapFmt s r).isNone, kvBad s r [p, p + x.toNat - 1]]
  | .kvmapV _ _ => firstBad [kvArg r, kvBad s r [], argIf (kvMapFmt s r).isNone, kvBad s r [p, p + x.toNat - 1]]
  | .kvlen _ => firstBad [kvArg r, denseBad n 16 r.d1, kvBad s r [], layer]
  | .kvpol =>
    let pol := (x.extractLsb' 16 3).toNat
    firstBad [kvArg r, argIf (decide ((x.extractLsb' 8 8).toNat < (x.extractLsb' 0 8).toNat) || pol == 0 || decide (4 < pol))]
  | .kvstat _ => firstBad [kvArg r, denseBad n 64 r.d1, kvBad s r []]
  | .kvowed _ => firstBad [kvArg r, denseBad n 16 r.d1, kvBad s r [p, p + owedCount r - 1], layer]
  | .kvwait => firstBad [kvArg r, kvBad s r []]
  | .kvbft _ =>
    firstBad [kvArg r, argIf (if x.getLsbD 4 then x.extractLsb' 0 4 != 0 else x.extractLsb' 0 4 == 15),
      denseBad n (if x.getLsbD 4 then 32 else 64) r.d1]
  | _ => kvArg r

/-- The reads of a KVC command (R369). -/
def kvPlan (r : Running) (s : State) : Planned :=
  let read (ps : List Part) : Planned := .go (readVisits .loadW ps []) ps [] 0 s
  let rows : Planned :=
    match kvRowParts s r.d1 r.entry.x3, kvRowParts s r.d2 r.entry.x3 with
    | .ok a, .ok b => read (a ++ b)
    | .error c, _ => .trap c
    | _, .error c => .trap c
  match r.entry.instr with
  | .kvappend _ _ => rows
  | .kvfill _ _ => rows
  | .kvexit _ =>
    match kvHandleOf s r with
    | .error c => .trap c
    | .ok h => read (denseWords s r.d1 (16 * (s.modelOf h).ssize.toNat))
  | .kvtrim _ => read (trimParts s r)
  | .kvbft _ => read (denseWords s r.d1 (if r.entry.x4.getLsbD 4 then 32 else 64))
  | _ => .none s

/-! ## Effects -/

/-- The outcome of a command's effect: a trap (nothing has changed), a wait, or the machine and the record it writes: its length and value. -/
inductive KvEffect where
  | trap (c : Cause)
  | wait
  | done (s : State) (bytes value : Nat)
deriving DecidableEq, Repr

/-- An effect that may trap. -/
def KvEffect.ofExcept (o : Except Cause State) : KvEffect := match o with | .ok s => .done s 0 0 | .error c => .trap c

/-- Creates a handle of a model and bound, with a page-map frame (R370). -/
def kvCreate (s : State) (ctx : BitVec 12) (model : BitVec 4) (bound : BitVec 20) : Except Cause (State × Nat) :=
  let c := ctx.extractLsb' 0 4
  let rec_ := s.kvRec c
  match (upTo rec_.count.toNat).find? fun k => !(s.kvEntry (rec_.first.toNat + k)).valid with
  | none => .error (.pool true)
  | some k =>
    let i := rec_.first.toNat + k
    (s.takeFrame c true false []).bind fun r =>
      let s := r.1
      let h : KvHandle :=
        { index := i, gen := (s.kvEntry i).gen, tenant := ctx.extractLsb' 4 8, ctx := c, model := model, valid := true, bound := bound,
          len := 0, lo := 0, owed := 0, mapFrame := r.2.num, fl := List.replicate (s.kvModel c model.toNat).layers 0, pages := [], hidden := [] }
      (State.putMap { s with kv := { s.kv with handles := (s.kv.handles.filter fun g => g.index != i) ++ [h] } } h).map fun s => (s, i)

/-- KVAPPEND and KVFILL (R371). -/
def kvPut (s : State) (r : Running) (h : KvHandle) (fill : Bool) : KvEffect :=
  let p := r.entry.x1.toNat
  let l := r.entry.x2.toNat
  let st := s.kvState h l p
  let e := (s.modelOf h).elems
  if (if fill then st != 2 else st != 0) then .trap .arg
  else
    let els := halves (r.src.map (partVal r.got))
    KvEffect.ofExcept ((kvReach s h.index l (p / 64) (p / 64 + 1)).bind fun s =>
      let h := s.kvEntry h.index
      let h := if fill then { h with owed := h.owed - 1 } else if p = h.len.toNat then { h with len := h.len + 1 } else h
      let s := s.setKvHandle h
      let s := if fill then { s with kv := { s.kv with backfills := s.kv.backfills.filter fun b => b.2 != (h.index, p, l) } } else s
      (kvSet s h.index l p 1 (some (els.take e, els.drop e))).bind fun s => kvComplete s h.index l)

/-- Where the bytes of a stash slot go: their pieces, translated with the KV permission. One across a failed boundary takes ECC (R397). -/
def kvSlotPieces (s : State) (ctx : BitVec 4) (a n : Nat) : Except Cause (List (Nat × Nat)) :=
  match collect (fun (p : Nat × Nat) => match s.translate ctx permKv p.1 with
      | .ok pa => if s.cutOff (.glob (pa / 16)) then .error (.trap (.ecc p.1)) else .ok (pa, p.2)
      | .range => .error (.trap (.range 0 p.1))
      | .perm sub => .error (.trap (.perm sub p.1))
      | .nres => .error (.absent p.1)
      | .ecc pa => .error (.trap (.ecc pa))) (pieces (n + 1) a n) with
  | .ok l => .ok l
  | .error e => .error e.cause

/-- Writes bytes over translated pieces. -/
def writePieces : List (Nat × Nat) → List Byte → State → State
  | [], _, s => s
  | (pa, n) :: ps, bs, s => writePieces ps (bs.drop n) (s.writeGlob pa (bs.take n))

/-- KVEXIT (R366, R367). The die's room for its tasks is tested again with the effect: another creation may have taken it since the command
started (R333). -/
def kvExit (s : State) (r : Running) (h : KvHandle) : KvEffect :=
  let p := r.entry.x1.toNat
  let e := r.entry.x2.toNat
  let m := s.modelOf h
  let slot := kvSlot m h.index p
  let row := r.src.flatMap fun x => leBytes 4 (partVal r.got x)
  let arg := leBytes 64 (r.entry.x0.toNat + 2 ^ 64 * (p % 2 ^ 32) + 2 ^ 96 * (e % 256))
  let marks := kvMarks s h p e
  let tasks := kvTasks s h p e
  if !r.entry.x4.getLsbD 0 && !kvRoom s tasks then .wait
  else match kvSlotPieces s h.ctx slot (64 + 16 * m.ssize.toNat) with
  | .error c => .trap c
  | .ok ps =>
    let marked := marks.foldlM (init := s) fun s l =>
      (kvReach s h.index l (p / 64) (p / 64 + 1)).bind fun s =>
        let g := s.kvEntry h.index
        (kvSet (s.setKvHandle { g with owed := g.owed + 1 }) h.index l p 2 none).bind fun s => kvComplete s h.index l
    match marked with
    | .error c => .trap c
    | .ok s =>
      let s := writePieces ps (arg ++ row) s
      let s := { s with kv := { s.kv with stash := (s.kv.stash.filter fun t => t.addr != slot) ++ [⟨slot, h.index, p⟩] } }
      if r.entry.x4.getLsbD 0 then .done s 0 0
      else
        let s := (List.zip marks tasks).foldl (init := s) fun s t =>
          let (s, n) := s.addTask t.2 s.selfDie
          { s with kv := { s.kv with backfills := s.kv.backfills ++ [(n, h.index, p, t.1)] } }
        .done (s.raiseGroup ((s.runTask.map (·.launch)).getD 0) tasks.length) 0 0

/-- What a fork at p of a handle hides in the frames that it shares: what lies from p on, and what its parent did not see (R370). -/
def KvHandle.hiddenAt (h : KvHandle) (p : Nat) (shared : List (Nat × Nat × Nat)) : List (Nat × Nat × Nat) :=
  (h.hidden.filter fun x => shared.any fun g => g.1 == x.1 && g.2.1 == x.2.1) ++
    (shared.filter fun g => decide (p < 64 * g.2.1 + 64)).map fun g => (g.1, g.2.1, p)

/-- KVFORK (R370): the new handle, of the bound that h carries, shares the frames that cover positions below p. -/
def kvFork (s : State) (r : Running) (h : KvHandle) : KvEffect :=
  let p := r.entry.x1.toNat
  let shared := h.pages.filter fun g => decide (64 * g.2.1 < p)
  let made : Except Cause (State × KvHandle) := (kvCreate s r.ctx h.model (r.entry.x0.extractLsb' 12 20)).bind fun c =>
    (shared.foldlM (init := c.1) fun (s : State) (g : Nat × Nat × Nat) => match s.kvFrame h.ctx g.2.2 with
      | some f => s.setKvFrame { f with ref := f.ref + 1 }
      | none => .ok s).bind fun s =>
        let g := { s.kvEntry c.2 with
          len := BitVec.ofNat 20 p, lo := h.lo, pages := shared, hidden := h.hiddenAt p shared, fl := h.fl.map fun k => min k ((p + 63) / 64) }
        (s.putMap g).map fun s => (s, g)
  match made with
  | .error c => .trap c
  | .ok (s, g) => .done s (denseLen r.d1) (kvHandleWord g).toNat

/-- KVFREE (R370). -/
def kvFree (s : State) (h : KvHandle) : KvEffect :=
  .ofExcept (((h.mapFrame :: h.pages.map (·.2.2)).foldlM (fun (s : State) n => s.dropFrame h.ctx n) s).map fun s =>
    (s.dropBackfills h.index).setKvHandle { h with valid := false, gen := h.gen + 1, pages := [], hidden := [], fl := [] })

/-- One handle of a KVTRIM (R370). -/
def kvTrim (s : State) (r : Running) : KvEffect :=
  let x := BitVec.ofNat 64 (partsVal r.got r.src)
  let t := r.entry.x4.toNat
  match s.kvDeref r.ctx x with
  | .error c => .trap c
  | .ok h =>
    if kvOwedBelow s h t then .wait
    else if (upTo (s.modelOf h).layers).any fun l => decide (64 * h.flushed l < t) then .trap .arg
    else
      let gone := h.pages.filter fun g => decide (64 * g.2.1 + 64 ≤ t)
      .ofExcept ((gone.foldlM (fun (s : State) g => s.dropFrame h.ctx g.2.2) s).bind fun s =>
        s.putMap { h with pages := h.pages.filter fun g => !gone.contains g, lo := if h.lo.toNat < t then BitVec.ofNat 20 t else h.lo })

/-- Some command enqueued before number `no` names the descriptor and has not started (R365). -/
def descNamedBefore (s : State) (dn : BitVec 6) (no : Nat) : Bool :=
  Eng.all.any fun e =>
    let q := s.q.get e
    (q.entries ++ q.hentry.toList).any fun en => decide (en.no < no) && (descs en.x4 en.instr).contains dn

/-- A KVMAP enqueued before number `no` has still to write the descriptor (R365). -/
def kvmapBefore (s : State) (dn : BitVec 6) (no : Nat) : Bool :=
  let q := s.q.kvc
  (q.entries ++ q.hentry.toList ++ (q.run.map (·.entry)).toList ++ (q.hrun.map (·.entry)).toList).any fun en =>
    decide (en.no < no) && kvmapDest en.instr == some dn

/-- KVMAP (R362, R365, R372). -/
def kvMap (s : State) (r : Running) (h : KvHandle) (d1 : BitVec 6) (isV : Bool) (q : BitVec 3) : KvEffect :=
  match kvMapFmt s r with
  | none => .trap .arg
  | some fmt =>
    if descNamedBefore s d1 r.entry.no then .wait
    else
      let base : BitVec 48 := 0#4 ++ q ++ BitVec.ofBool isV ++ r.entry.x2.extractLsb' 0 8 ++ h.tenant ++ h.gen ++ BitVec.ofNat 16 h.index
      let d := base.toNat + 2 ^ 48 * 3 + 2 ^ 50 * fmt + 2 ^ 64 * ((s.modelOf h).elems - 1) + 2 ^ 80 * (r.entry.x4.toNat - 1) +
        2 ^ 240 * (r.entry.x1.toNat / 64)
      .done { s with core := { s.core with d := s.core.d.set d1.toNat (BitVec.ofNat 256 d) (by omega) } } 0 0

/-- The record of KVSTAT (R357). -/
def kvStatRecord (h : KvHandle) : Nat :=
  h.gen.toNat + 2 ^ 8 * h.tenant.toNat + 2 ^ 16 * h.ctx.toNat + 2 ^ 20 * h.model.toNat + 2 ^ 24 * h.valid.toNat + 2 ^ 32 * h.bound.toNat +
    2 ^ 64 * h.len.toNat + 2 ^ 96 * h.lo.toNat + 2 ^ 128 * h.owed.toNat +
    2 ^ 256 * (4096 * h.mapFrame % 2 ^ 64)

/-- Bits of KVOWED's record (R373). -/
def kvOwedRecord (s : State) (r : Running) (h : KvHandle) : Nat :=
  let b := 2 ^ r.entry.x4.toNat
  (upTo (owedCount r)).foldr
    (fun j acc => (if s.kvState h r.entry.x2.toNat (r.entry.x1.toNat + j) = 1 then 2 ^ b - 1 else 0) + 2 ^ b * acc) 0

/-- Fields of KVBFT's images (R368). -/
def kvModelOf (b : BitVec 512) : KvModel :=
  { entry := b.extractLsb' 0 64, tsbase := b.extractLsb' 64 64, sbase := b.extractLsb' 128 64, budget := b.extractLsb' 192 32,
    prio := b.extractLsb' 224 6, spec := b.getLsbD 230, valid := b.getLsbD 231, timeline := b.extractLsb' 232 4,
    pmask := b.extractLsb' 236 6, frame := b.extractLsb' 242 8, lm1 := b.extractLsb' 256 8, em1 := b.extractLsb' 264 9,
    sdl := b.extractLsb' 280 4, ssize := b.extractLsb' 288 16 }

def kvRecordOf (b : BitVec 512) : KvRecord :=
  { pool := b.extractLsb' 0 64, frames := b.extractLsb' 64 32, fsize := b.extractLsb' 96 16, first := b.extractLsb' 112 16,
    count := b.extractLsb' 128 16 }

/-- A frame holds the tail of a model (R368). -/
def kvFits (fsize : BitVec 16) (m : KvModel) : Bool := decide (256 * m.elems + 64 ≤ 4096 * fsize.toNat)

/-- What KVBFT refuses in an image: reserved bits, and values outside the fields' ranges (R368, R374). -/
def kvImageBad (c : Context) (isRec : Bool) (b : BitVec 512) : Bool :=
  if isRec then
    let r := kvRecordOf b
    b.extractLsb' 144 112 != 0 || r.pool.extractLsb' 0 12 != 0 || c.models.toList.any fun m => m.valid && !kvFits r.fsize m
  else
    let m := kvModelOf b
    b.extractLsb' 250 6 != 0 || b.extractLsb' 273 7 != 0 || b.extractLsb' 284 4 != 0 || b.extractLsb' 304 208 != 0 ||
      (m.valid && (m.entry.extractLsb' 0 2 != 0 || m.sbase.extractLsb' 0 6 != 0 || m.budget == 0 || m.ssize == 0 ||
        (c.kvrec.frames != 0 && !kvFits c.kvrec.fsize m)))

/-- KVBFT (R374). -/
def kvBft (s : State) (r : Running) : KvEffect :=
  let b : BitVec 512 := BitVec.ofNat 512 (partsVal r.got r.src)
  let c4 := r.ctx.extractLsb' 0 4
  let c := s.context c4
  let isRec := r.entry.x4.getLsbD 4
  if kvImageBad c isRec b then .trap .arg
  else if isRec then .done (s.setContext c4 { c with kvrec := kvRecordOf b }) 0 0
  else
    let k := (r.entry.x4.extractLsb' 0 4).toNat
    .done (s.setContext c4 { c with models := if h : k < 15 then c.models.set k (kvModelOf b) h else c.models }) 0 0

/-- The effect of a KVC command once it has read what it reads. -/
def kvEffect (r : Running) (s : State) : KvEffect :=
  let x := r.entry.x4
  let withHandle (f : KvHandle → KvEffect) : KvEffect := match kvHandleOf s r with | .ok h => f h | .error c => .trap c
  match r.entry.instr with
  | .kvnew _ =>
    match kvCreate s r.ctx (x.extractLsb' 20 4) (x.extractLsb' 0 20) with
    | .error c => .trap c
    | .ok (s, i) => .done s (denseLen r.d1) (kvHandleWord (s.kvEntry i)).toNat
  | .kvappend _ _ => withHandle fun h => kvPut s r h false
  | .kvfill _ _ => withHandle fun h => kvPut s r h true
  | .kvexit _ => withHandle fun h => kvExit s r h
  | .kvflush =>
    withHandle fun h =>
      .ofExcept ((if x.getLsbD 0 then upTo (s.modelOf h).layers else [r.entry.x2.toNat]).foldlM (fun s l => kvFlush s h.index l) s)
  | .kvfork _ => withHandle fun h => kvFork s r h
  | .kvfree => withHandle fun h => kvFree s h
  | .kvtrim _ => kvTrim s r
  | .kvmapK d1 q => withHandle fun h => kvMap s r h d1 false q
  | .kvmapV d1 q => withHandle fun h => kvMap s r h d1 true q
  | .kvlen _ =>
    withHandle fun h =>
      .done s 16 (h.len.toNat + 2 ^ 32 * h.lo.toNat + 2 ^ 64 * h.owed.toNat + 2 ^ 96 * h.flushed r.entry.x2.toNat)
  | .kvpol =>
    let c4 := r.ctx.extractLsb' 0 4
    let c := s.context c4
    let lo := (x.extractLsb' 0 8).toNat
    let hi := (x.extractLsb' 8 8).toNat
    .done (s.setContext c4 { c with
      policy := Vector.ofFn fun k => if lo ≤ k.val ∧ k.val ≤ hi then x.extractLsb' 16 3 else c.policy[k.val] }) 0 0
  | .kvstat _ => withHandle fun h => .done s 64 (kvStatRecord h)
  | .kvowed _ => withHandle fun h => .done s (denseLen r.d1) (kvOwedRecord s r h)
  | .kvwait => withHandle fun h => if kvOwedBelow s h (r.entry.x1.toNat + 1) then .wait else .done s 0 0
  | .kvbft _ => kvBft s r
  | _ => .done s 0 0

/-- What a KVC command does. -/
def kvAct (r : Running) (s : State) : Acted :=
  match kvEffect r s with
  | .done s n v => ⟨s, recordVisits s r.d1 n v, 0⟩
  | .trap _ => .only s
  | .wait => .only s

/-! ## At the splitter -/

def execKvnew (d1 : BitVec 6) (s : State) : Out := issueWord .kvc (.kvnew d1) s
def execKvappend (d1 d2 : BitVec 6) (s : State) : Out := issueWord .kvc (.kvappend d1 d2) s
def execKvexit (d1 : BitVec 6) (s : State) : Out := issueWord .kvc (.kvexit d1) s
def execKvfill (d1 d2 : BitVec 6) (s : State) : Out := issueWord .kvc (.kvfill d1 d2) s
def execKvflush (s : State) : Out := issueWord .kvc .kvflush s
def execKvfork (d1 : BitVec 6) (s : State) : Out := issueWord .kvc (.kvfork d1) s
def execKvfree (s : State) : Out := issueWord .kvc .kvfree s
def execKvtrim (d1 : BitVec 6) (s : State) : Out := issueWord .kvc (.kvtrim d1) s
def execKvlen (d1 : BitVec 6) (s : State) : Out := issueWord .kvc (.kvlen d1) s
def execKvpol (s : State) : Out := issueWord .kvc .kvpol s
def execKvstat (d1 : BitVec 6) (s : State) : Out := issueWord .kvc (.kvstat d1) s
def execKvowed (d1 : BitVec 6) (s : State) : Out := issueWord .kvc (.kvowed d1) s
def execKvwait (s : State) : Out := issueWord .kvc .kvwait s
def execKvbft (d1 : BitVec 6) (s : State) : Out := issueWord .kvc (.kvbft d1) s
def execKvfenceDie (s : State) : Out := issueWord .kvc .kvfenceDie s
def execKvfencePkg (s : State) : Out := issueWord .kvc .kvfencePkg s
def execKvmapK (d1 : BitVec 6) (q : BitVec 3) (s : State) : Out := issueWord .kvc (.kvmapK d1 q) s
def execKvmapV (d1 : BitVec 6) (q : BitVec 3) (s : State) : Out := issueWord .kvc (.kvmapV d1 q) s
def execKvpolL (imm : BitVec 32) (s : State) : Out := issueLong .kvc .kvpol 1 imm s
def execKvtrimL (d1 : BitVec 6) (imm : BitVec 32) (s : State) : Out := issueLong .kvc (.kvtrim d1) 2 imm s

end Sys2Proof.Machine
end

