-- ==== Sys2Proof/Machine/Engine.lean ====
section
/-!
DEFINITION. The engines at work (R14 to R18, R21 to R25, R33, R105, R153, R185, R196, R210, R215, R219 to R223, R254, R265, R267, R365): how
the head command of a queue starts, visits its pieces, completes or faults. One micro-step of an engine is a start, or one visit.
-/

namespace Sys2Proof.Machine

/-! ## The six engines as one -/

/-- What a started command refuses before its first iteration. -/
def startBad (e : Eng) (r : Running) (s : State) : Option Cause :=
  match e with
  | .vec => vecStart r
  | .mtx => mtxStart s.freeNo r
  | .ldq => copyStart s.freeNo r
  | .stq => copyStart s.freeNo r
  | .prt => prtStart s.freeNo r s
  | .kvc => kvStart s.freeNo r s

/-- The checks of an iteration and the pieces it reads. -/
def planOf (e : Eng) (r : Running) (s : State) : Planned :=
  match e with
  | .vec => vecPlan r s
  | .mtx => mtxPlan s.freeNo r s
  | .ldq => copyPlan s.freeNo r s
  | .stq => copyPlan s.freeNo r s
  | .prt => prtPlan r s
  | .kvc => kvPlan r s

/-- What an iteration does once its pieces are read. -/
def actOf (e : Eng) (r : Running) (s : State) : Acted :=
  match e with
  | .vec => vecAct r s
  | .mtx => mtxAct r s
  | .ldq => copyAct r s
  | .stq => copyAct r s
  | .prt => prtAct r s
  | .kvc => kvAct r s

/-- What the contents that a command read decide before any effect: go on, trap, or wait. -/
inductive Verdict where
  | go
  | trap (c : Cause)
  | wait
deriving DecidableEq, Repr

def contentOf (e : Eng) (r : Running) (s : State) : Verdict :=
  match e with
  | .prt => match prtContent r with | some c => .trap c | none => .go
  | .kvc => match kvEffect r s with | .trap c => .trap c | .wait => .wait | .done _ _ _ => .go
  | _ => .go

/-- The Count slot of a command. -/
def countedSlot (e : Eng) (i : Instr) : Option (BitVec 4) :=
  match e with
  | .mtx => mtxSlot i
  | .ldq => copySlot i
  | .stq => copySlot i
  | _ => none

/-- Global reads of the command join a speculative task's read set (R218, R341). -/
def tracksOf (e : Eng) (i : Instr) : Bool :=
  match e with
  | .ldq => (copyOf i).any (·.tracked)
  | _ => true

/-! ## Sources (R21 to R23) -/

/-- The first vector or predicate source, in order, that is EMPTY. -/
def firstEmpty (empty : RegSet) : List Src → Option Src
  | [] => none
  | x :: xs => if (if x.pred then empty.p.getLsbD x.idx else empty.v.getLsbD x.idx) then some x else firstEmpty empty xs

/-- A command waits at the first source that is EMPTY, or traps STALE where its trap bit is set. -/
def sourceVerdict (empty : RegSet) (l : List Src) : Verdict :=
  match firstEmpty empty l with
  | none => .go
  | some x => if x.trap then .trap (.stale x.pred.toNat x.idx) else .wait

/-- The registers that a command of a queue, or of its handler entry, finds EMPTY. -/
def State.emptyAt (s : State) (e : Eng) (hent : Bool) : RegSet := if hent then s.emptyForHandler e else s.emptyFor e

def State.sources (s : State) (e : Eng) (hent : Bool) (i : Instr) : Verdict := sourceVerdict (s.emptyAt e hent) (srcs i)

/-- The commands of a queue that may stand at a source: those whose checks are still to be made, started or not. -/
def Queue.readers (q : Queue) : List (Bool × Instr) :=
  let fresh (r : Running) : Option Instr := if r.stage == .fresh then some r.entry.instr else none
  ((q.hentry.map fun en => (true, en.instr)).toList ++ ((q.hrun.bind fresh).map fun i => (true, i)).toList) ++
    (((q.run.bind fresh).map fun i => (false, i)).toList ++ (if q.run.isNone then (q.entries.head?.map fun en => (false, en.instr)).toList else []))

/-- Queue `e` waits for one of these registers, the first source that its command finds EMPTY (R23). -/
def State.awaits (s : State) (m : RegSet) (e : Eng) : Bool :=
  (s.q.get e).readers.any fun p =>
    (firstEmpty (s.emptyAt e p.1) (srcs p.2)).any fun x => !x.trap && if x.pred then m.p.getLsbD x.idx else m.v.getLsbD x.idx

/-! ## Faults (R33, R267) -/

/-- Puts a started command back into its queue. -/
def State.putRun (s : State) (e : Eng) (hent : Bool) (r : Option Running) : State :=
  let q := s.q.get e
  s.setQ e (if hent then { q with hrun := r } else { q with run := r })

/-- The record of an engine trap. -/
def engineRec (e : Eng) (hent : Bool) (r : Running) (c : Cause) : TrapRec :=
  { code := c.code, eng := e.code, sub := c.sub, hent := hent, op := r.entry.op, form := r.entry.form, info := c.info, kept := 0,
    iter := packIter (iterIdx r.bounds r.iter) }

/-- The fault is left for the strand to take. -/
def State.reportFault (s : State) (e : Eng) (t : TrapRec) : State :=
  let q := s.q.get e
  s.setQ e { q with faults := q.faults ++ [t] }

/-- The same, with every queue held (R33). -/
def State.postFault (s : State) (e : Eng) (t : TrapRec) : State :=
  let hold (q : Queue) : Queue := { q with held := true }
  let s := s.reportFault e t
  let q := s.q
  ({ s with q := ⟨hold q.vec, hold q.mtx, hold q.ldq, hold q.stq, hold q.prt, hold q.kvc⟩, freeNo := s.freeNo + 1 }).setSys
    fun x => x.setStatus 6 true

/-- A command faults: it stays at the head of its queue at its current iteration. -/
def State.engineFault (s : State) (e : Eng) (hent : Bool) (r : Running) (c : Cause) : State :=
  let r := r.resumeAt r.iter
  let q := s.q.get e
  let s := s.setQ e (if hent then { q with hrun := some r, hstuck := true } else { q with run := some r, stuck := true })
  s.postFault e (engineRec e hent r c)

/-! ## Completing -/

/-- The agent of a started command. -/
def Running.agent (r : Running) (e : Eng) : Agent := .eng e r.entry.no

/-- A command sets registers FULL: a reader that has found one of them EMPTY and waits is ordered after what the command is (R254). -/
def State.handRegs (s : State) (e : Eng) (r : Running) : State :=
  if s.recent = [] then s
  else
    let known (w : Recent) : Bool := w.knownTo (r.agent e)
    let t := (Eng.all.filter fun f => f != e && s.awaits r.marked f).foldl (fun t f => t.learn (.eng f 0) known) s
    match s.core.phase, s.core.wait with
    | .running, .pred p => if r.marked.p.getLsbD p.toNat then t.learn .strand known else t
    | _, _ => t

/-- A command completes: its registers are FULL again (R21, R197). -/
def State.completeRun (s : State) (e : Eng) (hent : Bool) (r : Running) : State :=
  let s := ((s.handRegs e r).putRun e hent none).markFull r.marked
  if e = .mtx then { s with core := { s.core with mtxDone := s.core.mtxDone + 1 } } else s

/-- The Count of an iteration, of the bytes that it has written (R215, R259). -/
def State.countSlot (s : State) (e : Eng) (r : Running) (n : Nat) : State :=
  match countedSlot e r.entry.instr with
  | some b => s.countWrites (fun w => w.writer == r.agent e && w.iter == r.iter) (s.slotAddr r.bbase b) n
  | none => s

/-- A copy engine, whose iteration goes on after an uncorrectable error and reports it at the next one (R223). -/
def isCopy (e : Eng) : Bool := e == .ldq || e == .stq

/-- The next iteration of a command: what R200 and R221 keep goes with it. -/
def Running.nextIter (r : Running) (next : Nat) : Running :=
  let rows := if r.src = [] then r.rows else mtxRows r
  { r.resumeAt next with first := r.first, rows := rows, rowsAt := r.coords 0, ahead := r.ahead.filter fun a => decide (next ≤ a.iter) }

/-- Every piece of the iteration is written: it is counted, and the next one is due, or the command completes; a command that completes and then
reports an uncorrectable error holds nothing (R267). None while the command waits for traffic in flight. -/
def State.endIteration (s : State) (e : Eng) (hent : Bool) (r : Running) : Option State :=
  match (if e = .prt then prtFinish r s else some s) with
  | none => none
  | some s =>
    let s := s.countSlot e r r.count
    let next := r.iter + 1
    let last := decide (iterCount r.bounds ≤ next)
    match r.eccAt with
    | none => some (if last then s.completeRun e hent r else s.putRun e hent (some (r.nextIter next)))
    | some a =>
      let c := Cause.ecc a.toNat
      if last then some ((s.completeRun e hent r).reportFault e (engineRec e hent { r with iter := if isCopy e then next else r.iter } c))
      else some (s.engineFault e hent { r with iter := next } c)

/-! ## One micro-step of a started command -/

/-- Every piece has been read. An iteration with a piece to write that a failed boundary cuts off faults without any effect (R210, R268, R397). -/
def State.actRun (s : State) (e : Eng) (hent : Bool) (r : Running) : Option State :=
  match contentOf e r s with
  | .trap c => some (s.engineFault e hent r c)
  | .wait => none
  | .go =>
    let a := actOf e r s
    let r := { r with stage := .writing, writes := a.writes, count := a.count }
    match a.writes.find? fun w => s.cutOff w.loc with
    | some w => some (s.engineFault e hent r (.ecc w.addr))
    | none =>
    if a.writes = [] then
      match a.state.endIteration e hent r with
      | some s => some s
      | none => some (a.state.putRun e hent (some r))
    else some (a.state.putRun e hent (some r))

/-- An access of this qualifier waits for a granule's state (R142). A .n store and a write without a qualifier wait only while it is MOORED. -/
def Qual.waits : Qual → Bool
  | .loadW => true
  | .loadC => true
  | .storeW => true
  | .moor => true
  | .loadN => false
  | .storeN => false
  | .engine => false

/-- An access that has waited for its piece's state observes it, and is ordered after the write that set it (R254). -/
def State.observeAt (s : State) (a : Agent) (l : Loc) (q : Qual) : State :=
  match l with
  | .spad g => if q.waits && q.ready (s.granState g) then s.observe a g else s
  | .glob _ => s

/-- An access has set its piece's state, with `s` the machine before: FULL, or EMPTY where a load .c has consumed it. -/
def State.markAt (t s : State) (a : Agent) (l : Loc) (q : Qual) : State :=
  match l with
  | .glob _ => t
  | .spad g =>
    match q with
    | .storeW => t.markGran a g
    | .storeN => t.markGran a g
    | .engine => t.markGran a g
    | .loadC => if s.granState g == .full then t.markGran a g else t
    | .loadW => t
    | .loadN => t
    | .moor => t

/-- A command reads a piece. -/
def State.engineRead (s : State) (a : Agent) (tracked : Bool) (v : RVisit) : Visited :=
  let s := s.observeAt a v.loc v.qual
  match s.visitRead tracked v with
  | .wait => .wait
  | .ok t d ecc => .ok (t.markAt s a v.loc v.qual) d ecc

/-- A command writes a piece in one of its iterations. A NOTE moors it, which writes nothing. -/
def State.engineWrite (s : State) (a : Agent) (iter : Nat) (v : WVisit) : Option State :=
  let s := s.observeAt a v.loc v.qual
  (s.visitWrite v).map fun t => if v.mask = 0 then { t with recent := s.recent } else (t.noteWrite s a iter v.loc v.mask).markAt s a v.loc v.qual

/-- A read visit. An uncorrectable error makes a VEC load or a copy go on with zeros and fault afterwards (R185, R223); any other command
faults with the iteration untouched. -/
def State.readRun (s : State) (e : Eng) (hent : Bool) (r : Running) (v : RVisit) (rest : List RVisit) : Option State :=
  match s.engineRead (r.agent e) (tracksOf e r.entry.instr) v with
  | .wait => none
  | .ok s' d ecc =>
    let goesOn := e == .vec || isCopy e
    match ecc, goesOn with
    | some a, false => some (s.engineFault e hent r (.ecc a.toNat))
    | _, _ =>
      let d := if ecc.isSome then 0 else d
      let r := { r with reads := rest, got := r.got ++ [(v.loc, d)],
                        eccAt := match r.eccAt with | some a => some a | none => ecc }
      some (s'.putRun e hent (some r))

/-- A write visit. -/
def State.writeRun (s : State) (e : Eng) (hent : Bool) (r : Running) (v : WVisit) (rest : List WVisit) : Option State :=
  match s.engineWrite (r.agent e) r.iter (stampWrite r.entry.instr s.now v) with
  | none => none
  | some s =>
    let r := { r with writes := rest }
    if rest = [] then
      match s.endIteration e hent r with
      | some s => some s
      | none => some (s.putRun e hent (some r))
    else some (s.putRun e hent (some r))

/-- The first level whose bound is above 65,536 (R153). -/
def boundBad (r : Running) : Option Cause :=
  match (upTo r.bounds.length).find? fun k => decide (65536 < (r.bounds[k]?).getD 0) with
  | some k => some (.bound k)
  | none => none

/-- An iteration as the window of R221 has begun it. -/
def Running.withIter (r : Running) (a : Ahead) : Running :=
  { r with iter := a.iter, stage := a.stage, reads := a.reads, got := a.got, src := a.src, dst := a.dst, writes := a.writes, count := a.count,
           aux := a.aux, eccAt := a.eccAt, ahead := r.ahead.filter fun b => b.iter != a.iter }

/-- The address of the first destination part that a failed boundary cuts off (R268, R397). -/
def State.cutPart (s : State) (ps : List Part) : Option Nat :=
  ps.findSome? fun p => match p with
    | .piece l key _ _ => if s.cutOff l then some ((⟨key, l, .engine, 0, 0⟩ : WVisit).addr) else none
    | .lit _ _ => none

/-- An iteration's checks (R153, R180, R195, R219): an iteration with a destination part that a failed boundary cuts off faults before it reads
(R268). One that the window of R221 has begun goes on from there. A row read of the KV cache starts with the policy that its context has then (R374). -/
def State.freshRun (s : State) (e : Eng) (hent : Bool) (r : Running) : Option State :=
  match r.ahead.find? fun a => a.iter == r.iter with
  | some a =>
    match a.bad with
    | some (code, sub, info) => some (s.engineFault e hent r ⟨code, sub, info⟩)
    | none => some (s.putRun e hent (some (r.withIter a)))
  | none =>
  match s.sources e hent r.entry.instr with
  | .wait => none
  | .trap c => some (s.engineFault e hent r c)
  | .go =>
    match firstBad [startBad e r s, boundBad r] with
    | some c => some (s.engineFault e hent r c)
    | none =>
      if iterCount r.bounds = 0 then some ((s.countSlot e r 0).completeRun e hent r)
      else if readsKv r && r.policy.isNone then some (s.putRun e hent (some { r with policy := some (rowPolicy r s) }))
      else match planOf e r s with
        | .trap c => some (s.engineFault e hent r c)
        | .trapIn s c => some (s.engineFault e hent r c)
        | .wait => none
        | .go reads src dst aux s =>
          let r := { r with stage := .reading, reads := reads, src := src, dst := dst, aux := aux, got := [] }
          match s.cutPart dst with
          | some a => some (s.engineFault e hent r (.ecc a))
          | none =>
          if reads = [] then
            match s.actRun e hent r with
            | some s => some s
            | none => some (s.putRun e hent (some r))
          else some (s.putRun e hent (some r))

/-- One micro-step of a started command that is no token word; none while it waits. -/
def State.work (s : State) (e : Eng) (hent : Bool) (r : Running) : Option State :=
  match r.stage with
  | .fresh => s.freshRun e hent r
  | .reading =>
    match r.reads with
    | v :: rest => s.readRun e hent r v rest
    | [] => s.actRun e hent r
  | .writing =>
    match r.writes with
    | v :: rest => s.writeRun e hent r v rest
    | [] => s.endIteration e hent r

/-- A started command waits: for a granule, a register, traffic in flight, a count, or a barrier's phase (R265). -/
def State.runStands (s : State) (e : Eng) (hent : Bool) (r : Running) : Bool :=
  match tokenWord r.entry.instr with
  | some (.signal _) => false
  | some (.wait t) => s.token t == 0
  | some (.phase slot _) => s.phaseAt (s.slotAddr r.bbase slot) == r.aux.getLsbD 0
  | none => (s.work e hent r).isNone

end Sys2Proof.Machine
end

