-- ==== Sys2Proof/Machine/Pending.lean ====
section
/-!
DEFINITION. Scalar accesses that are performed after they have retired (R16, R79, R97, R253): loads and stores are performed in program order and have no
order towards engine commands, so that those of the words behind them may come first.
-/

namespace Sys2Proof.Machine

/-! ## Performing -/

/-- The bytes of a part of a load as memory stands, with `was` those found before. Bytes that take an uncorrectable error after the load's checks are taken
as found. -/
def AccessPart.read (s : State) (was : List Byte) : AccessPart → List Byte
  | .glob pa n => if s.poisoned (.glob (pa / 16)) then was else s.globBytes pa n
  | .spad a n => if s.poisoned (.spad (a / 16)) then was else s.spad.getN a n
  | .gran rank off n => (upTo n).map fun i => granByte s rank (off + i)

/-- A part of a speculative task's load makes it depend on the versions that it reads (R342). -/
def AccessPart.depend (s : State) : AccessPart → State
  | .glob pa n => s.dependRead pa n
  | .spad _ _ => s
  | .gran _ _ _ => s

/-- A part as an access of its own. -/
def AccessPart.ref : AccessPart → SRef
  | .glob pa n => .phys pa n
  | .spad a n => .spad a n
  | .gran rank off n => .gran rank off n

/-- The register takes its bytes. An image with a reserved field that is nonzero, of which the load's checks found none, leaves those of the checks
(R98). -/
def State.putLoad (s : State) (d : AccessFor) (was bs : List Byte) : State :=
  match d with
  | .x r bits signed => s.setX r (if signed then sextN bits (leNat bs) else BitVec.ofNat 64 (leNat bs))
  | .d k => s.setD k (BitVec.ofNat 256 (leNat (if tensorDescBad (BitVec.ofNat 256 (leNat bs)) then was else bs)))
  | .n k => s.setN k (BitVec.ofNat 1024 (leNat (if nestDescBad (BitVec.ofNat 1024 (leNat bs)) then was else bs)))
  | .store => s

/-- A part of an access is performed: the machine after it, and its bytes. -/
def PartDue.perform (s : State) (use : AccessFor) (p : PartDue) : State × List Byte :=
  if use = .store then (p.part.ref.perform s p.bytes, p.bytes) else (p.part.depend s, p.part.read s p.bytes)

def State.setPending (s : State) (l : List PendingAccess) : State := { s with core := { s.core with pending := l } }

/-- Part `j` of the oldest pending access is performed; with its last part it is done. -/
def State.performAt (s : State) (j : Nat) : Option State :=
  match s.core.pending with
  | [] => none
  | l :: rest =>
    match l.parts[j]? with
    | none => none
    | some p =>
      let (t, bytes) := p.perform s l.use
      let parts := l.parts.set j { p with bytes := bytes, done := true }
      if parts.all PartDue.done then some ((t.setPending rest).putLoad l.use l.was (parts.flatMap PartDue.bytes))
      else some (t.setPending ({ l with parts := parts } :: rest))

/-- The `k`-th part still due of the oldest pending access is performed: accesses are performed in program order, the pieces of one in any (R16, R79). -/
def State.performPart (s : State) (k : Nat) : Option State :=
  match s.core.pending with
  | [] => none
  | l :: _ => (((upTo l.parts.length).filter fun j => l.parts[j]?.any fun p => !p.done)[k]?).bind s.performAt

/-- What is left of the oldest pending access is performed. -/
def State.performHead (s : State) : State :=
  match s.core.pending with
  | [] => s
  | l :: _ => (upTo l.parts.length).foldl (init := s) fun t j => if l.parts[j]?.any fun p => !p.done then (t.performAt j).getD t else t

/-- The first `k` pending accesses are performed. -/
def State.performFirst : Nat → State → State
  | 0, s => s
  | k + 1, s => State.performFirst k s.performHead

/-- Every pending access is performed up to the last one that satisfies a test, since accesses are performed in program order. -/
def State.performThrough (s : State) (f : PendingAccess → Bool) : State :=
  if s.core.pending = [] then s else State.performFirst (s.core.pending.reverse.dropWhile fun l => !f l).length s

/-- Every pending access is performed. -/
def State.performAll (s : State) : State := s.performThrough fun _ => true

/-- The accesses that the strand had still to perform when it signalled a token are performed before the token's wait goes on (R253, R254). -/
def State.performSignalled (s : State) (t : BitVec 4) : State := s.performThrough fun l => l.signalled.getLsbD t.toNat

/-! ## What a word waits for -/

/-- The registers that a word names, of those that a load writes. -/
structure Named where
  x : List (BitVec 5)
  d : List (BitVec 6)
  n : List (BitVec 3)
deriving DecidableEq, Repr

def Named.has (m : Named) : AccessFor → Bool
  | .x r _ _ => m.x.contains r
  | .d k => m.d.contains k
  | .n k => m.n.contains k
  | .store => false

def namedX (l : List (BitVec 5)) : Option Named := some ⟨l, [], []⟩

/-- The engine command of a word or pair, with the x registers that it captures. -/
def engineBase : Instr → Option (Instr × XRegs)
  | .xForm base x => some (base, x)
  | .cpinNL d1 d2 n s q _ => some (.cpinN d1 d2 n s q, XRegs.zero)
  | .cpfillWL d1 n s _ => some (.cpfillW d1 n s, XRegs.zero)
  | .cpfillNL d1 n s _ => some (.cpfillN d1 n s, XRegs.zero)
  | .cpoutNL d1 d2 n s _ => some (.cpoutN d1 d2 n s, XRegs.zero)
  | .noteL d1 d2 s _ => some (.note d1 d2 s, XRegs.zero)
  | .landL d1 s _ => some (.land d1 s, XRegs.zero)
  | .unlandL _ => some (.unland, XRegs.zero)
  | .declL _ => some (.decl, XRegs.zero)
  | .nwaitL d1 _ => some (.nwaitTag d1, XRegs.zero)
  | .retendL _ => some (.retend, XRegs.zero)
  | .kvpolL _ => some (.kvpol, XRegs.zero)
  | .kvtrimL d1 _ => some (.kvtrim d1, XRegs.zero)
  | i => match encodeWord i with
    | some w => if fEng w = 0 then none else some (i, scalarRegs i)
    | none => none

/-- What a word names that lets scalar accesses before it stay unperformed; none for a word before which R253 orders them and which can show it: another
access, an atomic, a synchronising word, and whatever else acts beyond the strand's own registers. A KVMAP names the descriptor that it writes. -/
def letsPass (s : State) : Instr → Option Named
  | .add d a b => namedX [d, a, b] | .sub d a b => namedX [d, a, b] | .and d a b => namedX [d, a, b]
  | .or d a b => namedX [d, a, b] | .xor d a b => namedX [d, a, b] | .sll d a b => namedX [d, a, b]
  | .srl d a b => namedX [d, a, b] | .sra d a b => namedX [d, a, b] | .mul d a b => namedX [d, a, b]
  | .mulhS d a b => namedX [d, a, b] | .mulhN d a b => namedX [d, a, b] | .divS d a b => namedX [d, a, b]
  | .divN d a b => namedX [d, a, b] | .remS d a b => namedX [d, a, b] | .remN d a b => namedX [d, a, b]
  | .minS d a b => namedX [d, a, b] | .minN d a b => namedX [d, a, b] | .maxS d a b => namedX [d, a, b]
  | .maxN d a b => namedX [d, a, b] | .clz d a => namedX [d, a] | .popc d a => namedX [d, a]
  | .sel d a b _ => namedX [d, a, b] | .addi d a _ => namedX [d, a] | .andi d a _ => namedX [d, a]
  | .ori d a _ => namedX [d, a] | .xori d a _ => namedX [d, a] | .slli d a _ => namedX [d, a]
  | .srli d a _ => namedX [d, a] | .srai d a _ => namedX [d, a] | .limm d _ => namedX [d]
  | .limmSh d _ => namedX [d] | .limmL d _ => namedX [d] | .limmLh d _ => namedX [d]
  | .addiL d a _ => namedX [d, a] | .andiL d a _ => namedX [d, a] | .oriL d a _ => namedX [d, a]
  | .xoriL d a _ => namedX [d, a] | .cmp _ _ a b => namedX [a, b] | .cmpi _ _ a _ => namedX [a]
  | .btgt _ _ => namedX [] | .btgtX _ a _ => namedX [a] | .brc _ _ => namedX [] | .brcF _ _ => namedX []
  | .br _ => namedX [] | .brl _ _ => namedX [] | .widf d _ => namedX [d] | .srr d _ => namedX [d]
  | .lset _ a => namedX [a] | .lseti _ _ => namedX [] | .nop => namedX [] | .qmark => namedX []
  | .qcancel d _ => namedX [d] | .trap _ => namedX [] | .srw a _ => namedX [a] | .sig _ => namedX []
  | .tstat d a => namedX [d, a] | .cstat d a => namedX [d, a] | .safept => namedX []
  | i => match engineBase i with
    | some (b, x) => some ⟨[x.x0, x.x1, x.x2, x.x3, x.x4], (kvmapDest b).toList ++ descs (s.x x.x4) b, (nest b).toList⟩
    | none => none

/-- A SIG's count comes once every earlier store is performed; the loads after those come before what the wait for that count goes on to (R103, R253). -/
def State.signalPending (s : State) (t : BitVec 4) : State :=
  let s := s.performThrough fun l => l.use == .store
  s.setPending (s.core.pending.map fun l => { l with signalled := setBit l.signalled t.toNat true })

/-- The register that a load writes is among these. -/
def AccessFor.writesX (u : AccessFor) (l : List (BitVec 5)) : Bool := match u with | .x r _ _ => l.contains r | _ => false

/-- The machine as a word finds it: the accesses that it depends on have been performed. -/
def State.performFor (s : State) (i : Instr) : State :=
  if s.core.pending = [] then s
  else match i, letsPass s i with
    | .sig t, _ => s.signalPending t
    | _, some m =>
      let s := s.performThrough fun l => l.use.writesX m.x
      match letsPass s i with
      | some m => s.performThrough fun l => m.has l.use
      | none => s.performAll
    | _, none => s.performAll

/-! ## Putting an access off -/

/-- The parts of a checked access: its pieces, or bytes of a granule-state array. -/
def SRef.parts : SRef → List AccessPart
  | .glob ps => ps.map fun p => .glob p.2.1 p.2.2
  | .spad a n => (pieces (n + 1) a n).map fun p => .spad p.1 p.2
  | .gran rank off n => [.gran rank off n]
  | .phys pa n => (pieces (n + 1) pa n).map fun p => .glob p.1 p.2

def AccessPart.size : AccessPart → Nat
  | .glob _ n => n
  | .spad _ n => n
  | .gran _ _ n => n

/-- What the checks of an access leave behind while it is still to be performed: the page TLB's leaves, and the lines in the task's read set (R341). -/
def SRef.noteTouch (s : State) (need : BitVec 8) : SRef → State
  | .glob ps => ps.foldl (fun s p => (s.tlbTouch s.ctx need p.1).trackLines (linesOf p.2.1 p.2.2)) s
  | .phys pa n => s.trackLines (linesOf pa n)
  | _ => s

/-- The parts with the bytes that a store writes. -/
def storeParts : List AccessPart → List Byte → List PartDue
  | [], _ => []
  | p :: ps, bs => ⟨p, bs.take p.size, false⟩ :: storeParts ps (bs.drop p.size)

/-- An access that has passed its checks retires with its parts still to be performed; those of a load keep what they find now. -/
def State.putOff (s : State) (r : SRef) (need : BitVec 8) (use : AccessFor) (bs : List Byte) : State :=
  let parts := if use = .store then storeParts r.parts bs else r.parts.map fun p => ⟨p, p.read s [], false⟩
  let t := r.noteTouch s need
  t.setPending (t.core.pending ++ [⟨use, parts, parts.flatMap PartDue.bytes, 0⟩])

/-- A scalar access: its address, size and use, the bytes that a store writes, and the registers that it names. -/
structure Access1 where
  ea : Word
  n : Nat
  use : AccessFor
  bytes : List Byte
  named : List (BitVec 5)

def accessOf (s : State) : Instr → Option Access1
  | .ldBS d a i => some ⟨s.ea a i, 1, .x d 8 true, [], [d, a]⟩ | .ldBN d a i => some ⟨s.ea a i, 1, .x d 8 false, [], [d, a]⟩
  | .ldHS d a i => some ⟨s.ea a i, 2, .x d 16 true, [], [d, a]⟩ | .ldHN d a i => some ⟨s.ea a i, 2, .x d 16 false, [], [d, a]⟩
  | .ldWS d a i => some ⟨s.ea a i, 4, .x d 32 true, [], [d, a]⟩ | .ldWN d a i => some ⟨s.ea a i, 4, .x d 32 false, [], [d, a]⟩
  | .ldD d a i => some ⟨s.ea a i, 8, .x d 64 false, [], [d, a]⟩
  | .dld k a => some ⟨s.x a, 32, .d k, [], [a]⟩
  | .nld k a => some ⟨s.x a, 128, .n k, [], [a]⟩
  | .stB d a i => some ⟨s.ea a i, 1, .store, leBytes 1 (s.x d).toNat, [d, a]⟩
  | .stH d a i => some ⟨s.ea a i, 2, .store, leBytes 2 (s.x d).toNat, [d, a]⟩
  | .stW d a i => some ⟨s.ea a i, 4, .store, leBytes 4 (s.x d).toNat, [d, a]⟩
  | .stD d a i => some ⟨s.ea a i, 8, .store, leBytes 8 (s.x d).toNat, [d, a]⟩
  | _ => none

/-- Whether the word's own checks let the access through, with `bs` the bytes that a load finds: for an LD nothing more; for a DLD or NLD the alignment, the
image and the waits of R18 (R98); a store only of a task that is not speculative, whose stores go into its balloon. -/
def mayPutOff (s : State) (r : SRef) (ea : Word) (bs : List Byte) : AccessFor → Bool
  | .x _ _ _ => true
  | .d k => ea.extractLsb' 0 4 == 0 && !tensorDescBad (BitVec.ofNat 256 (leNat bs)) && !(s.descPending k || s.kvmapPending k)
  | .n k => ea.extractLsb' 0 4 == 0 && !nestDescBad (BitVec.ofNat 1024 (leNat bs)) && !s.nestPending k
  | .store => !s.specNow && (r.cutAt s ea).isNone

/-- The machine as a scalar access that is put off finds it: the loads of the registers that it names have been performed. -/
def State.performNamed (s : State) (i : Instr) : State :=
  match accessOf s i with
  | some a => s.performThrough fun l => l.use.writesX a.named
  | none => s

/-- A scalar access that would complete, put off instead: it retires, and is performed later. -/
def deferAccess (i : Instr) (s : State) : Option State :=
  match accessOf s i with
  | none => none
  | some a =>
    let store := decide (a.use = .store)
    let need := if store then permCtlWrite else permCtlRead
    match resolveScalar s need store a.ea a.n with
    | .ok r =>
      if (!store && ((r.poisonAt s a.ea).isSome || r.readWaits s)) || !mayPutOff s r a.ea (r.read s) a.use then none
      else
        let t := s.putOff r need a.use a.bytes
        some (match a.use with | .x _ _ _ => (t.setC 7 true).retire | _ => t.retire)
    | _ => none

end Sys2Proof.Machine
end

