-- ==== Sys2Proof/Machine/Sync.lean ====
section
/-!
DEFINITION. How the strand and the six engines meet (R14, R18, R24 to R27, R33, R102 to R106, R110, R221, R259, R265, R365): who takes a token's
count, the words SIG, WAITK, BWAIT, DRAIN and FENCE, the window of STQ, and how the head command of a queue starts.
-/

namespace Sys2Proof.Machine

/-! ## Tokens (R24 to R27, R103, R104) -/

/-- Nothing executes in the queue: it has no started command, or one that has faulted or waits, so that a handler entry runs at once (R265). -/
def State.handlerTurn (s : State) (e : Eng) : Bool :=
  let q := s.q.get e
  q.hrun.isNone && (q.stuck || q.run.all (s.runStands e false))

/-- The token word that a queue stands at: that of its handler entry, or of its head command where nothing has started and the queue is not held. -/
def State.tokenHead (s : State) (e : Eng) : Option TokenWord :=
  let q := s.q.get e
  match q.hentry, q.run, q.entries with
  | some en, _, _ => if (tokenWord en.instr).isSome && s.handlerTurn e then tokenWord en.instr else none
  | none, none, en :: _ => if q.held || q.hrun.isSome then none else tokenWord en.instr
  | none, _, _ => none

/-- The engine stands at this token word, and the power manager does not withhold it (R396). -/
def State.tokenAt (s : State) (w : TokenWord) (e : Eng) : Bool :=
  s.tokenHead e == some w && !(decide (0 < s.pkg.throttle) && (e == .vec || e == .mtx))

/-- The strand stands at this word. -/
def State.strandAt (s : State) (w : IWord) : Bool :=
  s.core.phase == .running && s.peekWord s.core.pc.toNat == some w

/-- SIG and WAITK of a token as words (R103). -/
def sigWord (t : BitVec 4) : IWord := 0x10C00000#32 ||| (t.setWidth 32 <<< 3)
def waitkWord (t : BitVec 4) : IWord := 0x11000000#32 ||| (t.setWidth 32 <<< 3)

/-- An agent is about to signal the token: its signal applies before any wait of the same cycle (R26). -/
def State.signalDue (s : State) (t : BitVec 4) : Bool := s.strandAt (sigWord t) || Eng.all.any (s.tokenAt (.signal t))

/-- How many agents that come before engine `e` in R26's order wait for the token now. -/
def State.waitersBefore (s : State) (t : BitVec 4) (e : Eng) : Nat :=
  (s.strandAt (waitkWord t)).toNat + (Eng.all.filter fun f => decide (f.code.toNat < e.code.toNat) && s.tokenAt (.wait t) f).length

/-- An agent takes a count, which orders it after what its signal was (R25, R254): the scalar accesses among that have been performed. -/
def State.takeSignal (s : State) (a : Agent) (t : BitVec 4) : Option State := ((s.performSignalled t).takeCount a t).takeToken t

/-- The strand, first in R26's order, takes a count. A full counter waits for the signals of its cycle, which overflow (R26, R27). -/
def State.strandTakes (s : State) (t : BitVec 4) : Option State :=
  if s.token t == BitVec.allOnes 16 && s.signalDue t then none else s.takeSignal .strand t

/-- Command `no` of engine `e` takes a count, where one is left for it (R26). -/
def State.engineTakes (s : State) (e : Eng) (no : Nat) (t : BitVec 4) : Option State :=
  if s.token t = 0 then none
  else if s.token t == BitVec.allOnes 16 && s.signalDue t then none
  else if (s.token t).toNat ≤ s.waitersBefore t e then none
  else s.takeSignal (.eng e no) t

/-- An agent signals a token: what it has been ordered after comes before the wait that takes the count (R25, R254). -/
def State.signalBy (s : State) (a : Agent) (t : BitVec 4) : Option State := (s.handToken a t).signal t

def execSig (t : BitVec 4) (s : State) : Out :=
  match s.signalBy .strand t with
  | some s' => .next s'.retire
  | none => .next (s.raise 0x43 (.tokovf t.toNat 0))

def execWaitk (t : BitVec 4) (s : State) : Out :=
  match s.strandTakes t with
  | some s' => .next s'.handOn.retire
  | none => .next s.stall

def execBwait (slot : BitVec 4) (s : State) : Out :=
  match (s.observePhase .strand (s.slotAddr s.core.sys.bbase slot)).takePhase slot slot.toNat with
  | some s' => .next s'.handOn.retire
  | none => .next s.stall

/-! ## Drains and fences (R106, R110, R111, R265) -/

/-- A queue as a DRAIN or a FENCE sees it: while engines are held, they wait only for handler entries and for commands already executing (R265). -/
def State.drainedFor (s : State) (e : Eng) : Bool :=
  let q := s.q.get e
  if q.held then q.hentry.isNone && (q.hrun.isNone || q.hstuck) && (q.stuck || q.run.all (s.runStands e false)) else q.drained

def State.drainedAll (s : State) : Bool := Eng.all.all s.drainedFor

def execDrain (mask : BitVec 6) (s : State) : Out :=
  .next (if (maskQueues mask).all s.drainedFor then (s.drainedFrom (maskQueues mask)).retire else s.stall)

/-- FENCE (R110, R111): in this model a completed command's writes are visible at every scope, so each scope orders the stores and waits for the
queues, and .fabric for the notices as well. The wider scopes of a speculative task wait for it to become non-speculative. -/
def State.fenceReady (s : State) (scope : BitVec 3) : Bool := s.drainedAll && (scope != 5 || s.notesDelivered)

def execFence (scope : BitVec 3) (s : State) : Out :=
  .next (if s.specNow && decide (3 ≤ scope.toNat) then s.stallSpec else if s.fenceReady scope then s.fenced.retire else s.stall)

/-! ## One micro-step of a started command -/

/-- A token or barrier-wait word (R24, R27, R104). -/
def State.tokenRun (s : State) (e : Eng) (hent : Bool) (r : Running) : TokenWord → Option State
  | .signal t =>
    match s.signalBy (r.agent e) t with
    | some s => some (s.completeRun e hent r)
    | none => some (s.engineFault e hent r (.tokovf t.toNat e.code.toNat))
  | .wait t => (s.engineTakes e r.entry.no t).map fun s => s.completeRun e hent r
  | .phase slot bit =>
    if s.phaseAt (s.slotAddr r.bbase slot) = r.aux.getLsbD 0 then none
    else some (((s.observePhase (r.agent e) (s.slotAddr r.bbase slot)).setSys fun x => { x with bphase := setBit x.bphase bit (!x.bphase.getLsbD bit) }).completeRun e hent r)

/-- One micro-step of a started command; none while it waits. -/
def State.advance (s : State) (e : Eng) (hent : Bool) (r : Running) : Option State :=
  match tokenWord r.entry.instr with
  | some t => s.tokenRun e hent r t
  | none => s.work e hent r

/-! ## The window of STQ (R221) -/

/-- A STQ copy with a global destination that consumes nothing: its iterations have a window of 8. -/
def windowed (r : Running) : Bool :=
  isStq r.entry.instr && descSpace r.d1 == 2 &&
    (match copyOf r.entry.instr with | some op => op.kind != .writeback && op.sq != .loadC | none => false)

/-- Where an iteration stands. -/
def Running.iterNow (r : Running) : Ahead := ⟨r.iter, none, r.stage, r.reads, r.got, r.src, r.dst, r.writes, r.count, r.aux, r.eccAt⟩

/-- An iteration that its checks have failed. -/
def Ahead.failed (i : Nat) (c : Cause) : Ahead := ⟨i, some (c.code, c.sub, c.info), .fresh, [], [], [], [], [], 0, 0, none⟩

/-- The iteration has still to write the piece, as far as is known: one whose checks are still to be made may, one that faults will not. -/
def Ahead.mayWrite (a : Ahead) (at_ : Loc) : Bool :=
  a.bad.isNone &&
    match a.stage with
    | .fresh => true
    | .reading => a.dst.any fun p => match p with | .piece l _ _ _ => l == at_ | .lit _ _ => false
    | .writing => a.writes.any fun w => w.loc == at_

/-- The checks of an iteration, made in the window: it is known from now on which pieces it writes, or that it faults in its turn. -/
def State.beginAhead (s : State) (r : Running) (i : Nat) : Option (State × Ahead) :=
  match planOf .stq { r.resumeAt i with first := r.first } s with
  | .trap c => some (s, .failed i c)
  | .trapIn s c => some (s, .failed i c)
  | .wait => none
  | .go reads src dst aux s =>
    some (s, match s.cutPart dst with
      | some a => .failed i (.ecc a)
      | none => ⟨i, none, .reading, reads, [], src, dst, [], 0, aux, none⟩)

/-- The next read of an iteration in the window, or what follows the last one. -/
def State.readAhead (s : State) (r : Running) (a : Ahead) : Option (State × Ahead) :=
  match a.reads with
  | v :: rest =>
    match s.engineRead (r.agent .stq) (tracksOf .stq r.entry.instr) v with
    | .wait => none
    | .ok s' d ecc =>
      some (s',
        { a with reads := rest, got := a.got ++ [(v.loc, if ecc.isSome then 0 else d)],
                 eccAt := match a.eccAt with | some x => some x | none => ecc })
  | [] =>
    let x := actOf .stq (r.withIter a) s
    some (x.state, { a with stage := .writing, writes := x.writes, count := x.count })

/-- The write of piece `m` of an iteration in the window: a piece that an earlier iteration has still to write waits for it. -/
def State.writeAhead (s : State) (r : Running) (a : Ahead) (earlier : List Ahead) (m : Nat) : Option (State × Ahead) :=
  match a.writes[m]? with
  | none => none
  | some w =>
    if earlier.any fun b => b.mayWrite w.loc then none
    else (s.engineWrite (r.agent .stq) a.iter w).map fun t => (t, { a with writes := a.writes.eraseIdx m })

/-- STQ works on the iteration `j` places after the current one of its command, or of its handler entry: it makes the checks, once those of every
iteration before are made; reads a piece; or writes piece `m`. The iteration stays uncounted until its turn. Where the current iteration has faulted and
its trap is still to be delivered, it writes nothing, and those after it go on. -/
def State.earlyMove (s : State) (hent : Bool) (j m : Nat) : Option State :=
  let q := s.q.stq
  let stuck := if hent then q.hstuck else q.stuck
  match (if hent then q.hrun else q.run) with
  | none => none
  | some r =>
    let i := r.iter + j
    let now := { r.iterNow with bad := if stuck then some (0, 0, 0) else none }
    let before := now :: r.ahead.filter fun a => decide (a.iter < i)
    if !windowed r || j = 0 || 7 < j || iterCount r.bounds ≤ i || (stuck && !q.faults.any fun t => t.hent == hent) ||
        (!stuck && r.stage == .fresh) || before.length < j then none
    else
      let next := match r.ahead.find? fun a => a.iter == i with
        | none => s.beginAhead r i
        | some a =>
          if a.bad.isSome then none
          else match a.stage with
            | .fresh => none
            | .reading => s.readAhead r a
            | .writing => s.writeAhead r a before m
      next.map fun p => p.1.putRun .stq hent (some { r with ahead := p.2 :: r.ahead.filter fun a => a.iter != i })

/-! ## Starting (R14, R18, R102, R105, R365) -/

/-- The bounds of a command: its nest's, or KVTRIM's list (R153, R369). -/
def boundsOf (en : Entry) (d1 : TDesc) (n : BitVec 1024) : List Nat :=
  match en.instr with
  | .kvtrim _ => [trimCount d1]
  | i => if (nest i).isSome then nestBounds n en.loops else []

/-- The started command, with the descriptors and engine-read registers as they stand. -/
def State.startRun (s : State) (en : Entry) : Running :=
  let ds := (descs en.x4 en.instr).map fun d => s.core.d[d.toNat]'(by omega)
  let d (k : Nat) : TDesc := (ds[k]?).getD 0
  let n := match nest en.instr with | some k => s.core.n[k.toNat]'(by omega) | none => 0
  let sys := s.core.sys
  let aux : BitVec 256 :=
    match tokenWord en.instr with
    | some (.phase _ bit) => (BitVec.ofBool (sys.bphase.getLsbD bit)).setWidth 256
    | _ => 0
  { entry := en, d1 := d 0, d2 := d 1, d3 := d 2, bounds := boundsOf en (d 0) n, nest := n, bbase := sys.bbase, seed := sys.seed,
    resp := sys.resp, confrec := sys.confrec, ctx := sys.ctx, ptroot := sys.ptroot, first := 0, iter := 0, stage := .fresh, reads := [],
    got := [], src := [], dst := [], writes := [], count := 0, aux := aux, also := 0, eccAt := none, rows := [], rowsAt := [], policy := none, ahead := [] }

/-- A command waits at the head of its queue; the power manager withholds the starts of VEC and MTX (R396). -/
def State.headHeld (s : State) (e : Eng) (r : Running) : Bool :=
  let i := r.entry.instr
  match e with
  | .vec => decide (0 < s.pkg.throttle) || vecHeld i r.d1 r.confrec r.entry.x0 s
  | .mtx => decide (0 < s.pkg.throttle) || mtxHeld i r.d1 r.bbase s
  | .ldq => copyHeld i r.d1 r.d2 r.bbase s
  | .stq => copyHeld i r.d1 r.d2 r.bbase s
  | .prt => prtSpecHeld i r.d1 s || (prtHeld i r.entry.x4 s && (prtStart s.freeNo r s).isNone)
  | .kvc => kvHeld r.entry r.d1 s && (s.specNow || (kvStart s.freeNo r s).isNone)

/-- Every command that entered the queue before number `no` has completed or has been removed. -/
def Queue.passed (q : Queue) (no : Nat) : Bool :=
  (q.entries ++ (q.run.map (·.entry)).toList ++ q.hentry.toList ++ (q.hrun.map (·.entry)).toList).all fun en => decide (no ≤ en.no)

/-- The other queue of a QMARK. -/
def markOther (e : Eng) : Eng := if e = .ldq then .stq else .ldq

/-- A QMARK half leaves the head of its queue once every command of the other queue that was enqueued before the marker has completed (R105), or
has been removed (R108). -/
def State.qmarkPasses (s : State) (e : Eng) (en : Entry) : Bool := (s.q.get (markOther e)).passed en.no

/-- A QMARK half leaves: what came before the marker in the other queue comes before what follows here (R105, R254). -/
def State.leaveMark (s : State) (e : Eng) (no : Nat) : State :=
  s.passMark e (markOther e) no ((s.q.get (markOther e)).entries.any fun en => en.no == no)

/-- A token wait that finds no count for it waits at the head of its queue, and has not started (R24, R29, R273). -/
def State.countLess (s : State) (e : Eng) (en : Entry) : Bool :=
  match tokenWord en.instr with
  | some (.wait t) => (s.engineTakes e en.no t).isNone
  | _ => false

/-- Starts the head command, with `s` the machine without its entry. None while it must wait at the head. -/
def State.startHead (s : State) (e : Eng) (hent : Bool) (en : Entry) (without : State) : Option State :=
  if en.instr = .qmark then (if s.qmarkPasses e en then some (without.leaveMark e en.no) else none)
  else
    let r := s.startRun en
    let waits := (descs en.x4 en.instr).any (fun d => kvmapBefore s d en.no) || s.sources e hent en.instr == .wait || s.headHeld e r || s.countLess e en
    if waits then none
    else
      let r := { r with also := if e = .mtx then (mtxTiles r).a else 0 }
      let s := (without.putRun e hent (some r)).markEmpty ⟨0, 0, r.also⟩
      match s.advance e hent r with
      | some s => some s
      | none => some s

/-- The handler entry starts. -/
def State.startHandler (s : State) (e : Eng) : Option State :=
  let q := s.q.get e
  match q.hentry with
  | some en => s.startHead e true en (s.setQ e { q with hentry := none })
  | none => none

/-- One micro-step of an engine; none while it has nothing to do (R33, R265). A handler entry goes before the ordinary entries, and before a
head command that waits or is held. -/
def State.engineStep (s : State) (e : Eng) : Option State :=
  let q := s.q.get e
  match q.hrun with
  | some r => if q.hstuck then none else s.advance e true r
  | none =>
    let ordinary := match q.run with
      | some r => if q.stuck then none else s.advance e false r
      | none => none
    match ordinary, q.run, q.entries with
    | some s', _, _ => some s'
    | none, none, en :: rest =>
      if q.hentry.isSome then s.startHandler e
      else if q.held then none
      else s.startHead e false en (s.setQ e { q with entries := rest })
    | none, _, _ => s.startHandler e

/-- The first engine, in ENG order, that can do something. -/
def State.enginesStep (s : State) : List Eng → Option State
  | [] => none
  | e :: es => match s.engineStep e with | some s' => some s' | none => s.enginesStep es

end Sys2Proof.Machine
end

