-- ==== Sys2Proof/Machine/Cluster.lean ====
section
/-!
DEFINITION. The cluster's flag unit (R304 to R306, R311, R312), the atomics at the L1 and WAITA (R307 to R309).
-/

namespace Sys2Proof.Machine

/-! ## Flags -/

def flagCell (f : BitVec 8) (r : BitVec 3) : Nat := 8 * f.toNat + r.toNat

def State.flag (s : State) (f : BitVec 8) (r : BitVec 3) : BitVec 32 :=
  s.unit.flags[flagCell f r]'(by simp only [flagCell]; omega)

def State.setFlag (s : State) (f : BitVec 8) (r : BitVec 3) (v : BitVec 32) : State :=
  { s with unit := { s.unit with flags := s.unit.flags.set (flagCell f r) v (by simp only [flagCell]; omega) } }

/-- An update finds an uncorrectable error in a cell: the cell is poisoned (R312). -/
def State.findFlagErr (s : State) (cell : Nat) : State :=
  if s.unit.flagErrs.contains cell then
    { s with unit := { s.unit with flagPoison := (cell :: s.unit.flagPoison).eraseDups, flagErrs := s.unit.flagErrs.filter (· != cell) } }
  else s

/-- One update (R305, R306, R312): an addition wraps; a set replaces every cell of its mask and clears their poison. -/
def State.flagUpdate (s : State) : FlagUpdate → State
  | .add f r v => (s.setFlag f r (s.flag f r + v)).findFlagErr (flagCell f r)
  | .set f mask v =>
    (upTo 8).foldl (init := s) fun s r =>
      if mask.getLsbD r then
        let s := s.setFlag f (BitVec.ofNat 3 r) v
        let kept (l : List Nat) : List Nat := l.filter (· != flagCell f (BitVec.ofNat 3 r))
        { s with unit := { s.unit with flagPoison := kept s.unit.flagPoison, flagErrs := kept s.unit.flagErrs } }
      else s

/-- The launch of this core's task holds the unit (R304). -/
def State.holdsFlags (s : State) : Bool := s.runTask.any fun t => s.unit.flagOwner == some t.launch

/-- PERM of a core whose launch does not hold the unit (R304). -/
def Cause.flagPerm (f : BitVec 8) : Cause := .perm 0 f.toNat
/-- UNBOUND of a rank, where no address has been formed (log entry 10). -/
def Cause.unboundRank (n : Nat) : Cause := ⟨0x04, 0x03, Config.noAddress n⟩
/-- ECC of a flag cell (R312). -/
def Cause.flagEcc (f : BitVec 8) (r : BitVec 3) : Cause := ⟨0x10, 0, BitVec.ofNat 64 (f.toNat + 256 * r.toNat + 2 ^ 62)⟩

/-- FLADD and FLSET: they wait while the task is speculative, make their checks, wait as FENCE.cluster does, and update (R306, R309).
That the checks come before that wait is the model's choice: log entry 88. -/
def flagWrite (op : BitVec 7) (f : BitVec 8) (bad : State → Option Cause) (u : FlagUpdate) (s : State) : State :=
  if s.specNow then s.stallSpec
  else if !s.holdsFlags then s.raise op (.flagPerm f)
  else match bad s with
    | some c => s.raise op c
    | none => if s.fenceReady 2 then (s.fenced.flagUpdate u).retire else s.stall

def execFladd (a : BitVec 5) (f : BitVec 8) (m : BitVec 3) (s : State) : Out :=
  .next (flagWrite 0x58 f (fun s => if s.rankBound m.toNat then none else some (.unboundRank s.freeNo))
    (.add f m ((s.x a).extractLsb' 0 32)) s)

def execFlset (d a : BitVec 5) (f : BitVec 8) (s : State) : Out :=
  let mask := s.x d
  .next (flagWrite 0x59 f (fun s =>
      if mask.extractLsb' 8 56 != 0 then some .arg
      else if (upTo 8).any fun r => mask.getLsbD r && !s.rankBound r then some (.unboundRank s.freeNo)
      else none)
    (.set f (mask.extractLsb' 0 8) ((s.x a).extractLsb' 0 32)) s)

/-- FLWAIT: its own cell has reached the threshold, by sequence numbers. It is one of the waits of R253, as WAITA and the AMOs are (R303). -/
def execFlwait (d a : BitVec 5) (f : BitVec 8) (s : State) : Out :=
  let r := BitVec.ofNat 3 s.selfRank
  .next (if s.specNow then s.stallSpec
    else if !s.holdsFlags then s.raise 0x5A (.flagPerm f)
    else if s.unit.flagPoison.contains (flagCell f r) then s.raise 0x5A (.flagEcc f r)
    else if (s.flag f r - (s.x a).extractLsb' 0 32).toNat < 2 ^ 31 then (s.handOn.setX d ((s.flag f r).setWidth 64)).retire
    else s.stall)

/-- An update of another core's flag word reaches the unit; its checks were made at its issue (R305, R306). -/
def execFlagUpdateApply (_rank : BitVec 3) (u : FlagUpdate) (s : State) : Out :=
  .next (if s.unit.flagOwner.isSome then s.flagUpdate u else s)

/-- Harbourmaster assigns the unit: to the launch whose bind records hold the cluster's rank-0 core, while no launch that has not completed
holds it; every cell becomes zero (R304). -/
def execFlagUnitAssign (launch : Nat) (s : State) : Out :=
  let busy := s.unit.flagOwner.any fun o => s.unit.launches.any fun l => l.id == o && !l.complete
  let fits := s.unit.launches.any fun l =>
    l.id == launch && !l.complete && s.bound s.selfDie (8 * s.selfCluster) (some (l.timeline, l.ctx))
  .next (if busy || !fits then s
    else { s with unit := { s.unit with flagOwner := some launch, flags := Vector.replicate 2048 0, flagPoison := [], flagErrs := [] } })

/-! ## Atomics (R307) -/

/-- A line holds an uncorrectable error (R312). -/
def State.lineBad (s : State) (pa : Nat) : Bool := (upTo 4).any fun k => s.poisoned (.glob (pa / 64 * 4 + k))

/-- The checks of R307 on an aligned location of `n` bytes: its physical address. -/
def atomicCheck (s : State) (need : BitVec 8) (ea : Word) (n : Nat) : Except Cause Nat :=
  if ea.toNat % n ≠ 0 then .error (.align ea)
  else if ea.extractLsb' 52 12 != 0 then .error (.perm 2 ea.toNat)
  else match s.translate s.ctx need ea.toNat with
    | .range => .error (.range 0 ea.toNat)
    | .perm sub => .error (.perm sub ea.toNat)
    | .nres => .error (.nres ea.toNat)
    | .ecc pa => .error (.ecc pa)
    | .ok pa => if s.lineBad pa then .error (.ecc ea.toNat) else .ok pa

/-- Bytes of an AMO, WAITA or SCAMO (M[0]). -/
def amoBytes (dbl : Bool) : Nat := if dbl then 8 else 4

/-- The operations in OP order. -/
inductive AmoOp where
  | add | min | max | and | or | xchg | cas
deriving DecidableEq, Repr

def AmoOp.ofCode (c : BitVec 3) : AmoOp :=
  if c = 0 then .add else if c = 1 then .min else if c = 2 then .max else if c = 3 then .and
  else if c = 4 then .or else if c = 5 then .xchg else .cas

/-- `a` is below `b` as `w`-bit values. -/
def belowAs (uns : Bool) (w a b : Nat) : Bool :=
  if uns then decide (a < b) else decide ((BitVec.ofNat w a).toInt < (BitVec.ofNat w b).toInt)

/-- The value that an operation leaves, from the old value and the low bytes of X[B] and X[D]. -/
def amoNew (op : AmoOp) (uns : Bool) (n old b d : Nat) : Nat :=
  match op with
  | .add => (old + b) % 256 ^ n
  | .min => if belowAs uns (8 * n) b old then b else old
  | .max => if belowAs uns (8 * n) old b then b else old
  | .and => old &&& b
  | .or => old ||| b
  | .xchg => b
  | .cas => if old = d then b else old

/-- The read, the write and X[D] of an atomic on a checked location. -/
def State.amoAt (s : State) (op : AmoOp) (uns : Bool) (n pa : Nat) (d b : BitVec 5) : State :=
  let old := leNat (s.globBytes pa n)
  let new := amoNew op uns n old ((s.x b).toNat % 256 ^ n) ((s.x d).toNat % 256 ^ n)
  (s.writeGlob pa (leBytes n new)).setX d (BitVec.ofNat 64 old)

def amo (opc : BitVec 7) (op : AmoOp) (uns dbl : Bool) (d a b : BitVec 5) (s : State) : State :=
  if s.specNow then s.stallSpec
  else match atomicCheck s permCtlAtomic (s.x a) (amoBytes dbl) with
    | .error c => s.raise opc c
    | .ok pa =>
      let s := s.tlbTouch s.ctx permCtlAtomic (s.x a).toNat
      ((s.amoAt op uns (amoBytes dbl) pa d b).noteAtomic s (.glob (pa / 16)) (spanMask (pa % 16) (amoBytes dbl))).retire

def execAmoAdd (d a b : BitVec 5) (dbl : Bool) (s : State) : Out := .next (amo 0x60 .add false dbl d a b s)
def execAmoMin (d a b : BitVec 5) (dbl uns : Bool) (s : State) : Out := .next (amo 0x61 .min uns dbl d a b s)
def execAmoMax (d a b : BitVec 5) (dbl uns : Bool) (s : State) : Out := .next (amo 0x62 .max uns dbl d a b s)
def execAmoAnd (d a b : BitVec 5) (dbl : Bool) (s : State) : Out := .next (amo 0x63 .and false dbl d a b s)
def execAmoOr (d a b : BitVec 5) (dbl : Bool) (s : State) : Out := .next (amo 0x64 .or false dbl d a b s)
def execAmoXchg (d a b : BitVec 5) (dbl : Bool) (s : State) : Out := .next (amo 0x65 .xchg false dbl d a b s)
def execAmoCas (d a b : BitVec 5) (dbl : Bool) (s : State) : Out := .next (amo 0x66 .cas false dbl d a b s)

/-! ## WAITA (R308) -/

def execWaita (d a b : BitVec 5) (dbl : Bool) (s : State) : Out :=
  .next (if s.specNow then s.stallSpec
    else if s.core.monitor.isSome then s.stall
    else match atomicCheck s permCtlRead (s.x a) (amoBytes dbl) with
      | .error c => s.raise 0x5B c
      | .ok pa =>
        let s := s.tlbTouch s.ctx permCtlRead (s.x a).toNat
        let v := leNat (s.globBytes pa (amoBytes dbl))
        if v ≠ (s.x b).toNat % 256 ^ amoBytes dbl then (s.handOn.setX d (BitVec.ofNat 64 v)).retire
        else { s with core := { s.core with monitor := some (pa / 64) } }.stall)

/-- The monitor fires: the line leaves the L1, or another agent wrote it; WAITA tests again (R308). -/
def execWaitaMonitorFire (s : State) : Out := .next { s with core := { s.core with monitor := none } }

end Sys2Proof.Machine
end

