-- ==== Sys2Proof/Machine/Die.lean ====
section
/-!
DEFINITION. The slot wheel's SC words (R328, R329), PGREQ and the page service (R327), and the replacement of range entries and page
leaves (R156, R157).
-/

namespace Sys2Proof.Machine

/-! ## The wheel -/

/-- This core owns a position. -/
def State.ownsSlot (s : State) (p : Nat) : Bool := s.unit.wheel.contains (p, s.selfDie, s.selfCore)
def State.onWheel (s : State) : Bool := s.unit.wheel.any fun w => w.2 == (s.selfDie, s.selfCore)

/-- Cycles from `now` to the first owned position that begins at or after it; `fuel` positions are looked at (R328, R329). -/
def slotDelay (s : State) : Nat → Nat → Nat → Nat
  | 0, _, d => d
  | fuel + 1, pos, d => if s.ownsSlot (pos % 1024) then d else slotDelay s fuel (pos + 1) (d + 4)

def State.toSlot (s : State) : Nat :=
  let now := s.now.toNat
  slotDelay s 1024 ((now + 3) / 4) ((now + 3) / 4 * 4 - now)

/-- What an SC word accesses: bytes, permission, address; none for SCFENCE. -/
def scAccess (s : State) : Instr → Option (Nat × BitVec 8 × Word)
  | .scld _ a imm => some (8, permCtlRead, s.ea a imm)
  | .scst _ a imm => some (8, permCtlWrite, s.ea a imm)
  | .scamo _ a _ dbl _ => some (amoBytes dbl, permCtlAtomic, s.x a)
  | _ => none

def scOp : Instr → BitVec 7
  | .scld _ _ _ => 0x68
  | .scst _ _ _ => 0x69
  | .scamo _ _ _ _ _ => 0x6A
  | _ => 0x6B

/-- The checks of R307 that apply: a physical address, or none where the word makes no access. -/
def scCheck (s : State) (i : Instr) : Except Cause (Option Nat) :=
  match scAccess s i with
  | none => .ok none
  | some (n, need, ea) => (atomicCheck s need ea n).map some

/-- The access of an SC word. -/
def scEffect (i : Instr) (pa : Nat) (s : State) : State :=
  match i with
  | .scld d _ _ => s.setX d (BitVec.ofNat 64 (leNat (s.globBytes pa 8)))
  | .scst d _ _ => s.writeGlob pa (leBytes 8 (s.x d).toNat)
  | .scamo d _ b dbl op => s.amoAt (AmoOp.ofCode op) false (amoBytes dbl) pa d b
  | _ => s

/-- The operation issues, with its checks made again, and completes (R329). An SC word writes no condition bit. -/
def scIssue (i : Instr) (s : State) : State :=
  if !s.onWheel then s.raise (scOp i) .wheel
  else match scCheck s i with
    | .error c => s.raise (scOp i) c
    | .ok none => (s.nextPc 1).tick 4
    | .ok (some pa) =>
      let s := match scAccess s i with
        | some (_, need, ea) => s.tlbTouch s.ctx need ea.toNat
        | none => s
      ((scEffect i pa s).nextPc 1).tick 4

/-- An SC word up to its wait for a position; it issues at once where an owned position begins in the cycle in which the wait of FENCE.pkg ends
(R329). -/
def scWait (i : Instr) (s : State) : State :=
  if s.specNow then s.stallSpec
  else if !s.onWheel then s.raise (scOp i) .wheel
  else match scCheck s i with
    | .error c => s.raise (scOp i) c
    | .ok _ =>
      if !s.fenceReady 4 then s.stall
      else if s.toSlot = 0 then scIssue i s.fenced
      else s.fenced.waitAs (.sc i (s.now + BitVec.ofNat 64 s.toSlot))

/-- An SC word: it waits for its position cycle by cycle, and issues there (R329). -/
def scWord (i : Instr) (s : State) : State :=
  match s.core.wait with
  | .sc j at_ => if j ≠ i then scWait i s else if s.now.toNat < at_.toNat then s.waitAs (.sc i at_) else scIssue i s
  | _ => scWait i s

def execScld (d a : BitVec 5) (imm : BitVec 12) (s : State) : Out := .next (scWord (.scld d a imm) s)
def execScst (d a : BitVec 5) (imm : BitVec 12) (s : State) : Out := .next (scWord (.scst d a imm) s)
def execScamo (d a b : BitVec 5) (dbl : Bool) (op : BitVec 3) (s : State) : Out := .next (scWord (.scamo d a b dbl op) s)
def execScfence (s : State) : Out := .next (scWord .scfence s)

/-- The position for which an SC word waits begins. -/
def execScOperationIssue (s : State) : Out :=
  .next (match s.core.wait with
    | .sc i at_ => if s.now.toNat < at_.toNat then s else scIssue i s
    | _ => s)

/-! ## Demand paging (R327) -/

/-- The leaf of a page is present. -/
def State.leafPresent (s : State) (big : Bool) (va : Nat) : Bool :=
  match s.walk big va with
  | .leaf _ _ => true
  | _ => (s.tlbFind s.ctx big va).isSome

def execPgreq (a : BitVec 5) (imm : BitVec 12) (s : State) : Out :=
  let ea := s.ea a imm
  .next (if ea.extractLsb' 52 12 != 0 then s.raise 0x6C (.perm 2 ea.toNat)
    else if (s.cover s.ctx false (ea.toNat / 4096)).isSome then (s.setC 7 true).retire
    else match s.cover s.ctx true (ea.toNat / 4096) with
      | none => s.raise 0x6C (.range 0 ea.toNat)
      | some e =>
        if s.leafPresent e.pg2m ea.toNat then (s.setC 7 true).retire
        else match s.walk e.pg2m ea.toNat with
          | .ecc pa => s.raise 0x6C (.ecc pa)
          | _ => s.waitAs (.page ea))

/-- Address of the table entry that holds the leaf of `va`; none where a table on the way is missing (R157). -/
def leafSlot (m : Memory) (va : Nat) : List (Nat × Nat) → Nat → Option Nat
  | [], _ => none
  | (sh, bits) :: rest, ta =>
    let at_ := ta + 8 * (va / 2 ^ sh % 2 ^ bits)
    match rest with
    | [] => if physExists at_ then some at_ else none
    | _ =>
      let w : BitVec 64 := BitVec.ofNat 64 (leNat (m.getN at_ 8))
      if physExists at_ && w.getLsbD 0 then leafSlot m va rest ((w.extractLsb' 12 40).toNat * 4096) else none

/-- The page service reports (R327): with a leaf, it has stored it at the page's entry, and the walker reads it again; without one, it has
refused the page. -/
def execPageServiceReport (frame : Option (BitVec 64)) (s : State) : Out :=
  match s.core.wait with
  | .page va =>
    match frame with
    | none => .next (s.setC 7 false).retire
    | some w =>
      match s.cover s.ctx true (va.toNat / 4096) with
      | none => .next s
      | some e =>
        let levels := if e.pg2m then [(39, 13), (30, 9), (21, 9)] else [(39, 13), (30, 9), (21, 9), (16, 5)]
        let s := match leafSlot s.mem va.toNat levels ((s.core.sys.ptroot.extractLsb' 12 40).toNat * 4096) with
          | some a => s.writeDirect none a (leBytes 8 w.toNat)
          | none => s
        .next (if s.leafPresent e.pg2m va.toNat then (s.setC 7 true).retire else s)
  | _ => .next s

/-! ## Range entries and leaves (R156, R157) -/

/-- Harbourmaster replaces an entry of a context's range table whole. -/
def execRangeEntryReplace (ctx : BitVec 4) (idx : Nat) (e : RangeEntry) (s : State) : Out :=
  let c := s.context ctx
  .next (if h : idx < 128 then s.setContext ctx { c with ranges := c.ranges.set idx e h } else s)

/-- A leaf's cached copy is dropped. -/
def execPageInvalidate (ctx : BitVec 4) (va : BitVec 52) (s : State) : Out :=
  .next { s with tlb := s.tlb.filter fun t =>
    !(t.ctx == ctx && decide (t.vbase ≤ va.toNat) && decide (va.toNat < t.vbase + pageSize t.big)) }

end Sys2Proof.Machine
end

