-- ==== Sys2Proof/Machine/Crypto.lean ====
section
/-!
DEFINITION. SHA-384 and ECDSA verification over brainpoolP384r1 (R5, R74, R393 to R395). The manual names both and takes their algorithms from
outside: FIPS 180-4, and RFC 5639 for the curve; log entry 8.
-/

namespace Sys2Proof.Machine

/-- The bytes of a number, most significant first. -/
def beBytes (n v : Nat) : List Byte := (leBytes n v).reverse
/-- The number that bytes give, most significant first. -/
def beNat (l : List Byte) : Nat := leNat l.reverse

/-! ## SHA-384 -/

/-- The round constants: the first 64 bits of the fractional parts of the cube roots of the first 80 primes. -/
def shaK0 : List (BitVec 64) :=
  [0x428A2F98D728AE22, 0x7137449123EF65CD, 0xB5C0FBCFEC4D3B2F, 0xE9B5DBA58189DBBC,
   0x3956C25BF348B538, 0x59F111F1B605D019, 0x923F82A4AF194F9B, 0xAB1C5ED5DA6D8118,
   0xD807AA98A3030242, 0x12835B0145706FBE, 0x243185BE4EE4B28C, 0x550C7DC3D5FFB4E2,
   0x72BE5D74F27B896F, 0x80DEB1FE3B1696B1, 0x9BDC06A725C71235, 0xC19BF174CF692694]

def shaK1 : List (BitVec 64) :=
  [0xE49B69C19EF14AD2, 0xEFBE4786384F25E3, 0x0FC19DC68B8CD5B5, 0x240CA1CC77AC9C65,
   0x2DE92C6F592B0275, 0x4A7484AA6EA6E483, 0x5CB0A9DCBD41FBD4, 0x76F988DA831153B5,
   0x983E5152EE66DFAB, 0xA831C66D2DB43210, 0xB00327C898FB213F, 0xBF597FC7BEEF0EE4,
   0xC6E00BF33DA88FC2, 0xD5A79147930AA725, 0x06CA6351E003826F, 0x142929670A0E6E70]

def shaK2 : List (BitVec 64) :=
  [0x27B70A8546D22FFC, 0x2E1B21385C26C926, 0x4D2C6DFC5AC42AED, 0x53380D139D95B3DF,
   0x650A73548BAF63DE, 0x766A0ABB3C77B2A8, 0x81C2C92E47EDAEE6, 0x92722C851482353B,
   0xA2BFE8A14CF10364, 0xA81A664BBC423001, 0xC24B8B70D0F89791, 0xC76C51A30654BE30,
   0xD192E819D6EF5218, 0xD69906245565A910, 0xF40E35855771202A, 0x106AA07032BBD1B8]

def shaK3 : List (BitVec 64) :=
  [0x19A4C116B8D2D0C8, 0x1E376C085141AB53, 0x2748774CDF8EEB99, 0x34B0BCB5E19B48A8,
   0x391C0CB3C5C95A63, 0x4ED8AA4AE3418ACB, 0x5B9CCA4F7763E373, 0x682E6FF3D6B2B8A3,
   0x748F82EE5DEFB2FC, 0x78A5636F43172F60, 0x84C87814A1F0AB72, 0x8CC702081A6439EC,
   0x90BEFFFA23631E28, 0xA4506CEBDE82BDE9, 0xBEF9A3F7B2C67915, 0xC67178F2E372532B]

def shaK4 : List (BitVec 64) :=
  [0xCA273ECEEA26619C, 0xD186B8C721C0C207, 0xEADA7DD6CDE0EB1E, 0xF57D4F7FEE6ED178,
   0x06F067AA72176FBA, 0x0A637DC5A2C898A6, 0x113F9804BEF90DAE, 0x1B710B35131C471B,
   0x28DB77F523047D84, 0x32CAAB7B40C72493, 0x3C9EBE0A15C9BEBC, 0x431D67C49C100D4C,
   0x4CC5D4BECB3E42B6, 0x597F299CFC657E2A, 0x5FCB6FAB3AD6FAEC, 0x6C44198C4A475817]

def shaK : List (BitVec 64) := shaK0 ++ shaK1 ++ shaK2 ++ shaK3 ++ shaK4

/-- The eight words of a hash value. -/
structure ShaWords where
  a : BitVec 64
  b : BitVec 64
  c : BitVec 64
  d : BitVec 64
  e : BitVec 64
  f : BitVec 64
  g : BitVec 64
  h : BitVec 64
deriving DecidableEq, Repr

/-- The initial hash value of SHA-384. -/
def ShaWords.start : ShaWords :=
  ⟨0xCBBB9D5DC1059ED8, 0x629A292A367CD507, 0x9159015A3070DD17, 0x152FECD8F70E5939, 0x67332667FFC00B31, 0x8EB44A8768581511,
   0xDB0C2E0D64F98FA7, 0x47B5481DBEFA4FA4⟩

def ShaWords.plus (x y : ShaWords) : ShaWords :=
  ⟨x.a + y.a, x.b + y.b, x.c + y.c, x.d + y.d, x.e + y.e, x.f + y.f, x.g + y.g, x.h + y.h⟩

/-- One round, with its constant and its word of the schedule. -/
def ShaWords.round (x : ShaWords) (k w : BitVec 64) : ShaWords :=
  let s1 := x.e.rotateRight 14 ^^^ x.e.rotateRight 18 ^^^ x.e.rotateRight 41
  let t1 := x.h + s1 + ((x.e &&& x.f) ^^^ (~~~x.e &&& x.g)) + k + w
  let s0 := x.a.rotateRight 28 ^^^ x.a.rotateRight 34 ^^^ x.a.rotateRight 39
  ⟨t1 + s0 + ((x.a &&& x.b) ^^^ (x.a &&& x.c) ^^^ (x.b &&& x.c)), x.a, x.b, x.c, x.d + t1, x.e, x.f, x.g⟩

/-- `n` more words of the message schedule, from the last sixteen, newest first. -/
def shaSchedule : Nat → List (BitVec 64) → List (BitVec 64)
  | 0, w => w
  | n + 1, w =>
    let at_ (k : Nat) : BitVec 64 := (w[k - 1]?).getD 0
    let x := at_ 15
    let y := at_ 2
    let new := at_ 16 + (x.rotateRight 1 ^^^ x.rotateRight 8 ^^^ (x >>> 7)) + at_ 7 + (y.rotateRight 19 ^^^ y.rotateRight 61 ^^^ (y >>> 6))
    shaSchedule n (new :: w)

/-- One block of 128 bytes. -/
def ShaWords.block (x : ShaWords) (bs : List Byte) : ShaWords :=
  let first := (upTo 16).map fun i => BitVec.ofNat 64 (beNat ((bs.drop (8 * i)).take 8))
  let w := (shaSchedule 64 first.reverse).reverse
  x.plus ((shaK.zip w).foldl (fun v p => v.round p.1 p.2) x)

/-- The message with its padding: a one bit, zeros, and the length in bits as 16 bytes. -/
def shaPadded (m : List Byte) : List Byte :=
  m ++ 0x80 :: (List.replicate ((239 - m.length % 128) % 128) 0 ++ beBytes 16 (8 * m.length))

/-- SHA-384 of a byte string: 48 bytes. -/
def sha384 (m : List Byte) : List Byte :=
  let b := shaPadded m
  let x := (upTo (b.length / 128)).foldl (fun v i => v.block ((b.drop (128 * i)).take 128)) ShaWords.start
  [x.a, x.b, x.c, x.d, x.e, x.f].flatMap fun w => beBytes 8 w.toNat

/-! ## The curve (RFC 5639, 3.6) -/

def curveP : Nat := 0x8CB91E82A3386D280F5D6F7E50E641DF152F7109ED5456B412B1DA197FB71123ACD3A729901D1A71874700133107EC53
def curveA : Nat := 0x7BC382C63D8C150C3C72080ACE05AFA0C2BEA28E4FB22787139165EFBA91F90F8AA5814A503AD4EB04A8C7DD22CE2826
def curveB : Nat := 0x04A8C7DD22CE28268B39B55416F0447C2FB77DE107DCD2A62E880EA53EEB62D57CB4390295DBC9943AB78696FA504C11
def curveGx : Nat := 0x1D1C64F068CF45FFA2A63A81B7C13F6B8847A3E77EF14FE3DB7FCAFE0CBD10E8E826E03436D646AAEF87B2E247D4AF1E
def curveGy : Nat := 0x8ABE1D7520F9C2A45CB1EB8E95CFD55262B70B29FEEC5864E19C054FF99129280E4646217791811142820341263C5315
def curveQ : Nat := 0x8CB91E82A3386D280F5D6F7E50E641DF152F7109ED5456B31F166E6CAC0425A7CF3AB6AF6B7FC3103B883202E9046565

/-- A point of the curve; none is the point at infinity. -/
abbrev CurvePoint := Option (Nat × Nat)

def curveG : CurvePoint := some (curveGx, curveGy)

/-- `b` to the power `e` modulo `m`, the `fuel` lowest bits of `e` from the least significant one. -/
def powMod (m : Nat) : Nat → Nat → Nat → Nat → Nat
  | 0, _, _, acc => acc
  | fuel + 1, b, e, acc => powMod m fuel (b * b % m) (e / 2) (if e % 2 = 1 then acc * b % m else acc)

/-- The inverse modulo a prime of 384 bits. -/
def invMod (m a : Nat) : Nat := powMod m 384 (a % m) (m - 2) 1

/-- The third point of a line with slope `l` through two points, mirrored. -/
def curveChord (l x1 y1 x2 : Nat) : CurvePoint :=
  let x := (l * l + 2 * curveP - x1 - x2) % curveP
  some (x, (l * (x1 + curveP - x) + curveP - y1) % curveP)

def curveAdd : CurvePoint → CurvePoint → CurvePoint
  | none, q => q
  | p, none => p
  | some (x1, y1), some (x2, y2) =>
    if x1 ≠ x2 then curveChord ((y2 + curveP - y1) * invMod curveP (x2 + curveP - x1) % curveP) x1 y1 x2
    else if y1 = y2 ∧ y1 ≠ 0 then curveChord ((3 * x1 * x1 + curveA) * invMod curveP (2 * y1) % curveP) x1 y1 x2
    else none

/-- `k` times a point, over the `fuel` lowest bits of `k`. -/
def curveMul : Nat → Nat → CurvePoint → CurvePoint
  | 0, _, _ => none
  | fuel + 1, k, p =>
    let rest := curveMul fuel (k / 2) (curveAdd p p)
    if k % 2 = 1 then curveAdd p rest else rest

def onCurve (x y : Nat) : Bool :=
  decide (x < curveP) && decide (y < curveP) && (y * y) % curveP == (x * x * x + curveA * x + curveB) % curveP

/-! ## Signatures -/

/-- The point of an uncompressed public point (R393): the byte 04, then both coordinates, most significant byte first. -/
def publicPoint (key : List Byte) : Option (Nat × Nat) :=
  let x := beNat ((key.drop 1).take 48)
  let y := beNat (key.drop 49)
  if key.length = 97 ∧ key.head? = some 0x04 ∧ onCurve x y = true then some (x, y) else none

/-- A signature, its two integers big-endian (R74), verifies for a message under a public point. -/
def verifySig (key msg sig : List Byte) : Bool :=
  let r := beNat (sig.take 48)
  let v := beNat (sig.drop 48)
  match publicPoint key with
  | none => false
  | some p =>
    if sig.length ≠ 96 ∨ r = 0 ∨ curveQ ≤ r ∨ v = 0 ∨ curveQ ≤ v then false
    else
      let w := invMod curveQ v
      let u := curveMul 384 (beNat (sha384 msg) * w % curveQ) curveG
      match curveAdd u (curveMul 384 (r * w % curveQ) (some p)) with
      | none => false
      | some (x, _) => x % curveQ == r

/-- A private key or a nonce from a number: 1 to the order less 1. -/
def curveScalar (n : Nat) : Nat := 1 + n % (curveQ - 1)

/-- The uncompressed public point of a private key. -/
def publicKey (d : Nat) : List Byte :=
  match curveMul 384 d curveG with
  | some (x, y) => 0x04 :: (beBytes 48 x ++ beBytes 48 y)
  | none => []

/-- The ECDSA signature of a message by a private key with a nonce (R5): both integers big-endian, as R74 lays them out. A nonce that gives a zero integer
is followed by the next one. -/
def ecdsaSign (d : Nat) (msg : List Byte) : Nat → Nat → List Byte
  | 0, _ => []
  | fuel + 1, k =>
    match curveMul 384 k curveG with
    | none => ecdsaSign d msg fuel (k + 1)
    | some (x, _) =>
      let r := x % curveQ
      let v := invMod curveQ k * ((beNat (sha384 msg) + r * d) % curveQ) % curveQ
      if r = 0 ∨ v = 0 then ecdsaSign d msg fuel (k + 1) else beBytes 48 r ++ beBytes 48 v

/-- A signature by a private key, with a nonce drawn by the security root (R393): a run of nonces that all give a zero integer has no answer. -/
def signBy (d nonce : Nat) (msg : List Byte) : List Byte := ecdsaSign (curveScalar d) msg 16 (curveScalar nonce)

end Sys2Proof.Machine
end

