-- ==== Sys2Proof/Machine/Loader.lean ====
section
/-!
DEFINITION. The VXO container and the loader's checks 1 to 6 (R69 to R78, R88), and the launch header (R313). The loader reads raw words:
`rejects` says what the decoder refuses.
-/

namespace Sys2Proof.Machine

/-! ## Reading a container -/

abbrev Bytes := List Byte

def Bytes.cut (b : Bytes) (off n : Nat) : Bytes := (b.drop off).take n
def Bytes.num (b : Bytes) (off n : Nat) : Nat := leNat (b.cut off n)
def Bytes.zero (b : Bytes) (off n : Nat) : Bool := (b.cut off n).all (· == 0)
/-- `n` records of `size` bytes from an offset. -/
def Bytes.records (b : Bytes) (off size n : Nat) : List Bytes := (upTo n).map fun i => b.cut (off + size * i) size

/-- An entry of the section table (R70). -/
structure SecEntry where
  type : Nat
  kernel : Nat
  off : Nat
  size : Nat
deriving DecidableEq, Repr

def secEntry (r : Bytes) : SecEntry := ⟨r.num 0 2, r.num 2 2, r.num 8 8, r.num 16 8⟩

/-- The section table, where the header and the table are as R69 and R70 state. That a section may overlap the header or the table, which R70
does not speak of, is the model's choice: log entry 33. So is that a .sig section of another size than 128 bytes (R74) is FORMAT, also where no
signature is required: log entry 79. -/
def sections (b : Bytes) : Option (List SecEntry) :=
  let n := b.num 6 2
  let tab := b.num 0x18 8
  let recs := b.records tab 32 n
  let es := recs.map secEntry
  let kernels := b.num 0x0C 4
  let flags := b.num 8 4
  let ordered := (es.zip (es.drop 1)).all fun p => decide (p.1.off + p.1.size ≤ p.2.off)
  let one (e : SecEntry) : Bool :=
    e.off % 64 == 0 && decide (e.off + e.size ≤ b.length) && decide (1 ≤ e.type) && decide (e.type ≤ 9) &&
      (if e.type = 9 then e.kernel == 0xFFFF else decide (e.kernel < kernels))
  let sigs := (es.filter fun e => e.type == 9).length
  let ok := decide (64 ≤ b.length) && b.num 0 4 == 0x004F5856 && b.num 4 2 == 1 && decide (1 ≤ n) && decide (n ≤ 4096) &&
    decide (flags ≤ 1) && (flags == 1) == (sigs == 1) && decide (sigs ≤ 1) &&
    (sigs == 0 || es.getLast?.any fun e => e.type == 9 && e.size == 128) && decide (1 ≤ kernels) && decide (kernels ≤ 256) &&
    b.num 0x10 8 == b.length && tab % 64 == 0 && decide (tab + 32 * n ≤ b.length) && b.zero 0x20 32 &&
    recs.all (fun r => r.zero 4 4 && r.zero 24 8) && es.all one && ordered &&
    (upTo kernels).all fun k => (upTo 8).all fun t => (es.filter fun e => e.kernel == k && e.type == t + 1).length == 1
  if ok then some es else none

/-- A token entry of .sync (R72). -/
structure TokEntry where
  tok : Nat
  init : Nat
  sig : Nat
  wait : Nat
deriving DecidableEq, Repr

/-- A range request of .run (R71). -/
structure RunReq where
  base : Nat
  last : Nat
  perm : Nat
  kind : Nat
deriving DecidableEq, Repr

/-- A kernel's sections. -/
structure Kernel where
  text : List IWord
  tdt : List (BitVec 256)
  lnd : List (BitVec 1024)
  sync : List TokEntry
  run : List RunReq
  wheel : Nat
  lmax : List Nat
  labels : List Nat          -- word offsets
  dist : Nat                 -- the largest distance, which the loader writes into .safemap (R77)
  header : Bytes
  images : List (Nat × Bytes)
deriving DecidableEq, Repr

/-- The images of .launch: a scratchpad offset, a length and the bytes. -/
def imagesOf : Nat → Bytes → Option (List (Nat × Bytes))
  | 0, [] => some []
  | 0, _ :: _ => none
  | n + 1, b =>
    let len := b.num 4 4
    if b.length < 8 + len ∨ len % 16 ≠ 0 then none
    else (imagesOf n (b.drop (8 + len))).map fun l => (b.num 0 4, b.cut 8 len) :: l

/-- Images lie in the scratchpad, on granules, without overlap (R73). An image of length 0 strictly inside another overlaps it, by the model's choice: log
entry 86. -/
def imagesGood (l : List (Nat × Bytes)) : Bool :=
  l.all (fun p => p.1 % 16 == 0 && decide (p.1 + p.2.length ≤ Config.spadSize)) &&
    (upTo l.length).all fun i => (upTo i).all fun j =>
      match l[i]?, l[j]? with
      | some a, some b => decide (a.1 + a.2.length ≤ b.1) || decide (b.1 + b.2.length ≤ a.1)
      | _, _ => true

/-! ## The launch header (R313) -/

structure Header where
  entry : BitVec 64
  tsbase : BitVec 64
  args : BitVec 64
  done : BitVec 64
  doneval : BitVec 64
  budget : BitVec 32
  timeline : BitVec 4
  prio : BitVec 6
  ctx : BitVec 4
  spec : Bool
  widths : List Nat
  exts : List Nat
  bexp : List Nat
  bscope : List Nat
  runptr : BitVec 64
  tdtptr : BitVec 64
  lndptr : BitVec 64
  wheelptr : BitVec 64
  safedist : BitVec 32
deriving DecidableEq, Repr

def headerOf (b : Bytes) : Header :=
  { entry := BitVec.ofNat 64 (b.num 0 8), tsbase := BitVec.ofNat 64 (b.num 8 8), args := BitVec.ofNat 64 (b.num 0x10 8),
    done := BitVec.ofNat 64 (b.num 0x18 8), doneval := BitVec.ofNat 64 (b.num 0x20 8), budget := BitVec.ofNat 32 (b.num 0x28 4),
    timeline := BitVec.ofNat 4 (b.num 0x2C 1), prio := BitVec.ofNat 6 (b.num 0x2D 1), ctx := BitVec.ofNat 4 (b.num 0x2E 1),
    spec := b.num 0x2F 1 % 2 == 1, widths := (upTo 6).map fun k => b.num (0x30 + k) 1, exts := (upTo 6).map fun k => b.num (0x38 + 8 * k) 8,
    bexp := (upTo 16).map fun i => b.num (0x90 + 8 * i) 4, bscope := (upTo 16).map fun i => b.num (0x94 + 8 * i) 4 % 8,
    runptr := BitVec.ofNat 64 (b.num 0x68 8), tdtptr := BitVec.ofNat 64 (b.num 0x70 8), lndptr := BitVec.ofNat 64 (b.num 0x78 8),
    wheelptr := BitVec.ofNat 64 (b.num 0x80 8), safedist := BitVec.ofNat 32 (b.num 0x88 4) }

/-- Work items of a launch (R314). -/
def Header.items (h : Header) : Nat := h.exts.foldl (· * ·) 1

/-- What the loader refuses in a header. -/
def headerBad (b : Bytes) : Bool :=
  let h := headerOf b
  b.num 0x2C 1 / 16 != 0 || b.num 0x2D 1 / 64 != 0 || b.num 0x2E 1 / 16 != 0 || b.num 0x2F 1 / 2 != 0 || !b.zero 0x36 2 || !b.zero 0x8C 4 ||
    ((upTo 16).any fun i => b.num (0x94 + 8 * i) 4 / 8 != 0) || h.entry.toNat % 4 != 0 || h.done.toNat % 8 != 0 ||
    h.doneval.getLsbD 63 || h.budget == 0 || decide (64 < h.widths.foldl (· + ·) 0) ||
    ((h.widths.zip h.exts).any fun p => p.2 == 0 || decide (2 ^ p.1 < p.2)) || decide (2 ^ 40 < h.items)

/-- The fields that the runtime fills are zero in a container. -/
def runtimeZero (b : Bytes) : Bool := b.zero 0x2E 1 && b.zero 0x68 36

/-! ## Check 1: FORMAT -/

/-- The 64 descriptors of a .tdt section, the 8 nests of a .lnd section and the requests of a .run section (R71). -/
def tdtOf (b : Bytes) : List (BitVec 256) := (b.records 0 32 64).map fun r => BitVec.ofNat 256 (leNat r)
def lndOf (b : Bytes) : List (BitVec 1024) := (b.records 0 128 8).map fun r => BitVec.ofNat 1024 (leNat r)
def runOf (b : Bytes) : List RunReq := (b.records 4 32 (b.num 0 4)).map fun r => ⟨r.num 0 8, r.num 8 8, r.num 16 1, r.num 17 1⟩

/-- A kernel's sections as R71 to R73 state, or none. R150 has descriptors checked at load; that a nest image that NLD would refuse is refused here
too is the model's choice: log entry 33; so is that .safemap's offsets are not held against the SAFEPTs of .text: log entry 86. -/
def kernelOf (b : Bytes) (es : List SecEntry) (k : Nat) : Option Kernel :=
  let sec (t : Nat) : Bytes :=
    match es.find? fun e => e.kernel == k && e.type == t with
    | some e => b.cut e.off e.size
    | none => []
  let text := sec 1
  let tdt := tdtOf (sec 2)
  let lnd := lndOf (sec 3)
  let sync := sec 4
  let nsync := sync.num 0 4
  let run := sec 5
  let nrun := run.num 0 4
  let wheel := sec 6
  let safe := sec 7
  let nsafe := safe.num 68 4
  let nlab := safe.num 72 4
  let launch := sec 8
  let nnote := launch.num 272 4
  let imgAt := 276 + 8 * nnote
  let ok := text.length % 4 == 0 && (sec 2).length == 2048 && (sec 3).length == 1024 && !(tdt.any tensorDescBad) && !(lnd.any nestDescBad) &&
    decide (nsync ≤ 16) && sync.length == 4 + 8 * nsync &&
    ((sync.records 4 8 nsync).all fun r => decide (r.num 0 1 ≤ 15) && r.zero 1 1 && r.zero 6 2) &&
    decide (1 ≤ nrun) && decide (nrun ≤ 128) && run.length == 4 + 32 * nrun &&
    ((run.records 4 32 nrun).all fun r => decide (r.num 17 1 ≤ 2) && r.zero 18 14) &&
    wheel.length == 8 && decide (wheel.num 0 2 ≤ 1024) && wheel.zero 2 6 &&
    safe.length == 76 + 4 * (nsafe + nlab) && decide (imgAt + 4 ≤ launch.length) &&
    ((launch.records 276 8 nnote).all fun r => r.zero 6 2) && !headerBad (launch.take 272) && runtimeZero launch
  match imagesOf (launch.num imgAt 4) (launch.drop (imgAt + 4)) with
  | none => none
  | some images =>
    if ok && imagesGood images then
      some { text := (text.records 0 4 (text.length / 4)).map fun r => BitVec.ofNat 32 (leNat r), tdt := tdt, lnd := lnd,
             sync := (sync.records 4 8 nsync).map fun r => ⟨r.num 0 1, r.num 2 2, r.num 4 1, r.num 5 1⟩,
             run := runOf run,
             wheel := wheel.num 0 2, lmax := (upTo 16).map fun i => safe.num (4 * i) 4,
             labels := (upTo nlab).map fun i => safe.num (76 + 4 * (nsafe + i)) 4, dist := 0, header := launch.take 272, images := images }
    else none

/-- Every kernel of the container. -/
def kernelsOf (b : Bytes) : Option (List Kernel) :=
  match sections b with
  | none => none
  | some es => (upTo (b.num 0x0C 4)).mapM fun k => kernelOf b es k

/-! ## Check 2: SIGNATURE (R74) -/

/-- The container's signature verifies under an enrolled key: the identifier is the first 8 bytes of the key's digest (R393). -/
def signatureGood (keys : List (Nat × List Byte)) (b : Bytes) : Bool :=
  match sections b with
  | none => false
  | some es =>
    match es.find? fun e => e.type == 9 with
    | none => false
    | some e =>
      let sig := b.cut e.off 128
      sig.zero 104 24 && keys.any fun k =>
        (sha384 k.2).take 8 == sig.take 8 && verifySig k.2 (b.take e.off) (sig.cut 8 96)

/-! ## Check 3: DECODE (R53, R75, R88) -/

/-- A word of .text as the linear decode finds it: its byte offset, its words, and the base command of an engine word. -/
structure LWord where
  pc : Nat
  words : Nat
  eng : Nat
  op : Nat
  w : IWord
  cmd : Option Instr
deriving DecidableEq, Repr

/-- The base command of an engine's long form whose cost its images give (R41). -/
def longBase (ts : Nat) (w : IWord) : Option Instr :=
  match ts with
  | 0x31 => some (.cpinN (fD1 w) (fD2 w) (fN w) (fS w) (fQ w))
  | 0x32 => some (.cpfillW (fD1 w) (fN w) (fS w))
  | 0x33 => some (.cpfillN (fD1 w) (fN w) (fS w))
  | 0x41 => some (.cpoutN (fD1 w) (fD2 w) (fN w) (fS w))
  | 0x51 => some (.note (fD1 w) (fD2 w) (fS w))
  | 0x62 => some (.kvtrim (fD1 w))
  | _ => none

/-- A decoded word; `op` is the OP of a control word, and 0x80 stands for a CTL long form. -/
def lword (pc : Nat) (w w2 : IWord) : LWord :=
  if fEng w = 7 then
    let x := fSub w = 0 ∧ 2 ≤ (fTgt w).toNat
    let cmd := if x then (decodeEngine (fTgt w).toNat (w2.extractLsb' 25 7).toNat (xBaseWord w w2)).map (·.1)
      else longBase (16 * (fTgt w).toNat + (fSub w).toNat) w
    ⟨pc, 2, (fTgt w).toNat, 0x80, w, cmd⟩
  else ⟨pc, 1, (fEng w).toNat, (fOp w).toNat, w, (decodeEngine (fEng w).toNat (fOp w).toNat w).map (·.1)⟩

def LWord.transfer (d : LWord) : Bool := d.eng == 0 && (d.op == 0x26 || d.op == 0x27 || d.op == 0x28)
def LWord.safept (d : LWord) : Bool := d.eng == 0 && d.op == 0x49
def LWord.eret (d : LWord) : Bool := d.eng == 0 && d.op == 0x4C
/-- SAFEPT, HALT, TEND and TYIELD end a distance, and ERET ends a path (R77). -/
def LWord.ends (d : LWord) : Bool := d.safept || d.eret || (d.eng == 0 && (d.op == 0x4D || d.op == 0x71 || d.op == 0x72))
/-- The words of R88. -/
def LWord.outside (d : LWord) : Bool := d.transfer || d.ends || (d.eng == 0 && d.op == 0x4B)

/-- Control words of a delay region left after a word (R87). -/
def LWord.left (d : LWord) (left : Nat) : Nat := if d.transfer then 2 else if d.eng = 0 then left - 1 else left

/-- The linear decode from the entry; none where a word is rejected, lies in a region that R88 closes to it, or is half a pair. -/
def linear : List IWord → Nat → Nat → Option (List LWord)
  | [], _, _ => some []
  | w :: rest, pc, left =>
    if fEng w = 7 then
      match rest with
      | [] => none
      | w2 :: rest' =>
        let d := lword pc w w2
        if (rejects w w2).isSome || (left != 0 && d.outside) then none
        else (linear rest' (pc + 8) (d.left left)).map (d :: ·)
    else
      let d := lword pc w 0
      if (rejects w 0).isSome || (left != 0 && d.outside) then none
      else (linear rest (pc + 4) (d.left left)).map (d :: ·)

/-! ## Check 4: TOKENS (R76) -/

/-- The token that a word signals or waits on. -/
def LWord.signals (d : LWord) : Option Nat :=
  if d.eng = 0 then (if d.op = 0x43 then some (fS d.w).toNat else none)
  else match d.cmd.bind tokenWord with | some (.signal t) => some t.toNat | _ => none
def LWord.waits (d : LWord) : Option Nat :=
  if d.eng = 0 then (if d.op = 0x44 then some (fS d.w).toNat else none)
  else match d.cmd.bind tokenWord with | some (.wait t) => some t.toNat | _ => none

/-- A token's entry: the first that names it, whose count `State.setupCore` takes too (log entry 33). -/
def tokEntry (sync : List TokEntry) (t : Nat) : Option TokEntry := sync.find? fun e => e.tok == t

/-- A token's initial count. -/
def tokInit (sync : List TokEntry) (t : Nat) : Nat := ((tokEntry sync t).map (·.init)).getD 0

def tokensGood (sync : List TokEntry) (ws : List LWord) : Bool :=
  ws.all fun d =>
    (match d.signals with | some t => (tokEntry sync t).any (fun e => e.sig.testBit d.eng) | none => true) &&
    match d.waits with
    | some t => (tokEntry sync t).any (fun e => e.wait.testBit d.eng) && (tokInit sync t != 0 || ws.any fun o => o.signals == some t)
    | none => true

/-! ## Check 5: SAFEDIST (R77) -/

/-- What the analysis knows of a branch register. -/
inductive BVal where
  | unknown                  -- no word on the path has written it
  | any                      -- BTGT.x wrote it
  | at_ (pc : Nat)
deriving DecidableEq, Repr

/-- A point of the control flow: the program counter, the branch registers, and the delay region in progress with its target: none for a
transfer that is not taken, `some none` for a target that ends the distance. -/
structure LPos where
  pc : Nat
  b : Vector BVal 4
  left : Nat
  target : Option (Option Nat)
deriving DecidableEq, Repr

/-- The word at an offset of .text; none past its end. -/
def wordAt (text : List IWord) (pc : Nat) : Option LWord :=
  match text[pc / 4]? with
  | none => none
  | some w =>
    if fEng w = 7 then (text[pc / 4 + 1]?).map fun w2 => lword pc w w2 else some (lword pc w 0)

/-- The splitter rejects the word at an offset, so a path ends there. -/
def illAt (text : List IWord) (pc : Nat) : Bool :=
  match text[pc / 4]? with
  | none => false
  | some w => (rejects w ((text[pc / 4 + 1]?).getD 0)).isSome

/-- The offset after a BRL's delay region (R90). -/
def afterLink (text : List IWord) : Nat → Nat → Nat → Nat
  | 0, _, pc => pc
  | fuel + 1, left, pc =>
    match wordAt text pc with
    | none => pc
    | some d =>
      let next := pc + 4 * d.words
      if d.eng = 0 then (if left ≤ 1 then next else afterLink text fuel (left - 1) next) else afterLink text fuel left next

/-- The points that a transfer leads to, each at the start of its delay region. A register that no word on the path has written reaches the
entry points, each of which starts a distance of its own, so this one ends there: log entry 33. A target that BTGT puts outside .text leaves it, and
is refused as a path that runs past its last word. -/
def transferSucc (text : List IWord) (labels : List Nat) (p : LPos) (d : LWord) : List LPos :=
  let v := p.b[(fBr d.w).toNat]'(by omega)
  let c0 := (fOff d.w).extractLsb' 17 3 == 0
  let sense := (fOff d.w).getLsbD 16
  let taken := d.op != 0x26 || !c0 || !sense
  let notTaken := d.op == 0x26 && (!c0 || sense)
  let b := if d.op = 0x28 then p.b.set ((fOff d.w).extractLsb' 18 2).toNat (.at_ (afterLink text text.length 2 (p.pc + 4))) (by omega) else p.b
  let into (t : Option Nat) : LPos := ⟨p.pc + 4, b, 2, some t⟩
  let targets : List LPos := match v with
    | .unknown => [into none]
    | .any => labels.map fun l => into (some (4 * l))
    | .at_ t => if t % 4 ≠ 0 then [] else [into (some t)]
  (if taken then targets else []) ++ (if notTaken then [⟨p.pc + 4, b, 2, none⟩] else [])

/-- The points that follow a point (R77, R87). -/
def succOf (text : List IWord) (labels : List Nat) (p : LPos) : List LPos :=
  match wordAt text p.pc with
  | none => []
  | some d =>
    let next := p.pc + 4 * d.words
    let off := ((fOff d.w).signExtend 64 <<< 2)
    let b : Vector BVal 4 :=
      if d.eng = 0 ∧ d.op = 0x24 then p.b.set (fBr d.w).toNat (.at_ (BitVec.ofNat 64 p.pc + off).toNat) (by omega)
      else if d.eng = 0 ∧ d.op = 0x25 then p.b.set ((fD d.w).extractLsb' 0 2).toNat .any (by omega)
      else p.b
    if d.transfer then transferSucc text labels p d
    else if p.left = 0 ∨ d.eng ≠ 0 then [⟨next, b, p.left, p.target⟩]
    else if p.left ≠ 1 then [⟨next, b, p.left - 1, p.target⟩]
    else match p.target with
      | none => [⟨next, b, 0, none⟩]
      | some none => []
      | some (some t) => [⟨t, b, 0, none⟩]

/-- The most words that a path from a point fetches up to the word that ends its distance, `fuel` words being looked at; none where a path runs
past the last word of .text, or does not end in that many. A word that the splitter rejects ends a distance too, by the model's choice: log entry 86. -/
def farthest (text : List IWord) (labels : List Nat) : Nat → LPos → Option Nat
  | 0, _ => none
  | fuel + 1, p =>
    match wordAt text p.pc with
    | none => none
    | some d =>
      if d.ends || illAt text p.pc then some d.words
      else
        ((succOf text labels p).foldl (init := some 0) fun best q =>
          match best, farthest text labels fuel q with
          | some a, some b => some (max a b)
          | _, _ => none).map (· + d.words)

/-- Every point that can be reached, SAFEPTs passed. -/
def reachAll (text : List IWord) (labels : List Nat) : Nat → List LPos → List LPos → List LPos
  | 0, _, seen => seen
  | _, [], seen => seen
  | fuel + 1, p :: todo, seen =>
    if seen.contains p then reachAll text labels fuel todo seen
    else
      let stop := match wordAt text p.pc with
        | some d => (d.ends && !d.safept) || illAt text p.pc
        | none => true
      reachAll text labels fuel (if stop then todo else succOf text labels p ++ todo) (p :: seen)

/-- The greatest distance (R77). -/
def maxDistance : Nat := 65536

/-- The greatest of some distances; none where one of them has no end. -/
def greatest : List (Option Nat) → Option Nat
  | [] => some 0
  | none :: _ => none
  | some a :: l => (greatest l).map (max a)

/-- The largest distance from a safe point, the kernel entry or an entry point (R77); none where one exceeds the bound, or has no end because a
cycle of the control flow, or of calls, holds no SAFEPT. A label of .safemap at or past the end of .text starts a path that has run past the last
word, and refuses the kernel: log entry 79. -/
def largestDistance (k : Kernel) : Option Nat :=
  let n := k.text.length + 2
  let start (pc : Nat) : LPos := ⟨pc, Vector.replicate 4 .unknown, 0, none⟩
  let starts := start 0 :: k.labels.map fun l => start (4 * l)
  let far (p : LPos) : Option Nat := farthest k.text k.labels (maxDistance + 1) p
  let all := reachAll k.text k.labels (64 * n ^ 7) starts []
  let after := (all.filter fun p => (wordAt k.text p.pc).any LWord.safept).flatMap (succOf k.text k.labels)
  match greatest ((starts ++ after).map far) with
  | some d => if d ≤ maxDistance then some d else none
  | none => none

def safeDistance (k : Kernel) : Bool := (largestDistance k).isSome

/-! ## Check 6: CMDBOUND (R78) -/

/-- Bytes of `n` elements of a tensor. -/
def plainBytes (d : TDesc) (n : Nat) : Nat := if isPlane (descFmt d) then blocksOf n * 4 * planes d else n * fmtSize (descFmt d)

/-- Bytes that a copy's iteration of `n` elements moves on the side of a descriptor, with the headers or affine pairs of its blocks (R213, R214, R225);
`packed`: a packed .n32 row of a conversion, whose blocks have headers too (R203). -/
def rowBytes (d : TDesc) (n : Nat) (packed : Bool) : Nat :=
  if hasHeader d || packed then
    (if isPlane (descFmt d) then plainBytes d n else 32 * blocksOf n * fmtSize (descFmt d)) + 2 * blocksOf n
  else plainBytes d n

/-- The larger side of a conversion, whose iterations move the elements of a row of D1 on both sides (R213, R225). -/
def convertBytes (d1 d2 : TDesc) : Nat :=
  let n := descExt d1 0 + 1
  max (rowBytes d1 n (descFmt d1 == 5 && isPB (descFmt d2))) (rowBytes d2 n (descFmt d2 == 5 && isPB (descFmt d1)))

/-- The models of a context that are in use. -/
def Context.liveModels (c : Context) : List KvModel := c.models.toList.filter (·.valid)

/-- The greatest value of a figure over them. -/
def Context.most (c : Context) (f : KvModel → Nat) : Nat := c.liveModels.foldl (fun n m => max n (f m)) 0

/-- Cost of a flush in a context (R378). -/
def Context.flushCost (c : Context) : Nat := 128 + (6 * c.most KvModel.elems + 63) / 64

/-- Cost of a command without a nest: the figures of R252 and R378, with G, n and the lists from the launch images, E and ssize from the context's
models, and the frames of its pool for what R378 leaves to the run (log entry 33). One flush is charged to a KVAPPEND,
KVFILL or KVEXIT, and the whole scratchpad's granules to RELS, which names no block: log entry 79. Every other such command costs a few cycles (R191, R211, R225). -/
def commandCost (c : Context) (tdt : List (BitVec 256)) (i : Instr) : Nat :=
  let im (d : BitVec 6) : TDesc := (tdt[d.toNat]?).getD 0
  let noteCost (d1 : BitVec 6) (n : Nat) : Nat := 4 + (denseLen (im d1) / 16 + 63) / 64 + n
  let e := c.most KvModel.elems
  let put : Nat := 8 + (4 * e + 63) / 64 + (2 * e + 63) / 64 + c.flushCost
  match i with
  | .note d1 d2 _ => noteCost d1 (descExt (im d2) 0 + 1)
  | .noteG d1 _ _ => noteCost d1 63
  | .rels => 2 + 262144 / 64
  | .relsTag => 2 * 256
  | .unlandAll => 2 * 64
  | .declAll => 2 * 256
  | .kvappend _ _ => put
  | .kvfill _ _ => put
  | .kvexit _ => 16 + c.most (fun m => (16 * m.ssize.toNat + 63) / 64) + 4 * (c.most KvModel.layers - 1) + c.flushCost
  | .kvflush => c.most KvModel.layers * c.flushCost
  | .kvnew _ => 32 + 4
  | .kvfork _ => 32 + 4 * c.kvrec.frames.toNat
  | .kvfree => 32 + 4 * c.kvrec.frames.toNat
  | .kvtrim d => 32 * trimCount (im d) + 4 * c.kvrec.frames.toNat
  | .kvowed d => 8 + (8 * denseLen (im d) + 63) / 64
  | _ => 64

/-- Cost of an iteration, from the launch images of the descriptors (R200, R211, R225): CPWB, CPINV, CPPRE and CPFILL move no headers and no affine
pairs. -/
def iterCost (tdt : List (BitVec 256)) (i : Instr) : Nat :=
  let ds := (descs 0 i).map fun k => (tdt[k.toNat]?).getD 0
  let d1 := (ds[0]?).getD 0
  let d2 := (ds[1]?).getD 0
  let copy (b : Nat) : Nat := 4 + (b + 63) / 64
  match i with
  | .mmaS8 _ _ _ _ _ => planes d2 + 8
  | .mmaN8 _ _ _ _ _ => planes d2 + 8
  | .mmaBfx8 _ _ _ _ _ => planes d2 + 8
  | .mmaS16 _ _ _ _ _ => 2 * planes d2 + 8
  | .mmaN16 _ _ _ _ _ => 2 * planes d2 + 8
  | .mmaBfx16 _ _ _ _ _ => 2 * planes d2 + 8
  | .mmaZS8 _ _ _ _ _ => planes d2 + 9
  | .mmaZN8 _ _ _ _ _ => planes d2 + 9
  | .mmaZS16 _ _ _ _ _ => 2 * (planes d2 + 1) + 8
  | .mmaZN16 _ _ _ _ _ => 2 * (planes d2 + 1) + 8
  | .mgoS8 _ _ _ _ _ => planes d2 + 8
  | .mgoN8 _ _ _ _ _ => planes d2 + 8
  | .mgoBfx8 _ _ _ _ _ => planes d2 + 8
  | .mgoS16 _ _ _ _ _ => 2 * planes d2 + 8
  | .mgoN16 _ _ _ _ _ => 2 * planes d2 + 8
  | .mgoBfx16 _ _ _ _ _ => 2 * planes d2 + 8
  | .mpackPi _ _ _ _ => 4
  | .mpackPb _ _ _ _ => 4
  | .msta _ _ _ => 16
  | .mlda _ _ _ => 16
  | .mrdF32 _ _ _ _ => 32
  | .mrdBf16 _ _ _ _ => 32
  | .mrdBfx8 _ _ _ _ => 32
  | .mrdS8 _ _ _ _ => 32
  | .mrdN8 _ _ _ _ => 32
  | .mrdS32 _ _ _ _ => 32
  | .cpplaneW _ _ _ _ _ => copy (convertBytes d1 d2)
  | .cpplaneN _ _ _ _ _ => copy (convertBytes d1 d2)
  | .cpplaneWNt _ _ _ _ _ => copy (convertBytes d1 d2)
  | .cpplaneNNt _ _ _ _ _ => copy (convertBytes d1 d2)
  | .cpdeplW _ _ _ _ => copy (convertBytes d1 d2)
  | .cpdeplC _ _ _ _ => copy (convertBytes d1 d2)
  | .cpdeplN _ _ _ _ => copy (convertBytes d1 d2)
  | .cpwb _ _ _ => copy (plainBytes d1 (descExt d1 0 + 1))
  | .cpinv _ _ _ => copy (plainBytes d1 (descExt d1 0 + 1))
  | .cppre _ _ => copy (plainBytes d1 (descExt d1 0 + 1))
  | .cpfillW _ _ _ => copy (plainBytes d1 (descExt d1 0 + 1))
  | .cpfillN _ _ _ => copy (plainBytes d1 (descExt d1 0 + 1))
  | .cpfillWL _ _ _ _ => copy (plainBytes d1 (descExt d1 0 + 1))
  | .cpfillNL _ _ _ _ => copy (plainBytes d1 (descExt d1 0 + 1))
  | _ => copy (rowBytes d1 (descExt d1 0 + 1) false)

/-- The level bounds of a command, with the declared maxima; none where a loop register has none. -/
def levelBounds (k : Kernel) (i : Instr) : Option (List Nat) :=
  match nest i with
  | none => some []
  | some n =>
    let im := (k.lnd[n.toNat]?).getD 0
    (upTo (nestLevels im)).mapM fun l =>
      let b := nestBound im l
      if b.getLsbD 31 then
        let m := (k.lmax[(b.extractLsb' 0 4).toNat]?).getD 0
        if m = 0 then none else some m
      else some (b.extractLsb' 0 17).toNat

/-- The most cycles that the loader lets a command take. -/
def commandLimit : Nat := 2 ^ 20

/-- The bound of every engine command: its nest's level bounds times the cost of an iteration, or the cost of a command without a nest. -/
def cmdBounded (c : Context) (k : Kernel) (ws : List LWord) : Bool :=
  ws.all fun d =>
    match d.cmd with
    | none => true
    | some i =>
      match levelBounds k i with
      | none => false
      | some [] => decide (commandCost c k.tdt i ≤ commandLimit) && decide (iterCost k.tdt i ≤ commandLimit)
      | some bs => decide (iterCost k.tdt i * bs.foldl (· * ·) 1 ≤ commandLimit)

/-! ## The checks in order -/

/-- The codes of R75. -/
inductive LoadCode where
  | format | signature | decode | tokens | safedist | cmdbound | resource
deriving DecidableEq, Repr

def LoadCode.code : LoadCode → BitVec 8
  | .format => 1 | .signature => 2 | .decode => 3 | .tokens => 4 | .safedist => 5 | .cmdbound => 6 | .resource => 7

/-- Checks 1 to 6, with the keys enrolled and the context that launches: the kernel to launch, or the first failure's code. Three points that the
manual leaves open are settled here (log entry 33): the supervisor's signature policy comes with the launch (`needSig`), a kernel index that the
container does not hold is FORMAT, and it is found after the checks. -/
def loaderChecks (keys : List (Nat × List Byte)) (c : Context) (a : LaunchArgs) : Except LoadCode Kernel :=
  match kernelsOf a.container with
  | none => .error .format
  | some ks =>
    if a.needSig && !signatureGood keys a.container then .error .signature
    else
      let ws := ks.map fun k => linear k.text 0 0
      if ws.any (·.isNone) then .error .decode
      else
        let kw := ks.zip (ws.map fun w => w.getD [])
        if !kw.all (fun p => tokensGood p.1.sync p.2) then .error .tokens
        else if !ks.all safeDistance then .error .safedist
        else if !kw.all (fun p => cmdBounded c p.1 p.2) then .error .cmdbound
        else match ks[a.kernel]? with
          | some k => .ok { k with dist := (largestDistance k).getD 0 }
          | none => .error .format

end Sys2Proof.Machine
end

