-- ==== Sys2Proof/Machine/Tasks.lean ====
section
/-!
DEFINITION. The task words: TSPAWN, TEND, TYIELD, TABORT, TBUDGET, TSTAT and TFRONT (R332, R333, R344, R348, R351, R352).
-/

namespace Sys2Proof.Machine

/-! ## Creating a task -/

/-- A reserved field of a task descriptor is nonzero, or its budget is 0 (R332, R352). -/
def taskDescBad (d : BitVec 512) : Bool :=
  d.getLsbD 295 || d.extractLsb' 300 4 != 0 || d.extractLsb' 310 2 != 0 || d.extractLsb' 384 128 != 0 || d.extractLsb' 256 32 == 0

/-- The child that a descriptor describes, of parent `p` (R332, R352). -/
def childOf (d : BitVec 512) (p : Task) (dep : Bool) : Task :=
  { p with
    entry := d.extractLsb' 0 64, args := d.extractLsb' 64 64, ts := d.extractLsb' 128 64, wid := d.extractLsb' 192 64,
    budget := d.extractLsb' 256 32, prio := d.extractLsb' 288 6, spec := d.getLsbD 294, timeline := d.extractLsb' 296 4,
    pmask := d.extractLsb' 304 6 &&& p.mask, frame := d.extractLsb' 312 8, parent := p.num, dep := dep }

/-- TSPAWN after its descriptor has been read. -/
def spawn (d : BitVec 5) (desc : BitVec 512) (s : State) : State :=
  let entry := desc.extractLsb' 0 64
  if taskDescBad desc then s.raise 0x70 .desc
  else if entry.extractLsb' 0 2 != 0 then s.raise 0x70 (.align entry)
  else match s.runTask with
    | none => s.raise 0x70 .arg
    | some p =>
      let t := childOf desc p s.specNow
      if t.timeline != p.timeline || !keyLt p.ts p.wid t.ts t.wid then s.raise 0x70 .arg
      else if taskLimit ≤ s.tasksOn ((s.bindingDie t).getD p.die) then s.raise 0x70 .tasklimit
      else
        let (s, n) := s.addTask t p.die
        ((s.raiseGroup t.launch 1).setX d n).retire

def execTspawn (d a : BitVec 5) (s : State) : Out :=
  let ea := s.x a
  .next (if ea.extractLsb' 0 6 != 0 then s.raise 0x70 (.align ea)
    else match scalarLoad s true ea 64 with
      | .trap c => s.raise 0x70 c
      | .wait => s.stallSpec
      | .absent => s.stallShut
      | .ok (bs, s') => spawn d (BitVec.ofNat 512 (leNat bs)) s')

/-! ## Ending -/

/-- TEND: it waits for the task to become non-speculative and for its queues, then the task commits (R348). -/
def execTend (s : State) : Out :=
  .next (outsideRegion 0x71 s fun s =>
    if s.specNow then s.markEnded.stallSpec
    else if !s.allDrained then s.markEnded.stallShut
    else (s.endTask .idle).tick 1)

/-- TYIELD: in a speculative task an abort, without waiting; else the task returns to ready once its queues have drained. -/
def execTyield (s : State) : Out :=
  .next (outsideRegion 0x72 s fun s =>
    if s.specNow then (match s.runTask with | some t => s.abort t.num | none => s).tick 1
    else if !s.allDrained then s.markEnded.stallShut
    else s.yieldTask.tick 1)

/-! ## Aborting and looking -/

/-- The task that a number names to the running context: its own for 0. -/
def State.namedTask (s : State) (n : Word) : Option Task :=
  if n = 0 then s.runTask
  else match s.task n with
    | some t => if t.ctx = s.ctx then some t else none
    | none => none

def execTabort (a : BitVec 5) (s : State) : Out :=
  let n := s.x a
  let own := n == 0 || s.runTask.any fun t => t.num == n
  .next (if own then
      (if s.specNow then (match s.runTask with | some t => s.abort t.num | none => s).tick 1
       else if n = 0 then s.raise 0x73 .arg
       else s.retire)
    else if s.specNow then s.stallSpec
    else match s.namedTask n with
      | some t => (if s.taskNonspec t then s else s.abort n).retire
      | none => s.retire)

def execTbudget (d a : BitVec 5) (s : State) : Out :=
  let b := min (s.core.sys.budget.toNat + (s.x a).toNat) (2 ^ 32 - 1)
  .next (((s.setSys fun r => { r with budget := BitVec.ofNat 32 b }).setX d (BitVec.ofNat 64 b)).retire)

/-- state of TSTAT. -/
def TaskState.code : TaskState → BitVec 3
  | .ready => 1 | .running => 2 | .parked => 3 | .ended => 4

/-- The status that TSTAT gives (R352). -/
def State.taskStatus (s : State) (t : Task) : Word :=
  let core : BitVec 6 := if t.state = .ready then 0 else BitVec.ofNat 6 t.core
  (0#24 ++ BitVec.ofNat 2 t.die ++ core ++ t.aborts ++ 0#2 ++ (if t.state = .parked then t.trap else 0#8) ++ BitVec.ofBool t.dep ++
    BitVec.ofBool t.spec ++ BitVec.ofBool (!s.taskNonspec t) ++ t.state.code : BitVec 64)

def execTstat (d a : BitVec 5) (s : State) : Out :=
  .next (s.retireX d (match s.namedTask (s.x a) with | some t => s.taskStatus t | none => 0))

/-- TFRONT reads the frontier of a timeline of the running context; another timeline is PERM, whose field holds no address (log entry 10). -/
def tfront (d : BitVec 5) (t : BitVec 4) (f : BitVec 64 × BitVec 64 → BitVec 64) (s : State) : State :=
  if (s.context s.ctx).timelines.getLsbD t.toNat then s.retireX d (f (s.frontierOf t))
  else s.raise 0x76 ⟨0x05, 0, Config.noAddress s.freeNo⟩

def execTfrontTs (d : BitVec 5) (t : BitVec 4) (s : State) : Out := .next (tfront d t (·.1) s)
def execTfrontWid (d : BitVec 5) (t : BitVec 4) (s : State) : Out := .next (tfront d t (·.2) s)

end Sys2Proof.Machine
end

