-- ==== Sys2Proof/Machine/Launch.lean ====
section
/-!
DEFINITION. Doorbells and launches (R73, R75, R313 to R315, R328, R389), placement and dispatch (R316 to R321, R333, R334, R337), and how a
launch and a context end (R322, R323, R311, R421).
-/

namespace Sys2Proof.Machine

/-! ## Doorbells (R389) -/

/-- Sets a bit of a context's status word. -/
def Context.setStatus (c : Context) (n : Nat) : Context := { c with status := setBit c.status n true }

/-- The context whose doorbell lies at an offset of BAR0: the physical function holds all sixteen, a virtual function its own context's (R387, R389). -/
def doorbellOf (vf : Option (BitVec 4)) (off : Nat) : Option (BitVec 4) :=
  match vf with
  | none => if off % 0x1000 = 0 ∧ off / 0x1000 < 16 then some (BitVec.ofNat 4 (off / 0x1000)) else none
  | some c => if off = 0 then some c else none

def ringDoorbell (ctx : BitVec 4) (addr : BitVec 64) (s : State) : State :=
  let c := s.context ctx
  s.setContext ctx
    (if addr.extractLsb' 0 4 != 0 then c.setStatus 0
     else if 64 ≤ c.doorbell.length then c.setStatus 1
     else { c with doorbell := c.doorbell ++ [addr] })

/-- An 8-byte write of the host to BAR0 of a function; away from the doorbells it has no meaning in the model. -/
def execDoorbell (at_ : Bar0At) (addr : BitVec 64) (s : State) : Out :=
  .next (match doorbellOf at_.vf at_.off with
    | some ctx => ringDoorbell ctx addr s
    | none => s)

/-! ## What a launch asks for -/

/-- The identifier of a work item: items count up with field 0 the fastest (R314). -/
def itemWid : List Nat → List Nat → Nat → Nat
  | w :: ws, e :: es, i => i % e + 2 ^ w * itemWid ws es (i / e)
  | _, _, _ => 0

/-- A record covers a key of a timeline and context. -/
def recordCovers (r : BindRecord) (tl ctx : BitVec 4) (wid : Nat) : Bool :=
  r.valid && r.timeline == tl && r.ctx == ctx && decide (r.widlo.toNat ≤ wid) && decide (wid ≤ r.widhi.toNat)

/-- The valid records of every die, with those that a launch adds. -/
def State.bindsWith (s : State) (new : List (Nat × Nat × BindRecord)) : List (Nat × BindRecord) :=
  (new.map fun b => (b.1, b.2.2)) ++ (upTo 4).flatMap fun d => ((s.die d).binds.toList.filter (·.valid)).map fun r => (d, r)

/-- Records of one timeline on different dies do not overlap (R318). -/
def disjointDies (l : List (Nat × BindRecord)) : Bool :=
  l.all fun a => l.all fun b =>
    a.1 == b.1 || a.2.timeline != b.2.timeline || decide (a.2.widhi.toNat < b.2.widlo.toNat) || decide (b.2.widhi.toNat < a.2.widlo.toNat)

/-- The cores that bind records name, by die and then by number. -/
def namedCores (bs : List (Nat × Nat × BindRecord)) : List (Nat × Nat) :=
  (upTo 4).flatMap fun d => ((upTo 64).filter fun c => bs.any fun b => b.1 == d && b.2.2.mask.getLsbD c).map fun c => (d, c)

/-- Whether the core's quay has nothing left (R315, R323). Other cores' quays are not in the model. -/
def State.quayEmpty (s : State) : Bool :=
  s.quay.moor.toList.all (fun m => !m.valid) && s.quay.land.toList.all fun l => l.state == .free

/-- A new record overlaps a record of its timeline on another die, which R318 excludes: the launch waits. -/
def State.recordsClash (s : State) (new : List (Nat × Nat × BindRecord)) : Bool := !disjointDies (s.bindsWith new)

/-- A core may be named in a launch's records (R315, R392, R397). -/
def State.coreAvailable (s : State) (p : Nat × Nat) : Bool :=
  !s.boundRunning p.1 p.2 && !s.barred p.1 p.2 && (p != (s.selfDie, s.selfCore) || s.quayEmpty)

/-- A range entry answers a request of .run (R71, R155). -/
def answers (q : RunReq) (e : RangeEntry) : Bool :=
  e.valid && q.base % 4096 == 0 && (q.last + 1) % 4096 == 0 && decide (q.base ≤ q.last) && decide (q.last < 2 ^ 52) &&
    e.vbase.toNat == q.base / 4096 && e.vlast.toNat == q.last / 4096 && e.perm.toNat == q.perm && e.demand == decide (1 ≤ q.kind) &&
    e.pg2m == decide (q.kind = 2)

/-- Check 7: RESOURCE (R75, R315, R318, R328, R335), on the .run and .wheel sections as they are loaded (R313). No rule says how much budget a context
is given, so the event tells: log entry 69. Dies whose management core has failed place nothing (R397). -/
def State.resources (s : State) (h : Header) (a : LaunchArgs) : Bool :=
  let c := s.context h.ctx
  let cores := namedCores a.binds
  let new := a.binds.map fun b => (b.1, b.2.2)
  let all := (s.bindsWith a.binds).filter fun b => !(s.die b.1).mgmtFailed
  let run := runOf (s.mem.getN h.runptr.toNat 4100)
  let wheel := leNat (s.mem.getN h.wheelptr.toNat 2)
  let others := (upTo 16).any fun i => i != h.ctx.toNat && (s.context (BitVec.ofNat 4 i)).timelines.getLsbD h.timeline.toNat
  a.ranges.length == run.length && (run.zip a.ranges).all (fun p => answers p.1 p.2) &&
    decide (a.ranges.length ≤ (c.ranges.toList.filter fun e => !e.valid).length) &&
    decide (s.unit.wheel.length + wheel * cores.length ≤ 1024) && !others && !a.budgetShort &&
    a.binds.all (fun b => decide (b.1 < 4) && decide (b.2.1 < 64) && b.2.2.valid && b.2.2.timeline == h.timeline && b.2.2.ctx == h.ctx &&
      !(s.die b.1).mgmtFailed) &&
    disjointDies new &&
    (List.range h.items).all fun i => all.any fun r => recordCovers r.2 h.timeline h.ctx (itemWid h.widths h.exts i)

/-! ## The wheel assignment (R328) -/

/-- The first free position from `p` on, wrapping. -/
def freeFrom (taken : List Nat) : Nat → Nat → Nat
  | 0, p => p % 1024
  | fuel + 1, p => if taken.contains (p % 1024) then freeFrom taken fuel (p + 1) else p % 1024

/-- The positions of a core, added to those taken. -/
def corePositions (taken : List Nat) (k : Nat) : List Nat :=
  let b := freeFrom taken 1024 0
  (upTo k).foldl (init := []) fun mine i => mine ++ [freeFrom (taken ++ mine) 1024 ((b + 1024 * i / k) % 1024)]

def insertPos (p : Nat × Nat × Nat) : List (Nat × Nat × Nat) → List (Nat × Nat × Nat)
  | [] => [p]
  | q :: qs => if p.1 < q.1 then p :: q :: qs else q :: insertPos p qs

/-- The wheel table with `k` positions for each core. -/
def assignWheel (wheel : List (Nat × Nat × Nat)) (k : Nat) (cores : List (Nat × Nat)) : List (Nat × Nat × Nat) :=
  cores.foldl (init := wheel) fun w c =>
    (corePositions (w.map (·.1)) k).foldl (init := w) fun w p => insertPos (p, c.1, c.2) w

/-! ## Setting up the cores (R19, R73, R78, R257, R269) -/

/-- The barrier objects of a launch header, for one scratchpad. -/
def State.setBarriers (s : State) (rank : Nat) (h : Header) : State :=
  (upTo 16).foldl (init := s) fun s i =>
    let bytes := leBytes 4 ((h.bexp[i]?).getD 0) ++ leBytes 4 0 ++ leBytes 4 (2 * (h.bscope[i]?).getD 0) ++ leBytes 4 0
    s.writeSpad (spadAddr rank (16 * i)) bytes

/-- The granules of a scratchpad that the images cover, ascending. -/
def imageGranules (rank : Nat) (images : List (Nat × Bytes)) : Granules :=
  ((upTo Config.spadGranules).filter fun g => images.any fun p => decide (p.1 / 16 ≤ g) && decide (16 * g < p.1 + p.2.length)).map
    fun g => (granIdx rank g, .full)

/-- The images, granule states and barrier objects of one scratchpad of the cluster. -/
def State.setupSpad (s : State) (k : Kernel) (h : Header) (rank : Nat) : State :=
  let s : State := k.images.foldl (init := s) fun s p => s.writeSpad (spadAddr rank p.1) p.2
  let lo := granIdx rank 0
  let new := imageGranules rank k.images
  let s : State := { s with gran := (s.gran.filter fun p => decide (p.1 < lo)) ++ new ++
                            s.gran.filter fun p => decide (lo + Config.spadGranules ≤ p.1) }
  s.setBarriers rank h

/-- This core at the start of a launch: every register as R19 and R269 give it, with the launch's tokens and maxima, and the descriptors and nests
of its .tdt and .lnd sections as they are loaded (R313). Of two .sync entries for one token the first gives the count, by the model's choice: log
entry 33. -/
def State.setupCore (s : State) (k : Kernel) (h : Header) : State :=
  let tdt := tdtOf (s.mem.getN h.tdtptr.toNat 2048)
  let lnd := lndOf (s.mem.getN h.lndptr.toNat 1024)
  { s with
    q := Queues.empty
    accPoison := []
    core := { Core.reset with
      d := Vector.ofFn fun i => (tdt[i.val]?).getD 0
      n := Vector.ofFn fun i => (lnd[i.val]?).getD 0
      tk := Vector.ofFn fun i => BitVec.ofNat 16 (tokInit k.sync i.val)
      lmax := Vector.ofFn fun i => BitVec.ofNat 32 ((k.lmax[i.val]?).getD 0)
      sys := { SysRegs.reset with self := s.core.sys.self, ctx := (s.context h.ctx).tenant ++ h.ctx } } }

/-- Puts entries into the free places of a range table, lowest first. -/
def placeRanges : List RangeEntry → List RangeEntry → List RangeEntry
  | [], es => es
  | _, [] => []
  | r :: rs, e :: es => if e.valid then e :: placeRanges (r :: rs) es else r :: placeRanges rs es

/-- The die's tables with a record written; the bits of cores that have failed or left, or are leaving, are clear in every record (R2, R317,
R392, R397). -/
def State.setBind (s : State) (die idx : Nat) (r : BindRecord) : State :=
  let d := s.die die
  let r := { r with mask := ((upTo 64).filter (s.barred die)).foldl (fun m c => setBit m c false) r.mask }
  if h : idx < 64 then
    { s with unit := { s.unit with dies := s.unit.dies.set (die % 4) { d with binds := d.binds.set idx r h } (Nat.mod_lt _ (by decide)) } }
  else s

/-- Ready tasks are matched again: one that another die's record binds is forwarded there (R319). -/
def State.rematch (s : State) : State :=
  s.mapTasks fun t => if t.state == .ready then s.queued t else t

/-- A launch that has passed every check starts (R315). -/
def State.startLaunch (s : State) (k : Kernel) (h : Header) (a : LaunchArgs) : State :=
  let cores := namedCores a.binds
  let c := s.context h.ctx
  let l := placeRanges a.ranges c.ranges.toList
  let s := s.setContext h.ctx { c with
    ranges := Vector.ofFn fun i => (l[i.val]?).getD RangeEntry.zero
    timelines := setBit c.timelines h.timeline.toNat true, ended := false }
  let s : State := a.binds.foldl (init := s) fun s b => s.setBind b.1 b.2.1 b.2.2
  let s : State := { s with pkg := { s.pkg with retired := s.pkg.deadChannels } }
  let wheel := assignWheel s.unit.wheel (leNat (s.mem.getN h.wheelptr.toNat 2)) cores
  let launch : Launch :=
    { id := s.unit.nextLaunch, ctx := h.ctx, entry := h.entry, tsbase := h.tsbase, args := h.args, done := h.done, doneval := h.doneval,
      budget := h.budget, timeline := h.timeline, prio := h.prio, spec := h.spec,
      widths := Vector.ofFn fun i => BitVec.ofNat 8 ((h.widths[i.val]?).getD 0),
      exts := Vector.ofFn fun i => BitVec.ofNat 64 ((h.exts[i.val]?).getD 1),
      runptr := h.runptr, tdtptr := h.tdtptr, lndptr := h.lndptr, wheelptr := h.wheelptr, safedist := BitVec.ofNat 32 k.dist,
      made := [], binds := a.binds.map fun b => (b.1, b.2.1),
      slots := (wheel.filter fun w => !s.unit.wheel.contains w).map (·.1), group := h.items, complete := false }
  let s : State := { s with unit := { s.unit with
    wheel := wheel
    launches := s.unit.launches ++ [launch]
    nextLaunch := s.unit.nextLaunch + 1 } }
  let s : State := if cores.contains (s.selfDie, s.selfCore) then s.setupCore k h else s
  State.rematch <| ((upTo 8).filter fun r => cores.contains (s.selfDie, 8 * s.selfCluster + r)).foldl (init := s) fun s r => s.setupSpad k h r

/-- The launch at the head of the doorbell queue leaves it, and the loader's code goes to the runtime; nothing else changes (R75). -/
def State.refuseLaunch (s : State) (ctx : BitVec 4) (rest : List (BitVec 64)) (e : LoadCode) : State :=
  let c := s.context ctx
  s.setContext ctx { c with doorbell := rest, codes := c.codes ++ [e.code] }

/-- The hub can read these bytes of memory: they exist, hold no uncorrectable error, and lie beyond no failed boundary (R324, R325, R397). -/
def State.hubReads (s : State) (a n : Nat) : Bool :=
  physExists a && physExists (a + n - 1) && (pieces (n + 1) a n).all fun p => !s.spoiled (.glob (p.1 / 16)) && !s.hubCutOff p.1

/-- The sections that a launch loads from memory can be read (R313). -/
def State.sectionsRead (s : State) (h : Header) : Bool :=
  s.hubReads h.tdtptr.toNat 2048 && s.hubReads h.lndptr.toNat 1024 && s.hubReads h.wheelptr.toNat 8 && s.hubReads h.runptr.toNat 4 &&
    s.hubReads h.runptr.toNat (4 + 32 * min 128 (leNat (s.mem.getN h.runptr.toNat 4)))

/-- Checks 1 to 7, on the container and on the header that the doorbell names (R75, R313): the kernel to launch, or the first failure's
code. A header or a section that cannot be read is FORMAT, by the model's choice: log entry 84. -/
def State.launchChecks (s : State) (ctx : BitVec 4) (addr : Nat) (hb : Bytes) (args : LaunchArgs) : Except LoadCode Kernel :=
  if !s.hubReads addr 272 || headerBad hb || (headerOf hb).ctx != ctx || !s.sectionsRead (headerOf hb) then .error .format
  else match loaderChecks s.pkg.keys (s.context ctx) args with
    | .error e => .error e
    | .ok k => if s.resources (headerOf hb) args then .ok k else .error .resource

/-- LAUNCH_START: the launch at the head of the context's doorbell queue is refused, waits for its cores, or starts (R75, R315, R389). -/
def execLaunchStart (ctx : BitVec 4) (args : LaunchArgs) (s : State) : Out :=
  let c := s.context ctx
  match c.doorbell with
  | [] => .next s
  | addr :: rest =>
    let hb := s.mem.getN addr.toNat 272
    match s.launchChecks ctx addr.toNat hb args with
    | .error e => .next (s.refuseLaunch ctx rest e)
    | .ok k =>
      if s.recordsClash args.binds || !(namedCores args.binds).all fun p => s.coreAvailable p then .next s
      else .next ((s.setContext ctx { c with doorbell := rest }).startLaunch k (headerOf hb) args)

/-! ## Quiet lines and the occupancy vector (R319, R322) -/

/-- This core's quiet line (R322). -/
def State.quietLine (s : State) : Bool := s.core.phase == .halted || (s.runTask.isNone && s.allDrained)

/-- A core's quiet line. Another core is quiet unless a task runs on it (log entry 4). -/
def State.coreQuiet (s : State) (p : Nat × Nat) : Bool :=
  if p = (s.selfDie, s.selfCore) then s.quietLine
  else !(s.unit.tasks.any fun t => t.state != .ready && t.die == p.1 && t.core == p.2)

/-- The task is ready (R337). -/
def State.taskReady (s : State) (t : Task) : Bool :=
  t.state == .ready && (t.spec || s.inFrontier t) && !(s.context t.ctx).ended

/-- Band of a priority (R320). -/
def Task.band (t : Task) : Nat := t.prio.toNat / 8

/-- What a die's occupancy vector shows (R319): the ready tasks of each band, the cores that run a task, and the quiet lines. -/
def State.occupancy (s : State) (die : Nat) : BitVec 256 :=
  let ready (b : Nat) : Nat := min 65535 ((s.unit.tasks.filter fun t => t.die == die && s.taskReady t && t.band == b).length)
  let busy (c : Nat) : Bool := s.unit.tasks.any fun t => t.state != .ready && t.die == die && t.core == c
  let bands := (upTo 8).foldl (fun n b => n + ready b * 2 ^ (16 * b)) 0
  let cores := (upTo 64).foldl (fun n c => n + (busy c).toNat * 2 ^ (128 + c) + (s.coreQuiet (die, c)).toNat * 2 ^ (192 + c)) 0
  BitVec.ofNat 256 (bands + cores)

/-- The task units bring the occupancy vectors up to date. They do so with each of their moves, by the model's choice: log entry 69. -/
def State.occupied (s : State) : State :=
  { s with unit := { s.unit with dies := Vector.ofFn fun i : Fin 4 => { s.die i.val with occ := s.occupancy i.val } } }

/-! ## Creating tasks (R314, R333) -/

def Launch.items (l : Launch) : Nat := l.exts.toList.foldl (fun n e => n * e.toNat) 1
def Launch.wid (l : Launch) (i : Nat) : BitVec 64 :=
  BitVec.ofNat 64 (itemWid (l.widths.toList.map BitVec.toNat) (l.exts.toList.map BitVec.toNat) i)

/-- The task of a work item (R314, R332). -/
def Launch.task (l : Launch) (i : Nat) : Task :=
  { num := 0, entry := l.entry, args := l.args, ts := l.tsbase, wid := l.wid i, budget := l.budget, prio := l.prio, spec := l.spec,
    timeline := l.timeline, pmask := 0x3F, frame := 0, parent := 0, dep := false, launch := l.id, ctx := l.ctx, die := 0, state := .ready,
    core := 0, aborts := 0, trap := 0, nonspec := false, readsFrom := [], saveTk := Vector.replicate 16 0, saveBphase := 0,
    shut := false }

/-- The next work item of a launch that a die's records cover. -/
def State.nextItem (s : State) (l : Launch) (die : Nat) : Option Nat :=
  (List.range l.items).find? fun i => !l.made.contains i && s.bindingDie (l.task i) == some die

/-- A launch that still has an item for a die, oldest first. -/
def State.launchWithItem (s : State) (die : Nat) : Option (Launch × Nat) :=
  s.unit.launches.findSome? fun l => if l.complete then none else (s.nextItem l die).map fun i => (l, i)

/-- A die's task unit creates the next task of a launch, while it holds fewer than 4,096 (R333). -/
def State.createTask (s : State) (die : Nat) : Option State :=
  if taskLimit ≤ s.tasksOn die then none
  else (s.launchWithItem die).map fun p =>
    let s : State := { s with unit := { s.unit with launches := s.unit.launches.map fun l =>
      if l.id = p.1.id then { l with made := l.made ++ [p.2] } else l } }
    (s.addTask (p.1.task p.2) die).1

def execTaskCreate (die : Nat) (s : State) : Out := .next (((s.createTask die).map State.occupied).getD s)

/-! ## Dispatch (R316, R321, R334, R337) -/

/-- A core is free for a launch's tasks: it runs none, it has not halted in that launch, and it has neither failed nor left (R2, R321, R392, R397). -/
def State.coreFree (s : State) (launch die core : Nat) : Bool :=
  !(s.unit.tasks.any fun t => t.state != .ready && t.die == die && t.core == core) && !s.unit.halted.contains (die, core, launch) &&
    !s.barred die core && ((die, core) != (s.selfDie, s.selfCore) || s.core.phase == .idle || s.core.phase == .halted)

/-- The cores of a task's mask on its die. -/
def State.maskCores (s : State) (t : Task) : List Nat :=
  match s.recordOn t.die t with
  | some r => (upTo 64).filter fun c => r.mask.getLsbD c
  | none => []

def State.freeCore (s : State) (t : Task) : Option Nat := (s.maskCores t).find? (s.coreFree t.launch t.die)

/-- Order of dispatch within a band. -/
def Task.before (t u : Task) : Bool :=
  t.keyLt u || (!u.keyLt t && (decide (t.prio.toNat < u.prio.toNat) || (t.prio == u.prio && decide (t.timeline.toNat < u.timeline.toNat))))

def earliest (l : List Task) : Option Task :=
  l.foldl (init := none) fun best t =>
    match best with
    | some b => if t.before b then some t else some b
    | none => some t

/-- The decision of R321: the task and the slot pointer after it. -/
def State.decide_ (s : State) (die : Nat) : Option (Task × Nat) :=
  let d := s.die die
  let ready := s.unit.tasks.filter fun t => t.die == die && s.taskReady t && (s.freeCore t).isSome
  (upTo 256).findSome? fun k =>
    let slot := (d.ptr + k) % 256
    let band := ((d.pattern[slot]'(Nat.mod_lt _ (by decide))).extractLsb' 0 3).toNat
    (earliest (ready.filter fun t => t.band == band)).map fun t => (t, (slot + 1) % 256)

/-- The registers that a dispatch sets (R316, R336). -/
def State.dispatchHere (s : State) (t : Task) : State :=
  let c := s.context t.ctx
  let core := { s.core with
    pc := t.entry
    x := s.core.x.set 31 t.args
    phase := .running, wait := .none, monitor := none, region := none, saved := none, budgetStopped := false, pending := [], depth := 0, kept := []
    sys := { s.core.sys with
      wid := t.wid, ts := t.ts, task := t.num, budget := t.budget, ctx := c.tenant ++ t.ctx
      status := setBit s.core.sys.status 7 (!s.taskNonspec t) } }
  { s with core := core, recent := [] }

/-- Dispatches a task to a core of its die: its frame is emptied (R334), it stays non-speculative if it is (R336), and on this core its PRT bit is
clear while a pre-empted context holds the quay (R244). -/
def State.dispatchTo (s : State) (t : Task) (core : Nat) : State :=
  let here := decide (t.die = s.selfDie ∧ core = s.selfCore)
  let nonspec := s.taskNonspec t
  let s := s.mapTasks fun u =>
    if u.num == t.num then
      { u with state := .running, core := core, saveTk := s.core.tk, saveBphase := s.core.sys.bphase, nonspec := nonspec,
               shut := here && s.quay.absent }
    else u
  (if here then s.dispatchHere t else s).emptyFrame t.die core t.frame

/-- The victim of R337: the speculative task on the mask's cores that stands highest. No task could be dispatched to a core that is leaving. -/
def State.victim (s : State) (t : Task) : Option Task :=
  let cores := (s.maskCores t).filter fun c => !s.barred t.die c
  let l := s.unit.tasks.filter fun u =>
    u.die == t.die && cores.contains u.core && u.state != .ready && !s.taskNonspec u
  let above (a b : Task) : Bool :=
    b.keyLt a || (!a.keyLt b && (decide (b.timeline.toNat < a.timeline.toNat) || (a.timeline == b.timeline && decide (b.core < a.core))))
  l.foldl (init := none) fun best u =>
    match best with
    | some b => if above u b then some u else some b
    | none => some u

/-- A task of the frontier group that is ready while no core of its mask is free, with its victim (R337). -/
def State.blocked (s : State) (die : Nat) : Option (Task × Task) :=
  s.unit.tasks.findSome? fun t =>
    if t.die == die && s.taskReady t && s.inFrontier t && (s.freeCore t).isNone then (s.victim t).map fun v => (t, v) else none

/-- One dispatch decision of a die (R321, R337); none where no ready task can be dispatched. -/
def State.dispatchOn (s : State) (die : Nat) : Option State :=
  match s.blocked die with
  | some (t, v) => some ((s.abort v.num).dispatchTo t v.core)
  | none =>
    match s.decide_ die with
    | none => none
    | some (t, ptr) =>
      let d := s.die die
      let s : State := { s with unit := { s.unit with dies := s.unit.dies.set (die % 4) { d with ptr := ptr } (Nat.mod_lt _ (by decide)) } }
      some (s.dispatchTo t ((s.freeCore t).getD 0))

def execDispatch (die : Nat) (s : State) : Out := .next (((s.dispatchOn die).map State.occupied).getD s)

/-! ## Bind records and the pattern (R317 to R320) -/

/-- A change of records that is no completion: a core that they have left has not seen its records lapse (R226). -/
def State.unbound (s before : State) : State :=
  if before.bound s.selfDie s.selfCore none && !s.bound s.selfDie s.selfCore none then s.setQuay fun q => { q with lapsed := false } else s

/-- Harbourmaster replaces a record whole, unless the die's records are frozen (R397) or it would overlap a record of its timeline on another
die (R318). -/
def execBindRecordReplace (die idx : Nat) (r : BindRecord) (s : State) : Out :=
  let t := (s.setBind die idx r).unbound s
  .next (if 4 ≤ die || 64 ≤ idx || (s.die die).mgmtFailed || !disjointDies (t.bindsWith []) then s else t.rematch.occupied)

/-- The task unit refuses a pattern that sets a reserved bit or leaves out a band (R320). -/
def execDispatchPatternLoad (die : Nat) (pat : List Byte) (s : State) : Out :=
  let d := s.die die
  let good := pat.length == 256 && pat.all (fun b => decide (b.toNat < 8)) && (upTo 8).all fun k => pat.any fun b => b.toNat == k
  if h : good = true ∧ die < 4 then
    let d := { d with pattern := Vector.ofFn fun i => (pat[i.val]?).getD 0 }
    .next { s with unit := { s.unit with dies := s.unit.dies.set die d h.2 } }
  else .next s

/-! ## Completion (R323) -/

/-- The bind records of a launch: the valid ones of its timeline and context, with their die and index (R317, R318). -/
def State.launchBinds (s : State) (l : Launch) : List (Nat × Nat × BindRecord) :=
  (upTo 4).flatMap fun d =>
    ((s.die d).binds.toList.zipIdx.filter fun r => r.1.valid && r.1.timeline == l.timeline && r.1.ctx == l.ctx).map fun r => (d, r.2, r.1)

/-- The cores that are bound to the launch. -/
def State.launchCores (s : State) (l : Launch) : List (Nat × Nat) := namedCores (s.launchBinds l)

/-- A record was written for another launch of the same timeline and context that has not completed, or stands frozen on a die whose management
core has failed (R397): it stays valid when this launch completes. -/
def State.recordStays (s : State) (l : Launch) (die idx : Nat) : Bool :=
  (s.die die).mgmtFailed ||
    s.unit.launches.any fun x => x.id != l.id && !x.complete && x.timeline == l.timeline && x.ctx == l.ctx && x.binds.contains (die, idx)

/-- The three conditions of R323. A core that runs a task, or has not halted and not drained, is not quiet. -/
def State.launchDone (s : State) (l : Launch) : Bool :=
  l.group == 0 && !(s.unit.tasks.any fun t => t.launch == l.id) &&
    (s.launchCores l).all s.coreQuiet

/-- The hub's write of a value at `done`, through the context's range table and without a permission; none where the address does not
translate. -/
def State.doneWrite (s : State) (l : Launch) (v : BitVec 64) : Option State :=
  match s.translate l.ctx 0 l.done.toNat with
  | .ok pa => if s.hubCutOff pa || s.hubCutOff (pa + 7) then none else some (s.writeBy none l.ctx pa (leBytes 8 v.toNat))
  | _ => none

/-- The launch's records become invalid, and its wheel positions and the cores that halted in it free. A core that no record names any more has seen its records lapse (R226). -/
def State.closeLaunch (s : State) (l : Launch) : State :=
  let gone := (s.launchBinds l).filter fun b => !s.recordStays l b.1 b.2.1
  let bound := s.bound s.selfDie s.selfCore none
  let s : State := gone.foldl (init := s) fun s b => s.setBind b.1 b.2.1 { b.2.2 with valid := false }
  let s := if bound && !s.bound s.selfDie s.selfCore none then s.setQuay fun q => { q with lapsed := true } else s
  { s with unit := { s.unit with
    wheel := s.unit.wheel.filter fun w => !l.slots.contains w.1
    halted := s.unit.halted.filter fun p => p.2.2 != l.id
    launches := s.unit.launches.map fun x => if x.id = l.id then { x with complete := true } else x } }

/-- A launch ends with a value at `done`, or bit 2 of the context's status where `done` does not translate or lies beyond a failed boundary (R323,
R389, R397); a failed hub writes nothing (R397). -/
def State.finishLaunch (s : State) (l : Launch) (v : BitVec 64) : State :=
  let s : State := if s.pkg.hubFailed then s
    else match s.doneWrite l v with
      | some s => s
      | none => s.setContext l.ctx ((s.context l.ctx).setStatus 2)
  s.closeLaunch l

/-- A launch that meets the conditions completes (R323). -/
def State.completeLaunch (s : State) (l : Launch) : State := s.finishLaunch l l.doneval

def State.findLaunch (s : State) (n : Nat) : Option Launch := s.unit.launches.find? fun l => l.id == n && !l.complete

def execLaunchCompletion (launch : Nat) (s : State) : Out :=
  match s.findLaunch launch with
  | some l => .next (if s.launchDone l then s.completeLaunch l else s)
  | none => .next s

/-! ## Ending a context (R264, R311, R323, R397, R421) -/

/-- The tasks of a context leave the task units, with their versions and read sets, and the frontiers of their timelines move. -/
def State.dropTasks (s : State) (ctx : BitVec 4) : State :=
  let mine := s.unit.tasks.filter fun t => t.ctx == ctx
  let s := mine.foldl (init := s) fun s t => s.dropSpec t.num
  let s : State := { s with unit := { s.unit with tasks := s.unit.tasks.filter fun t => t.ctx != ctx } }
  mine.foldl (init := s) fun s t => s.refreshFrontier t.timeline

/-- The supervisor ends a context: its launches end with the reason, their cores are free for other launches, its tasks are gone, and its strand
stops where it stands (R311, R323). -/
def State.endContext (s : State) (ctx : BitVec 4) (reason : BitVec 8) : State :=
  let here := s.runTask.any fun t => t.ctx == ctx
  let s := if here then s.performAll else s
  let open_ := s.unit.launches.filter fun l => l.ctx == ctx && !l.complete
  let s := open_.foldl (init := s) fun s l => s.finishLaunch l (BitVec.ofNat 64 (2 ^ 63 + reason.toNat))
  let s := (s.setContext ctx { s.context ctx with ended := true }).dropTasks ctx
  if here && s.core.phase != .halted then { s with core := { s.core with phase := .stopped } } else s

def execContextEnd (ctx : BitVec 4) (reason : BitVec 8) (s : State) : Out := .next (s.endContext ctx reason)

/-- ERET (R113, R266): it waits until every handler entry has completed. The ERET of the COMPART handler acts as HALT, and the context ends
with reason 0x13 (R421); that of the PREEMPT handler ends the pre-emption (R271, R347). -/
def execEret (s : State) : Out :=
  .next (outsideRegion 0x4C s fun s =>
    if !s.handlersDone then s.stallShut
    else match s.returnFromTrap with
      | .error c => s.raise 0x4C c
      | .ok s' =>
        if s.core.sys.sup && s.core.sys.causelo.extractLsb' 0 8 == 0x13 then
          if !s.allDrained then s.stallShut
          else ((s'.haltHere).endContext s'.ctx 0x13).tick 1
        else if s.core.sys.sup && s.core.sys.causelo.extractLsb' 0 8 == 0x12 then (s'.preemptReturn (s.core.sys.causehi.getLsbD 1)).tick 1
        else s'.tick 1)

/-! ## The host (R342, R388) -/

/-- The host writes memory across PCIe or CXL, through its window or its own lines: a write that belongs to no task. Pieces beyond a failed boundary
are not reached (R397). -/
def execHostWrite (pa : BitVec 64) (data : List Byte) (s : State) : Out :=
  let a := pa.toNat
  let reached := (pieces (data.length + 1) a data.length).filter fun p => !s.hubCutOff p.1
  let victims := s.conflicting none (reached.flatMap fun p => linesOf p.1 p.2)
  .next (if data == [] || !physExists a || !physExists (a + data.length - 1) then s
    else (reached.foldl (init := s) fun s p => s.storeMem p.1 ((data.drop (p.1 - a)).take p.2)).abortList victims)

end Sys2Proof.Machine
end

