-- ==== Sys2Proof/Machine/Gcm.lean ====
section
/-!
DEFINITION. AES-256-GCM (R5, R420), whose algorithm the manual takes from outside: FIPS 197 and SP 800-38D with a 96-bit IV and a 128-bit tag; log
entry 8. Blocks are 128-bit numbers, first byte most significant.
-/

namespace Sys2Proof.Machine

/-! ## AES-256 -/

/-- The substitution box, a row of 16 bytes in each number, its first byte least significant. -/
def aesBox : List (BitVec 128) :=
  [0x76ABD7FE2B670130C56F6BF27B777C63, 0xC072A49CAFA2D4ADF04759FA7DC982CA, 0x1531D871F1E5A534CCF73F362693FDB7,
   0x75B227EBE28012079A059618C323C704, 0x842FE329B3D63B52A05A6E1B1A2C8309, 0xCF584C4A39BECB6A5BB1FC20ED00D153,
   0xA89F3C507F02F94585334D43FBAAEFD0, 0xD2F3FF1021DAB6BCF5389D928F40A351, 0x73195D643D7EA7C41744975FEC130CCD,
   0xDB0B5EDE14B8EE4688902A22DC4F8160, 0x79E4959162ACD3C25C2406490A3A32E0, 0x08AE7A65EAF4566CA94ED58D6D37C8E7,
   0x8A8BBD4B1F74DDE8C6B4A61C2E2578BA, 0x9E1DC186B95735610EF6034866B53E70, 0xDF2855CEE9871E9B948ED9691198F8E1,
   0x16BB54B00F2D99416842E6BF0D89A18C]

def aesSub (b : Byte) : Byte :=
  ((aesBox[b.toNat / 16]?).getD 0).extractLsb' (8 * (b.toNat % 16)) 8

/-- Twice a byte in the field of AES. -/
def aesDouble (b : Byte) : Byte := (b <<< 1) ^^^ (if b.getLsbD 7 then 0x1B else 0)

/-- Byte i of a block. -/
def blockByte (x : BitVec 128) (i : Nat) : Byte := x.extractLsb' (8 * (15 - i)) 8
/-- A block of 16 bytes. -/
def blockOfBytes (l : List Byte) : BitVec 128 := BitVec.ofNat 128 (beNat l)
def bytesOfBlock (x : BitVec 128) : List Byte := (upTo 16).map (blockByte x)

def aesSubWord (w : BitVec 32) : BitVec 32 :=
  (aesSub (w.extractLsb' 24 8) ++ aesSub (w.extractLsb' 16 8) ++ aesSub (w.extractLsb' 8 8) ++ aesSub (w.extractLsb' 0 8) : BitVec 32)

/-- The words of the key schedule from word `i` on, given the eight before it, newest last. -/
def aesSchedule : Nat → Nat → Byte → List (BitVec 32) → List (BitVec 32)
  | 0, _, _, _ => []
  | n + 1, i, rcon, last =>
    let t := (last[7]?).getD 0
    let first := (last[0]?).getD 0
    let u := if i % 8 = 0 then aesSubWord (t.rotateLeft 8) ^^^ (rcon ++ 0#24 : BitVec 32) else if i % 8 = 4 then aesSubWord t else t
    let w := first ^^^ u
    w :: aesSchedule n (i + 1) (if i % 8 = 0 then aesDouble rcon else rcon) (last.drop 1 ++ [w])

/-- The 60 words of the key schedule. -/
def aesWords (key : BitVec 256) : List (BitVec 32) :=
  let first := (upTo 8).map fun i => key.extractLsb' (32 * (7 - i)) 32
  first ++ aesSchedule 52 8 1 first

/-- The 15 round keys. -/
def aesRoundKeys (key : BitVec 256) : List (BitVec 128) :=
  (chunks 4 15 (aesWords key)).map fun l => l.foldl (fun (acc : BitVec 128) w => (acc <<< 32) ||| w.setWidth 128) 0

/-- SubBytes and ShiftRows: byte r of column c comes from column c + r. -/
def aesShift (x : BitVec 128) : List Byte := (upTo 16).map fun i => aesSub (blockByte x ((i + 4 * (i % 4)) % 16))

/-- MixColumns on one column. -/
def aesMix : List Byte → List Byte
  | [a, b, c, d] =>
    let t := a ^^^ b ^^^ c ^^^ d
    [a ^^^ t ^^^ aesDouble (a ^^^ b), b ^^^ t ^^^ aesDouble (b ^^^ c), c ^^^ t ^^^ aesDouble (c ^^^ d), d ^^^ t ^^^ aesDouble (d ^^^ a)]
  | l => l

/-- AES-256 with its round keys. -/
def aesRounds : List (BitVec 128) → BitVec 128 → BitVec 128
  | [], x => x
  | [k], x => blockOfBytes (aesShift x) ^^^ k
  | k :: ks, x => aesRounds ks (blockOfBytes ((chunks 4 4 (aesShift x)).flatMap aesMix) ^^^ k)

def aesBlock (key : BitVec 256) (x : BitVec 128) : BitVec 128 :=
  match aesRoundKeys key with
  | [] => x
  | k :: ks => aesRounds ks (x ^^^ k)

/-! ## GCM -/

/-- The product of two blocks: the bits of `x`, first bit most significant, from bit `n` − 1 of those left. -/
def ghashMul (x : BitVec 128) : Nat → BitVec 128 → BitVec 128 → BitVec 128
  | 0, _, z => z
  | n + 1, v, z =>
    ghashMul x n ((v >>> 1) ^^^ (if v.getLsbD 0 then 0xE1000000000000000000000000000000 else 0)) (if x.getLsbD n then z ^^^ v else z)

/-- The hash of a list of blocks under the key `h`. -/
def ghash (h : BitVec 128) (l : List (BitVec 128)) : BitVec 128 := l.foldl (fun y x => ghashMul (y ^^^ x) 128 h 0) 0

/-- Bytes as blocks, the last one filled up with zeros. -/
def gcmBlocks (l : List Byte) : List (BitVec 128) :=
  (chunks 16 ((l.length + 15) / 16) l).map fun c => blockOfBytes (c ++ List.replicate (16 - c.length) 0)

/-- The counter block `n` of an IV. -/
def gcmCounter (iv : BitVec 96) (n : Nat) : BitVec 128 := (iv ++ BitVec.ofNat 32 n : BitVec 128)

/-- The text under the key stream: encrypts and decrypts. -/
def gcmText (key : BitVec 256) (iv : BitVec 96) (text : List Byte) : List Byte :=
  let stream := (upTo ((text.length + 15) / 16)).flatMap fun i => bytesOfBlock (aesBlock key (gcmCounter iv (i + 2)))
  (List.zip text stream).map fun p => p.1 ^^^ p.2

/-- The tag of associated data and of a text as it travels. -/
def gcmTag (key : BitVec 256) (iv : BitVec 96) (aad text : List Byte) : BitVec 128 :=
  let lens : BitVec 128 := (BitVec.ofNat 64 (8 * aad.length) ++ BitVec.ofNat 64 (8 * text.length) : BitVec 128)
  ghash (aesBlock key 0) (gcmBlocks aad ++ gcmBlocks text ++ [lens]) ^^^ aesBlock key (gcmCounter iv 1)

end Sys2Proof.Machine
end

