-- ==== Sys2Proof/Machine/Fabric.lean ====
section
/-!
DEFINITION. The fabric ports (R398 to R404, R420, R421): routes, virtual channels and pauses, the frames that leave and arrive, and what secures
them on a link.
-/

namespace Sys2Proof.Config

/-- The bytes of a frame as a link carries them: no rule gives a frame's layout. Log entry 53. -/
opaque frameText : Machine.Frame → List Byte

end Sys2Proof.Config

namespace Sys2Proof.Machine

def State.setPkg (s : State) (f : Package → Package) : State := { s with pkg := f s.pkg }

/-! ## Frames (R227, R401, R419) -/

/-- The quay address that a frame goes to. -/
def Frame.dst : Frame → QuayAddr
  | .notice d _ => d
  | .request d _ => d
  | .data d _ _ _ _ _ => d
  | .doneR d _ _ _ => d
  | .staleR d _ _ _ => d
  | .eccerrR d _ _ _ => d
  | .refusedR d _ _ _ _ => d
  | .ack d _ _ _ _ => d
  | .decline d _ _ _ _ => d
  | .accept d _ => d
  | .fullR d _ => d
  | .absent d _ => d
  | .noRouteR d _ => d
  | .present d _ => d
  | .coll dest _ _ _ => dest.member

/-- The virtual channel of a frame: 0 for quay traffic, the communicator's for a collective's (R401). -/
def Frame.vc : Frame → BitVec 3
  | .coll _ vc _ _ => vc
  | _ => 0

/-- Flits of a frame: a segment travels with a header and a trailer, every other frame is one flit (R403). -/
def Frame.flits : Frame → Nat
  | .data _ _ _ _ _ bs => 2 + (bs.length + 63) / 64
  | .coll _ _ _ (.data _ bs) => 2 + (bs.length + 63) / 64
  | _ => 1

/-- Notices and pull responses, with data or without, are encrypted; every other frame is authenticated only (R235, R420). -/
def Frame.secret : Frame → Bool
  | .notice _ _ => true
  | .data _ _ _ _ _ _ => true
  | .doneR _ _ _ _ => true
  | .staleR _ _ _ _ => true
  | .eccerrR _ _ _ _ => true
  | .refusedR _ _ _ _ _ => true
  | .coll _ _ _ (.notice _ _) => true
  | .coll _ _ _ (.data _ _) => true
  | .coll _ _ _ (.stale _) => true
  | .coll _ _ _ (.eccerr _) => true
  | .coll _ _ _ (.refused _) => true
  | _ => false

/-- The compartment of a frame: the one it names, else that of the quay it belongs to (R419). -/
def State.frameCmp (s : State) : Frame → BitVec 16
  | .notice _ n => n.cmp
  | .request _ r => r.cmp
  | .data _ _ _ _ cmp _ => cmp
  | .refusedR _ _ _ _ cmp => cmp
  | .coll _ _ cmp _ => cmp
  | _ => s.cmpOf s.quayCtx

/-- A frame for this core's quay, or for this die's collective engine (R404). -/
def State.isHere (s : State) : Frame → Bool
  | .coll dest _ _ _ => devOf dest.member == devOf s.self && dieOf dest.member == s.selfDie
  | f => f.dst == s.self

/-- A frame arrives: at the core's quay, or at the die's collective engine and never at the quay (R404). -/
def State.deliver (s : State) : Frame → Out
  | .notice _ n => execNotice ⟨n, none⟩ s
  | .request _ r => execSegmentRequest r s
  | .data _ l g k c bs => execDataResponse l.toNat g k c bs s
  | .doneR _ l g k => execDoneResponse l.toNat g k s
  | .staleR _ l g k => execStaleResponse l.toNat g k s
  | .eccerrR _ l g k => execEccerrResponse l.toNat g k s
  | .refusedR _ l g k _ => execRefused l.toNat g k s
  | .ack _ src m g i => execAcknowledgement src m g i none s
  | .decline _ src m g i => execDecline src m g i none s
  | .accept _ a => execAccept a s
  | .fullR _ a => .next (s.fullIn a)
  | .absent _ a => execAbsent a s
  | .noRouteR _ a => execNoRoute a s
  | .present _ src => execPresent src s
  | .coll dest _ cmp f => .next (s.collDeliver dest cmp f)

/-! ## Securing a frame (R420, R421) -/

/-- The compartment's epochs, once one is installed. -/
def State.epochOf (s : State) (cmp : BitVec 16) : Option Epoch := s.pkg.epochs.find? fun e => e.cmp == cmp

/-- The associated data: the epoch in clear, and the compartment. -/
def sealData (cmp : BitVec 16) (epoch : BitVec 8) : List Byte := epoch :: leBytes 2 cmp.toNat

/-- A frame under a key, an epoch and an IV. -/
def sealFrame (key : BitVec 256) (cmp : BitVec 16) (epoch : BitVec 8) (iv : BitVec 96) (f : Frame) : Seal :=
  let text := Config.frameText f
  let aad := sealData cmp epoch
  if f.secret then
    let payload := gcmText key iv text
    ⟨epoch, iv, payload, gcmTag key iv aad payload⟩
  else ⟨epoch, iv, text, gcmTag key iv (aad ++ text) []⟩

/-- The IV of a frame: the sending device, the port, the epoch, and a counter that is never used twice. -/
def sealIv (dev : BitVec 12) (port : BitVec 4) (epoch : BitVec 8) (n : BitVec 72) : BitVec 96 := (dev ++ port ++ epoch ++ n : BitVec 96)

/-- A frame as it leaves by a port: in a compartment it is secured with the installed epoch. -/
def State.sealed (s : State) (port : BitVec 4) (f : Frame) : Option Seal :=
  let cmp := s.frameCmp f
  if cmp = 0 then none
  else (s.epochOf cmp).map fun e => sealFrame e.key cmp e.epoch (sealIv (s.self.extractLsb' 0 12) port e.epoch s.pkg.sealNo) f

/-- Cycles of 1 ms, for which an epoch is accepted after another has replaced it (R421). -/
def epochGrace : Nat := 2500000

/-- The key of an epoch that is accepted at a cycle: the installed one, or one that was replaced less than 1 ms ago. -/
def Epoch.keyFor (e : Epoch) (now : BitVec 64) (epoch : BitVec 8) : Option (BitVec 256) :=
  if epoch = e.epoch then some e.key
  else (e.prev.find? fun p => p.1 == epoch && decide ((now - p.2.2).toNat < epochGrace)).map (·.2.1)

/-- A frame of a compartment authenticates: its epoch is accepted, its tag is the key's, and its sender has not been revoked. -/
def State.authentic (s : State) (f : Frame) (sec : Option Seal) : Bool :=
  let cmp := s.frameCmp f
  cmp == 0 ||
    match s.epochOf cmp, sec with
    | some e, some x =>
      !e.revoked.contains (x.iv.extractLsb' 84 12) &&
        (match e.keyFor s.now x.epoch with
          | some key => x == sealFrame key cmp x.epoch x.iv f
          | none => false)
    | _, _ => false

/-! ## Ports (R398 to R402) -/

/-- A port is up: with two lanes or more, on a device that has a number, and not idle. -/
def State.portUp (s : State) (p : BitVec 4) : Bool :=
  decide (2 ≤ s.pkg.portLanes[p.toNat]'(by omega)) && s.pkg.devNo.isSome && !s.pkg.idle

/-- The port by which a frame to another device leaves: the primary one while it is up, else the alternate where it may be used (R399). -/
def State.routePort (s : State) (dst : QuayAddr) : Option (BitVec 4) :=
  match s.pkg.routes.find? fun r => r.1 == devOf dst with
  | some (_, e) =>
    if !e.valid then none
    else if s.portUp e.port then some e.port
    else if e.altv && s.portUp e.alt then some e.alt
    else none
  | none => none

/-- The hub answers NO-ROUTE to a frame that no port can carry (R399). -/
def State.bounce (s : State) : Frame → State
  | .notice _ n => s.noRouteIn (.notice n.moor.toNat n.gen n.cidx.toNat)
  | .request _ r => s.noRouteIn (.request r.land.toNat r.lgen r.seg)
  | .ack d _ m g i => s.noRouteIn (.ack d m g i)
  | .decline d _ m g i => s.noRouteIn (.ack d m g i)
  | .coll dest _ _ (.notice n _) => s.noRouteIn (.coll ⟨n.src, dest.idx⟩ n.moor n.gen)
  | .coll dest _ _ (.request r) => s.noRouteIn (.collRequest ⟨r.src, dest.idx⟩ r.lgen r.seg)
  | .coll dest _ _ (.ack src m g) => s.noRouteIn (.collAck ⟨src, dest.idx⟩ dest.member m g)
  | .coll dest _ _ (.decline src m g) => s.noRouteIn (.collAck ⟨src, dest.idx⟩ dest.member m g)
  | _ => s

/-- A frame can leave the outbox: here, inside the package, turned back by the hub, or by a port whose virtual channel is not paused. -/
def State.canGo (s : State) (f : Frame) : Bool :=
  s.isHere f || devOf f.dst == devOf s.self ||
    match s.routePort f.dst with
    | none => true
    | some p => !s.pkg.paused.contains (p.toNat, f.vc.toNat)

/-- A frame leaves by a port, secured where it is in a compartment, or goes to another core of the package. -/
def State.leaveBy (s : State) (port : Option (BitVec 4)) (f : Frame) : State :=
  let sec := port.bind fun p => s.sealed p f
  s.setPkg fun p => { p with wire := p.wire ++ [⟨port, f.vc, sec, f⟩], sealNo := if sec.isSome then p.sealNo + 1 else p.sealNo }

/-- The oldest frame that can leave the outbox goes; frames of one virtual channel to one port keep their order (R401). -/
def State.frameStep (s : State) : Option Out :=
  match s.outbox.find? s.canGo with
  | none => none
  | some f =>
    let s := { s with outbox := s.outbox.erase f }
    some (if s.isHere f then s.deliver f
      else if devOf f.dst = devOf s.self then .next (s.leaveBy none f)
      else match s.routePort f.dst with
        | some p => .next (s.leaveBy (some p) f)
        | none => .next (s.bounce f))

/-- The oldest frame on a channel reaches its other end. -/
def State.carry (s : State) (port : Option (BitVec 4)) (vc : BitVec 3) : State :=
  match s.pkg.wire.find? fun x => x.port == port && x.vc == vc with
  | some x => s.setPkg fun p => { p with wire := p.wire.erase x }
  | none => s

/-- Bytes in a channel's input buffer. -/
def Package.buffered (p : Package) (port : BitVec 4) (vc : BitVec 3) : Nat :=
  (p.rx.filter fun x => x.port == some port && x.vc == vc).foldl (fun n x => n + 64 * x.frame.flits) 0

/-- Pause is asserted once a channel's buffer holds more than 2 KiB, and released once it holds 1 KiB or less (R402). -/
def Package.repause (p : Package) (port : BitVec 4) (vc : BitVec 3) : Package :=
  let n := p.buffered port vc
  let x := (port.toNat, vc.toNat)
  if 2048 < n then { p with pausing := if p.pausing.contains x then p.pausing else p.pausing ++ [x] }
  else if n ≤ 1024 then { p with pausing := p.pausing.filter (· != x) }
  else p

/-- A frame reaches the input buffer of a port that is up. -/
def State.arrive (s : State) (f : Sent) : State :=
  match f.port with
  | none => s
  | some port => if s.portUp port && !s.pkg.hubFailed then s.setPkg fun p => { p with rx := p.rx ++ [f] }.repause port f.vc else s

/-- The device takes the oldest frame of a channel's buffer: one that fails authentication is discarded (R420). A frame to another core of the package
goes on there. -/
def State.sink (s : State) (port : BitVec 4) (vc : BitVec 3) : Out :=
  match s.pkg.rx.find? fun x => x.port == some port && x.vc == vc with
  | none => .next s
  | some x =>
    let s := s.setPkg fun p => { p with rx := p.rx.erase x }.repause port vc
    if s.isHere x.frame then (if s.authentic x.frame x.sec then s.deliver x.frame else .next s)
    else .next (s.leaveBy none x.frame)

/-- The oldest frame in the input buffers is taken. -/
def State.sinkStep (s : State) : Option Out :=
  match s.pkg.rx with
  | [] => none
  | x :: _ => x.port.map fun p => s.sink p x.vc

/-- A port's lanes. One that is down loses the frames on it (R400). -/
def State.setPort (s : State) (port lanes : Nat) : State :=
  if h : port < 16 then
    let on (x : Sent) : Bool := x.port == some (BitVec.ofNat 4 port)
    s.setPkg fun p =>
      let p := { p with portLanes := p.portLanes.set port lanes h }
      if 2 ≤ lanes then p
      else { p with wire := p.wire.filter fun x => !on x
                    rx := p.rx.filter fun x => !on x
                    paused := p.paused.filter fun x => x.1 != port
                    pausing := p.pausing.filter fun x => x.1 != port }
  else s

end Sys2Proof.Machine
end

