-- ==== Sys2Proof/Machine/Traps.lean ====
section
/-!
DEFINITION. Which trap the strand takes next (R33, R242, R262 to R264, R346), the traps of the fetch and of a rejected word (R32, R53), and
the events of pre-emption, restore, budget and commit (R29, R31, R271, R336, R345 to R349).
-/

namespace Sys2Proof.Machine

/-! ## Fetching (R12, R32, R54) -/

/-- The word at a virtual address, or the trap of its fetch. -/
def State.fetchWord (s : State) (va : Nat) : Except Cause IWord :=
  match s.translate s.ctx permCtlRead va with
  | .range => .error (.range 0 va)
  | .perm sub => .error (.perm sub va)
  | .nres => .error (.nres va)
  | .ecc pa => .error (.ecc pa)
  | .ok pa => if s.poisoned (.glob (pa / 16)) then .error (.ecc va) else .ok (BitVec.ofNat 32 (leNat (s.mem.getN pa 4)))

/-- The same, from the instruction cache where it holds the word and `cached` says so: stores do not reach it (R55). -/
def State.fetchFrom (s : State) (cached : Bool) (va : Nat) : Except Cause IWord :=
  match (if cached then s.translate s.ctx permCtlRead va else .nres) with
  | .ok pa => match s.core.icache.find? fun p => p.1 == pa with
    | some p => .ok p.2
    | none => s.fetchWord va
  | _ => s.fetchWord va

/-- The word at the program counter, and the second word of a pair; each may come from the instruction cache, so a pair may come one word from
each version (R55). -/
def State.fetchBy (s : State) (first second : Bool) : Except Cause (IWord × Option IWord) :=
  match s.fetchFrom first s.core.pc.toNat with
  | .error c => .error c
  | .ok w =>
    if fEng w = 7 then
      match s.fetchFrom second (s.core.pc.toNat + 4) with
      | .error c => .error c
      | .ok w2 => .ok (w, some w2)
    else .ok (w, none)

/-- The same, both words from memory as it stands. -/
def State.fetch (s : State) : Except Cause (IWord × Option IWord) := s.fetchBy false false

/-- The instruction cache takes the word at an address (R55). -/
def State.cacheWord (s : State) (pa : Nat) : State :=
  { s with core := { s.core with
    icache := (pa, BitVec.ofNat 32 (leNat (s.mem.getN pa 4))) :: s.core.icache.filter fun p => p.1 != pa } }

/-! ## Posted traps (R242, R263, R346) -/

/-- Place of a posted trap in R263: its name, then its index. -/
def Posted.key : Posted → Nat
  | .compart c => c.toNat
  | .collfail c => 2 ^ 16 + c.toNat
  | .budget _ => 2 * 2 ^ 16
  | .reclaim m _ => 3 * 2 ^ 16 + m.toNat
  | .pullfail l _ _ => 4 * 2 ^ 16 + l.toNat

def Posted.toRec : Posted → TrapRec
  | .compart c => (Cause.mk 0x13 0 (c.setWidth 64)).toRec 0 0
  | .collfail c => (Cause.mk 0x0F 0 (c.setWidth 64)).toRec 0 0
  | .budget n => (Cause.mk 0x08 0 n).toRec 0 0
  | .reclaim m g => (Cause.mk 0x09 0 ((g ++ m).setWidth 64)).toRec 0 0
  | .pullfail l _ r => (Cause.mk 0x0A 0 ((r ++ 0#2 ++ l).setWidth 64)).toRec 0 0

/-- What the quay or the task unit finds when it checks a posted trap again (R242). A BUDGET goes with the run of its task. -/
def State.postedValid (s : State) : Posted → Bool
  | .compart _ => true
  | .collfail _ => true
  | .budget n => s.runTask.any fun t => t.num == n
  | .reclaim m g => (s.moor m.toNat).valid && (s.moor m.toNat).expired && (s.moor m.toNat).gen == g
  | .pullfail l g _ => (s.land l.toNat).state == .failed && (s.land l.toNat).lgen == g

/-- The first of a list by R263. -/
def firstPosted : List Posted → Option Posted
  | [] => none
  | p :: ps =>
    match firstPosted ps with
    | none => some p
    | some q => if q.key < p.key then some q else some p

/-- The engine command of a single word or of an X form (R38 to R40). -/
def wordBase (w w2 : IWord) : Option Instr :=
  if fEng w = 7 then (decodeEngine (fTgt w).toNat (w2.extractLsb' 25 7).toNat (xBaseWord w w2)).map (·.1)
  else (decodeEngine (fEng w).toNat (fOp w).toNat w).map (·.1)

/-- What the strand has fetched enters no queue now: it is a control word, its fetch or the word itself traps, or its queue has no room (R14, R54). -/
def State.wordStays (s : State) : Except Cause (IWord × Option IWord) → Bool
  | .error _ => true
  | .ok (w, w2) =>
    match Eng.ofCode (if fEng w = 7 then fTgt w else fEng w) with
    | none => true
    | some e =>
      (rejects w (w2.getD 0)).isSome || !s.hasRoom e || (s.runTask.any fun t => !t.mask.getLsbD e.bit) ||
        ((wordBase w (w2.getD 0)).any supervisorOnly && !s.core.sys.sup)

/-- A posted trap is taken out of this wait (R242, R271, R309, R327, R329). -/
def Wait.open_ : Wait → Bool
  | .shut => false
  | .pred _ => false
  | .spec => false
  | _ => true

/-- A posted trap may be taken: no handler is active, the task is not speculative, and the strand stands before a control word, or in R14's stall, in a
wait that allows it. -/
def State.postedOpen (s : State) (here : Except Cause (IWord × Option IWord)) : Bool :=
  !s.core.sys.uact && !s.core.sys.sact && !s.specNow && s.core.wait.open_ && s.wordStays here

/-- A posted trap of a context that is away from the core stays pending until its return (R242, R271, R418): the quay's own, BUDGET but for the task that
runs, COMPART and COLLFAIL but for the running context. -/
def State.postedAway (s : State) (p : Posted) : Bool :=
  let other := s.ctx != s.quay.owner
  s.quay.absent &&
    match p with
    | .compart c => !(other && s.cmpOf s.ctx == c)
    | .collfail k => !(other && (s.comm s.ctx k.toNat).isSome && (s.comm s.quay.owner k.toNat).isNone)
    | .budget n => !(other && s.runTask.any fun t => t.num == n)
    | .reclaim _ _ => true
    | .pullfail _ _ _ => true

/-- A posted trap waits: for the ERET of a handler that found it pending, or for the return of its context (R242, R263). -/
def State.postedWaits (s : State) (p : Posted) : Bool :=
  s.postedAway p || s.core.kept.any fun k => k.1 == p && decide (k.2 ≤ s.core.depth)

/-! ## Engine traps (R33, R263, R264) -/

/-- An engine trap can be delivered: it waits for no handler's ERET (R263, R264), and under an active supervisor handler only the fault of a handler entry
is. -/
def State.deliverable (s : State) (t : TrapRec) : Bool :=
  (t.hent || !s.core.sys.sact) && (t.kept = 0 || decide (s.core.depth < t.kept))

/-- The first engine trap, lowest ENG first, and the machine without it. -/
def State.engineReady (s : State) : List Eng → Option (State × TrapRec)
  | [] => none
  | e :: es =>
    match (s.q.get e).faults.find? s.deliverable with
    | some t => some (s.setQ e { s.q.get e with faults := (s.q.get e).faults.erase t }, t)
    | none => s.engineReady es

/-- A held engine has completed the command that it was executing, or that command waits for something else (R33). -/
def State.engineAtRest (s : State) (e : Eng) : Bool :=
  let q := s.q.get e
  let stands (run : Option Running) (stuck hent : Bool) : Bool :=
    match run with
    | some r => stuck || (s.advance e hent r).isNone
    | none => true
  !q.held || (stands q.run q.stuck false && stands q.hrun q.hstuck true)

/-- The strand stands before a control word, or before an engine word that cannot enter its queue, for want of room or for the registers that it writes:
where an engine trap is taken (R33, R92; log entry 12). -/
def State.enginePoint (s : State) (here : Except Cause (IWord × Option IWord)) : Bool :=
  s.wordStays here || match s.core.wait with
    | .regs e v p a => s.hazard e ⟨v, p, a⟩
    | _ => false

/-- An engine trap is due before what the strand has fetched. -/
def State.engineDue (s : State) (here : Except Cause (IWord × Option IWord)) : Bool := (s.engineReady Eng.all).isSome && s.enginePoint here

/-- The trap that the strand takes next, before what it has fetched, with the machine from which it is removed (R263). An engine trap waits until every
other engine has stopped (R33). A posted trap that waits stays; another that is no longer valid is dropped. -/
def State.readyTrap (s : State) (here : Except Cause (IWord × Option IWord)) : Option (State × TrapRec) :=
  if s.core.phase != .running then none
  else if s.engineDue here then (if Eng.all.all s.engineAtRest then s.engineReady Eng.all else none)
  else
      if s.posted = [] || !s.postedOpen here then none
      else
        let live := s.posted.filter fun p => s.postedWaits p || s.postedValid p
        (firstPosted (live.filter fun p => !s.postedWaits p)).map fun p => ({ s with posted := live.erase p }, p.toRec)

/-- The strand takes the trap before its next word (R33, R242, R345); a task that has ended and awaits its drain or commit runs again (R352). -/
def State.takeReady (p : State × TrapRec) : State := (p.1.unmarkEnded.trapOrPark p.2 p.1.core.pc).tick 1

/-- The strand takes its next trap where that is one of the given kind. -/
def State.takeIf (s : State) (f : TrapRec → Bool) : State :=
  match s.readyTrap s.fetch with
  | some p => if f p.2 then State.takeReady p else s
  | none => s

def execEngineTrapDelivery (s : State) : Out := .next (s.takeIf fun t => t.eng != 0)
def execReclaim (s : State) : Out := .next (s.takeIf fun t => t.eng == 0 && t.code == 0x09)
def execPullfail (s : State) : Out := .next (s.takeIf fun t => t.eng == 0 && t.code == 0x0A)
def execBudget (s : State) : Out := .next (s.takeIf fun t => t.eng == 0 && t.code == 0x08)
def execCollfail (s : State) : Out := .next (s.takeIf fun t => t.eng == 0 && t.code == 0x0F)
def execCompart (s : State) : Out := .next (s.takeIf fun t => t.eng == 0 && t.code == 0x13)

/-- A fetch that the translation or the memory refuses: precise, at the word's address (R32). -/
def State.fetchTrap (s : State) (c : Cause) : State := (s.trapOrPark (c.toRec 0 0) s.core.pc).tick 1

def execFetchFault (s : State) : Out :=
  .next (match s.fetch with
    | .error c => s.fetchTrap c
    | .ok _ => s)

/-- form of sr.cause (R260). -/
def wordForm (w : IWord) : BitVec 2 :=
  if fEng w ≠ 7 then 0 else if fSub w = 0 ∧ 2 ≤ (fTgt w).toNat ∧ (fTgt w).toNat ≤ 6 then 1 else 2

/-- op of sr.cause (R260): OP, the BOP of an X form, the SUB of a long form. -/
def wordOp (w w2 : IWord) : BitVec 7 :=
  if wordForm w = 0 then fOp w else if wordForm w = 1 then w2.extractLsb' 25 7 else (fSub w).setWidth 7

/-- A word that the splitter rejects raises ILL with the subcode of R53's first condition (R13, R53). -/
def execUnassignedWord (w w2 : BitVec 32) (sub : BitVec 8) (s : State) : Out :=
  .next ((s.trapOrPark ((Cause.ill sub).toRec (wordOp w w2) (wordForm w)) s.core.pc).tick 1)

/-! ## Pre-emption (R29, R271, R347) -/

/-- preq finds a speculative task that is parked or waits by R344, whichever came first. -/
def State.specPreempted (s : State) : Bool :=
  s.core.sys.preq && s.specNow && (s.core.phase == .parked || (s.core.phase == .running && s.core.wait == .spec))

/-- The task is aborted at once, and PREEMPT is delivered with SPECABORT (R347). Its op and form are 0, by the model's choice: log entry 11. -/
def State.preemptSpec (s : State) : State :=
  let s := match s.runTask with | some t => s.abort t.num | none => s
  (s.preempt 0 false true 0).tick 1

/-- Harbourmaster sets preq. -/
def execPreemptRequest (s : State) : Out :=
  let s := s.setSys fun r => r.setStatus 5 true
  .next (if s.specPreempted then s.preemptSpec else s)

/-- The strand stands at a SAFEPT. -/
def State.atSafept (s : State) : Bool := s.peekWord s.core.pc.toNat == some 0x12400000

/-- The rest of the 2^21 cycles passes with the drain unfinished, and PREEMPT is taken with DIRTY (R29). Queues that have emptied leave the SAFEPT to its
own course. -/
def execDrainLimitExpiry (s : State) : Out :=
  match s.core.drainFrom with
  | none => .next s
  | some from_ =>
    let r := s.core.sys
    if !r.preq || r.uact || r.sact || s.specNow || s.core.region.isSome || !s.atSafept || s.allDrained then .next s
    else
      let s := s.tick (drainLimit - (s.now - from_).toNat)
      .next (s.drainExpired.tick 1)

/-! ## Restoring a strand (R31, R271) -/

/-- The system registers in the order of R269. -/
def sysOrder : List Nat :=
  (upTo 9) ++ ((upTo 8).map (0x10 + ·)) ++ ((upTo 7).map (0x20 + ·)) ++ ((upTo 5).map (0x30 + ·)) ++ ((upTo 3).map (0x40 + ·))

/-- A restored system register: the bits that it implements, hent and sup among them; a read-only register keeps its value. -/
def sysRestore (r : SysRegs) (sel : Nat) (v : Word) : SysRegs :=
  let m : BitVec 64 := 0x7FDFFFFF
  let p := sysPriv (BitVec.ofNat 12 sel)
  if sel = 0 then { r with status := (v.setWidth 9 &&& 0x01F#9) ||| (r.status &&& 0x1E0#9) }
  else if sel = 1 then { r with causelo := v &&& m }
  else if sel = 0x11 then { r with ucauselo := v &&& m }
  else if p == .ro then r
  else sysSet r (BitVec.ofNat 12 sel) (v &&& sysBits (BitVec.ofNat 12 sel))

/-- `n` values of `w` bits, each in `size` bytes, from an address. -/
def restoreVec (m : Memory) (a n size w : Nat) : Vector (BitVec w) n :=
  Vector.ofFn fun i => BitVec.ofNat w (leNat (m.getN (a + size * i.val) size))

def tileSlot (m : Memory) (a : Nat) : Tile := imageTile ((upTo 1024).map fun k => leNat (m.getN (a + 16 * k) 16))

/-- The cells of a memory from `lo` upward, `n` bytes of them, moved to `to`. -/
def movedCells (m : Memory) (lo n dest : Nat) : Memory :=
  (m.filter fun c => decide (lo ≤ c.1) && decide (c.1 < lo + n)).map fun c => (dest + (c.1 - lo), c.2)

/-- Replaces `n` bytes of a memory from `to` on. -/
def replaceCells (m new : Memory) (dest n : Nat) : Memory :=
  (m.filter fun c => decide (c.1 < dest)) ++ new ++ m.filter fun c => decide (dest + n ≤ c.1)

/-- The granules that a byte of a saved state array gives a state (R31, R141). -/
def savedStates (rank : Nat) (c : Nat × Byte) : Granules :=
  (upTo 4).filterMap fun j =>
    let st := GState.ofCode (c.2.toNat / 4 ^ j % 4)
    if st = .empty then none else some (granIdx rank (4 * c.1 + j), st)

def State.restoreSpad (s : State) (a : Nat) : State :=
  let lo := spadAddr s.selfRank 0
  let here (l : Loc) : Bool := match l with
    | .spad g => decide (lo / 16 ≤ g) && decide (g < lo / 16 + Config.spadGranules)
    | .glob _ => false
  { s with spad := replaceCells s.spad (movedCells s.mem a Config.spadSize lo) lo Config.spadSize
           poison := s.poison.filter fun l => !here l }

def State.restoreGran (s : State) (a : Nat) : State :=
  let lo := granIdx s.selfRank 0
  let new := (movedCells s.mem a 65536 0).flatMap (savedStates s.selfRank)
  { s with gran := (s.gran.filter fun p => decide (p.1 < lo)) ++ new ++
                   s.gran.filter fun p => decide (lo + Config.spadGranules ≤ p.1) }

/-- The registers of a save area at `a`. -/
def State.restoreRegs (s : State) (a : Nat) : State :=
  let m := s.mem
  let flags : BitVec 64 := BitVec.ofNat 64 (leNat (m.getN (a + 0x452E80) 8))
  let sys := (sysOrder.zip (upTo sysOrder.length)).foldl (init := s.core.sys) fun r p =>
    sysRestore r p.1 (BitVec.ofNat 64 (leNat (m.getN (a + 0x452E88 + 8 * p.2) 8)))
  { s with
    accPoison := []
    recent := []
    core := { s.core with
      pending := []
      kept := []
      depth := sys.uact.toNat + sys.sact.toNat
      a := Vector.ofFn fun i => tileSlot m (a + 0x400000 + 16384 * i.val)
      v := restoreVec m (a + 0x450000) 32 256 2048
      d := restoreVec m (a + 0x452000) 64 32 256
      n := restoreVec m (a + 0x452800) 8 128 1024
      x := (restoreVec m (a + 0x452C00) 32 8 64).set 0 0
      p := (restoreVec m (a + 0x452D00) 8 32 256).set 0 (BitVec.allOnes 256)
      l := restoreVec m (a + 0x452E00) 16 4 32
      b := restoreVec m (a + 0x452E40) 4 8 64
      tk := restoreVec m (a + 0x452E60) 16 2 16
      c := flags.extractLsb' 0 8 ||| 1
      vfull := flags.extractLsb' 8 32
      pfull := flags.extractLsb' 40 8
      afull := flags.extractLsb' 48 16
      sys := sys
      lmax := restoreVec m (a + 0x453400) 16 4 32 } }

/-- A system register's place in the save area at `a` (R269). -/
def savedSys (s : State) (a sel : Nat) : BitVec 64 :=
  BitVec.ofNat 64 (leNat (s.mem.getN (a + 0x452E88 + 8 * sysOrder.idxOf sel) 8))

/-- The task unit restores the read-only registers of the task whose strand comes back: the one that the save area numbers (R269). -/
def State.restoreTaskRegs (s : State) (a : Nat) : State :=
  match s.task (savedSys s a 0x22) with
  | none => s
  | some t => s.setSys fun r => { r with wid := t.wid, ts := t.ts, task := t.num, budget := (savedSys s a 0x24).setWidth 32 }

/-- Harbourmaster restores a strand from its save area, granule states last, and the quay returns (R31, R271). -/
def execStrandRestore (pa : BitVec 64) (s : State) : Out :=
  .next ((((s.performAll.restoreSpad pa.toNat).restoreRegs pa.toNat).restoreTaskRegs pa.toNat).restoreGran (pa.toNat + 0x440000)).quayBack

/-! ## Budget and commit (R336, R346, R349) -/

/-- The cycles that are left of the running task's budget pass (R346). -/
def execBudgetExhausted (s : State) : Out := .next (s.tick s.core.sys.budget.toNat)

def execTaskBecomesNonspeculative (task : BitVec 64) (s : State) : Out := .next (s.becomeNonspec task)

/-- A non-speculative task that runs on another core commits (R349); where it did so by HALT, that core is not free again in the launch (R321). This core's
task commits by its own TEND or HALT. -/
def execTaskCommit (c : CommitAsk) (s : State) : Out :=
  match s.task c.task with
  | none => .next s
  | some t =>
    if s.taskNonspec t && t.state != .ready && !(s.runTask.any fun r => r.num == c.task) then
      let s := (s.becomeNonspec c.task).commitTask t
      .next (if c.halted then s.haltedOn t else s)
    else .next s

end Sys2Proof.Machine
end

