-- ==== Sys2Proof/Machine/Package.lean ====
section
/-!
DEFINITION. Events of the package and its fabric ports (R19, R385 to R402, R419 to R421): reset, freeze, links, live service, keys and
attestation, failures, routes and compartments.
-/

namespace Sys2Proof.Machine

/-! ## Firmware images (R392 to R395) -/

/-- The image in firmware slot A (false) or B (true), by its number. -/
def Package.image (p : Package) (b : Bool) : Nat := if b then p.images[1] else p.images[0]

/-- Both firmware images of a number carry good signatures of the firmware key in hub ROM (R394). -/
def firmwareGood (n : Nat) : Bool :=
  (upTo 2).all fun k => verifySig Config.firmwareKey (Config.firmwareImage n k) (Config.firmwareSig n k)

/-- The measurement of the management image (0) or the hub image (1) of a number (R393). -/
def measurement (n k : Nat) : List Byte := sha384 (Config.firmwareImage n k)

/-! ## Reset, freeze, power (R19, R390, R391, R394, R396, R398) -/

/-- Device reset: registers, granules, scratchpad bytes, tokens and tables as `State.reset` gives them. HBM's bytes, the task counter (R333), the
enrolled keys, the firmware slots and their images, the IV counter (R420) and the dead channels stay. The slot marked active is verified first, then
the other; if both fail, the dies are held (R394). The device takes its number from the fabric configuration (R398). The manual does not say whether a
core that had failed (R2) is failed after a reset: by the model's choice it is not, log entry 49. -/
def execReset (s : State) : Out :=
  let p := s.pkg
  let slot := if firmwareGood (p.image p.slotB) then p.slotB else !p.slotB
  let self : QuayAddr := (s.core.sys.self.extractLsb' 12 20 ++ p.fabric.getD 0 : BitVec 32)
  .next { State.reset with
    core := { Core.reset with sys := { SysRegs.reset with self := self } }
    mem := s.mem, agenda := s.agenda, freeNo := s.freeNo + 1
    poison := s.poison.filter fun l => match l with | .spad _ => false | .glob _ => true
    unit := { TaskUnit.reset with nextNum := s.unit.nextNum }
    pkg := { Package.reset with keys := p.keys, slotB := slot, images := p.images, bootImage := p.image slot,
                                bootHeld := !firmwareGood (p.image slot), deadChannels := p.deadChannels, rewritten := p.rewritten,
                                fabric := p.fabric, devNo := p.fabric, sealNo := p.sealNo, refusing := p.refusing } }

/-- Every clock domain stops: the ports send a pause on every channel and hold their lanes idle (R390). -/
def State.freeze (s : State) : State :=
  if s.pkg.frozen then s
  else
    let up := (upTo 16).filter fun k => s.portUp (BitVec.ofNat 4 k)
    s.setPkg fun p => { p with frozen := true, idle := true, pausing := up.flatMap fun k => (upTo 8).map fun v => (k, v) }

/-- The FREEZE_N ball held low for 10 ns or more. -/
def execFreezeN (ns : Nat) (s : State) : Out := .next (if 10 ≤ ns then s.freeze else s)

/-- The TAP's FREEZE after a debug unlock. -/
def execTapFreeze (s : State) : Out := .next (if s.pkg.unlocked then s.freeze else s)

/-- What the scan network reads at a state element (R391): of the key epochs their numbers, since keys never leave the hub (R393). -/
def State.scan (s : State) : ScanAt → ScanValue
  | .pc => .word 64 s.core.pc.toNat
  | .c => .word 8 s.core.c.toNat
  | .x k => .word 64 (s.core.x[k.toNat]'(by omega)).toNat
  | .b k => .word 64 (s.core.b[k.toNat]'(by omega)).toNat
  | .v k => .word 2048 (s.core.v[k.toNat]'(by omega)).toNat
  | .p k => .word 256 (s.core.p[k.toNat]'(by omega)).toNat
  | .l k => .word 32 (s.core.l[k.toNat]'(by omega)).toNat
  | .n k => .word 1024 (s.core.n[k.toNat]'(by omega)).toNat
  | .d k => .word 256 (s.core.d[k.toNat]'(by omega)).toNat
  | .tk k => .word 16 (s.core.tk[k.toNat]'(by omega)).toNat
  | .lmax k => .word 32 (s.core.lmax[k.toNat]'(by omega)).toNat
  | .tile t => .tile (s.core.a[t.toNat]'(by omega)).anchor (s.core.a[t.toNat]'(by omega)).range
  | .full => .full s.core.vfull s.core.pfull s.core.afull
  | .region => .region s.core.region
  | .acc t e => .acc ((s.core.a[t.toNat]'(by omega)).elems[e % 1024]'(Nat.mod_lt _ (by decide)))
  | .sys sel => .word 64 (s.sysGet sel).toNat
  | .granule rank g => .granule (s.granState (granIdx rank g))
  | .spad rank off n => .bytes (s.spad.getN (spadAddr rank off) n)
  | .queue e => .queue (s.q.get e)
  | .moor k => .moor (s.moor k)
  | .inbox => .inbox s.quay.inbox
  | .land k => .land (s.land k)
  | .quay => .quay s.quay
  | .taskUnit => .unit s.unit
  | .context c => .context (s.context c)
  | .kv => .kv s.kv
  | .tasks => .tasks s.unit.tasks
  | .balloons => .versions s.unit.versions
  | .readSets => .readSets s.unit.reads
  | .wheel => .wheel s.unit.wheel
  | .binds d => .die (s.die d)
  | .ranges c => .ranges (s.context c).ranges.toList
  | .handles => .handles s.kv.handles
  | .kvFrames => .kvFrames s.kv.frames
  | .collectives => .collectives s.coll.comms
  | .flag c => .word 32 (s.unit.flags[c % 2048]'(Nat.mod_lt _ (by decide))).toNat
  | .routes => .routes s.pkg.routes
  | .core => .core s.core
  | .posted => .posted s.posted
  | .tlb => .tlb s.tlb
  | .coll => .coll s.coll
  | .keys => .keys s.pkg.keys
  | .epochs => .epochs (s.pkg.epochs.map fun e => (e.cmp, e.epoch, e.revoked))
  | .hbm pa n => .bytes (s.mem.getN pa n)

/-- The scan network reads a state element of a frozen package, and HBM by its memory port; it changes nothing else. Writing is refused. -/
def execScanRead (ask : ScanAsk) (s : State) : Out :=
  .next (if ask.write || !s.pkg.frozen then s else s.setPkg fun p => { p with scanOut := p.scanOut ++ [s.scan ask.at_] })

/-- A thermal trip asserts freeze and drives THERMTRIP_N low. -/
def execThermalTrip (s : State) : Out := .next (s.freeze.setPkg fun p => { p with thermtrip := true })

/-- The board removes core power. -/
def execCorePowerRemoved (s : State) : Out := .next (s.setPkg fun p => { p with off := true })

/-- The power manager withholds starts of VEC and MTX commands for whole cycles. -/
def execPowerThrottle (cycles : Nat) (s : State) : Out := .next (s.setPkg fun p => { p with throttle := cycles })

/-! ## Bind records of cores that leave (R319, R392, R397) -/

def clearedBind (cores : List Nat) (r : BindRecord) : BindRecord :=
  { r with mask := cores.foldl (fun m c => setBit m c false) r.mask }

/-- Harbourmaster clears cores' bits in every record of a die, unless its records are frozen; ready tasks are matched again. -/
def State.clearCores (s : State) (die : Nat) (cores : List Nat) : State :=
  let d := s.die die
  if d.mgmtFailed then s
  else
    let d := { d with binds := d.binds.map (clearedBind cores) }
    let t : State := { s with unit := { s.unit with dies := s.unit.dies.set (die % 4) d (Nat.mod_lt _ (by decide)) } }
    (t.unbound s).rematch

/-! ## Links (R386, R387) -/

/-- A lane of a boundary fails: a spare takes its place; without one the boundary loses the lane, and below 48 lanes it fails. -/
def execLaneFailure (boundary : Nat) (s : State) : Out :=
  let b := boundary % 4
  let spare := s.pkg.spares[b]'(Nat.mod_lt _ (by decide))
  let lanes := s.pkg.lanes[b]'(Nat.mod_lt _ (by decide))
  .next (if 4 ≤ boundary then s
    else if 0 < spare then s.setPkg fun p => { p with spares := p.spares.set b (spare - 1) (Nat.mod_lt _ (by decide)) }
    else
      let s := s.setPkg fun p => { p with lanes := p.lanes.set b (lanes - 1) (Nat.mod_lt _ (by decide)) }
      if lanes - 1 < 48 then
        let (x, y) := boundaryDies b
        ((s.setPkg fun p => { p with degraded := true }).clearCores x (upTo 64)).clearCores y (upTo 64)
      else s)

/-- PCIe rates in hundreds of megatransfers per second, from Base 6.0 down. -/
def pcieRates : List Nat := [640, 320, 160, 80, 50, 25]

/-- The link trains at the highest PCIe rate that both ends have, at x16 where the host has it and at x8 otherwise, and with CXL where the host offers a
Type 1 device. Without a common rate, or with neither width, it stays untrained: log entry 51. -/
def execHostLinkTraining (rates widths cxl : List Nat) (s : State) : Out :=
  let rate := if widths.contains 16 || widths.contains 8 then (pcieRates.find? rates.contains).getD 0 else 0
  .next (if s.pkg.hubFailed then s
    else s.setPkg fun p => { p with linkRate := rate, linkX16 := rate != 0 && widths.contains 16, cxl := rate != 0 && cxl.contains 1 })

/-! ## Live service (R392, R394) -/

/-- A core has nothing left: its task has ended, its queues are quiet and its quay's tables are empty. Other cores' strands are not in the model. -/
def State.coreLeft (s : State) (die core : Nat) : Bool :=
  !(s.unit.tasks.any fun t => t.state != .ready && t.die == die && t.core == core) &&
    ((die, core) != (s.selfDie, s.selfCore) || (s.quietLine && s.quayEmpty))

/-- The part that harbourmaster takes out of service is out once its cores have nothing left. -/
def State.serviceStep (s : State) : Option State :=
  match s.pkg.service with
  | none => none
  | some (.core die core) =>
    if s.coreLeft die core then
      some ({ s with unit := { s.unit with outOfService := s.unit.outOfService ++ [(die, core)] } }.setPkg fun p => { p with service := none })
    else none
  | some (.drain die) =>
    if (upTo 64).all (s.coreLeft die) then
      let d := { s.die die with drained := true }
      some ({ s with unit := { s.unit with dies := s.unit.dies.set (die % 4) d (Nat.mod_lt _ (by decide)) } }.setPkg fun p => { p with service := none })
    else none

/-- Harbourmaster begins to take cores of a die out of service, unless another part is in service; no record names them from now on. -/
def State.beginService (s : State) (part : Service) (die : Nat) (cores : List Nat) : State :=
  if s.pkg.service.isSome then s
  else
    let s := (s.clearCores die cores).setPkg fun p => { p with service := some part }
    s.serviceStep.getD s

/-- A core leaves service. -/
def execCoreOutOfService (die core : Nat) (s : State) : Out :=
  .next (if 4 ≤ die || 64 ≤ core || s.unit.outOfService.contains (die, core) then s else s.beginService (.core die core) die [core])

/-- A die is drained: its cores leave the records, and its other units stay in service. -/
def execDieDrain (die : Nat) (s : State) : Out :=
  .next (if 4 ≤ die || (s.die die).drained then s else s.beginService (.drain die) die (upTo 64))

/-- Accesses to the channel wait at most 200 µs: timing only. -/
def execHbmChannelRetrain (_stack _channel : Nat) (s : State) : Out := .next s

/-- Lanes are taken out and replaced: timing only. -/
def execLaneRecalibrate (_boundary : Nat) (s : State) : Out := .next s

/-- A new image in the inactive slot becomes active where it verifies; running launches and tables are untouched. Harbourmaster services one part at a
time. -/
def execFirmwareUpdate (s : State) : Out :=
  let p := s.pkg
  let n := s.freeNo + 2
  let images := if p.slotB then p.images.set 0 n else p.images.set 1 n
  .next (if p.service.isSome then s
    else { s with freeNo := s.freeNo + 1, pkg := { p with images := images, slotB := if firmwareGood n then !p.slotB else p.slotB } })

/-! ## Keys and attestation (R393, R395) -/

/-- An enrolled key's identifier: the first 8 bytes of the digest of its uncompressed public point. -/
def keyId (key : List Byte) : List Byte := (sha384 key).take 8

/-- A supervisor enrols a key in one of 32 slots; a key whose identifier is already present replaces that one. -/
def execKeyEnrol (slot : Nat) (key : List Byte) (s : State) : Out :=
  let at_ := match s.pkg.keys.find? fun k => keyId k.2 == keyId key with
    | some k => k.1
    | none => slot
  .next (if 32 ≤ slot then s
    else s.setPkg fun p => { p with keys := (p.keys.filter fun k => k.1 != at_) ++ [(at_, key)] })

/-- The device serial as a report gives it: bit 0 of its last byte tells of a debug unlock. -/
def State.reportSerial (s : State) : List Byte :=
  if s.pkg.unlocked then (Config.serial.set 15 (Config.serial[15] ||| 1)).toList else Config.serial.toList

/-- The private attestation key, derived at the last reset from the identity seed and the measurements of the images that were in use then (R393). -/
def State.attestKey (s : State) : Nat := Config.attestKeyOf (measurement s.pkg.bootImage 0) (measurement s.pkg.bootImage 1)

/-- The certificate of the attestation key: its public point and the identity key's signature of that (R393). -/
def State.attestCertificate (s : State) : List Byte :=
  let pub := publicKey (curveScalar s.attestKey)
  pub ++ signBy Config.identityKey (Config.certNonce s.pkg.bootImage) pub

/-- The nonce as a report carries it: a compartment's identifier in place of its first two bytes (R419). -/
def reportNonce (nonce : List Byte) : Option (BitVec 16) → List Byte
  | none => nonce
  | some cmp => leBytes 2 cmp.toNat ++ nonce.drop 2

/-- An attestation report: the nonce of 48 bytes, the measurements of both images in use, the serial, and the attestation key's signature of these
(R393, R395). -/
def execAttestationReport (ask : ReportAsk) (s : State) : Out :=
  let image := s.pkg.image s.pkg.slotB
  let body := reportNonce ask.nonce ask.cmp ++ measurement image 0 ++ measurement image 1 ++ s.reportSerial
  .next (if ask.nonce.length ≠ 48 then s
    else { s with freeNo := s.freeNo + 1, pkg := { s.pkg with
      reports := s.pkg.reports ++ [body ++ signBy s.attestKey (Config.reportNonce s.freeNo) body] } })

/-- A hub challenge signed with the key of slot 0 unlocks the package for debugging. -/
def execDebugUnlock (sig : List Byte) (s : State) : Out :=
  let good := match s.pkg.keys.find? fun k => k.1 == 0 with
    | some k => verifySig k.2 (Config.challenge s.freeNo).toList sig
    | none => false
  .next { s with freeNo := s.freeNo + 1, pkg := { s.pkg with unlocked := s.pkg.unlocked || good } }

/-! ## Failures (R2, R397) -/

/-- The contexts that a core's failure ends: those that a valid record gives it to (R397), and the one that holds its cluster's flag unit
(R311). -/
def State.coreContexts (s : State) (die core : Nat) : List (BitVec 4) :=
  let users := ((s.die die).binds.toList.filter fun r => r.valid && r.mask.getLsbD core).map (·.ctx)
  let holder := if die = s.selfDie ∧ core / 8 = s.selfCluster then
      (s.unit.launches.filter fun l => s.unit.flagOwner == some l.id && !l.complete).map (·.ctx)
    else []
  (users ++ holder).eraseDups

/-- A core fails: it leaves the records, and those contexts end with reason ECC, or 0xFF after a DoubleStop. -/
def execCoreFailure (die core : Nat) (s : State) : Out :=
  let here := (die, core) == (s.selfDie, s.selfCore)
  let reason : BitVec 8 := if here && s.core.phase == .stopped then 0xFF else 0x10
  let ctxs := s.coreContexts die core
  .next (if 4 ≤ die || 64 ≤ core || s.unit.failed.contains (die, core) then s
    else
      let s := s.clearCores die [core]
      let s : State := { s with unit := { s.unit with failed := s.unit.failed ++ [(die, core)] } }
      let s : State := ctxs.foldl (init := s) fun s c => s.endContext c reason
      if here then { s with core := { s.core with phase := .stopped } } else s)

/-- A die's bind records stay as they stand, and no new launch uses the die. -/
def execManagementCoreFailure (die : Nat) (s : State) : Out :=
  let d := { s.die die with mgmtFailed := true }
  .next (if 4 ≤ die then s
    else { s with unit := { s.unit with dies := s.unit.dies.set (die % 4) d (Nat.mod_lt _ (by decide)) } })

/-- The hub fails: host link, ports and completion writes stop, and the compute dies freeze. -/
def execHubFailure (s : State) : Out :=
  .next (s.freeze.setPkg fun p => { p with
    hubFailed := true, linkRate := 0, cxl := false, portLanes := Vector.replicate 16 0, wire := p.wire.filter fun x => x.port.isNone, rx := [] })

/-- A channel's lines are poisoned; its pages leave the range tables at the next launch. -/
def execHbmChannelFailure (stack channel : Nat) (s : State) : Out :=
  .next (if 8 ≤ stack || 32 ≤ channel || s.pkg.deadChannels.contains (stack, channel) then s
    else s.setPkg fun p => { p with
      deadChannels := p.deadChannels ++ [(stack, channel)]
      rewritten := p.rewritten.filter fun k => channelOf (16 * k) != (stack, channel) })

/-! ## Routes and ports (R399 to R402) -/

/-- A route entry is replaced whole; one that is valid with a distance class of 0 or 1 is refused. -/
def execRouteEntryWrite (dev : Nat) (e : RouteEntry) (s : State) : Out :=
  .next (if 4096 ≤ dev || (e.valid && decide (e.dclass.toNat < 2)) then s
    else s.setPkg fun p => { p with routes := (p.routes.filter fun r => r.1 != dev) ++ [(dev, e)] })

def execPortDown (port : Nat) (s : State) : Out := .next (s.setPort port 0)

/-- A port runs with every lane that trains, and is down with fewer than 2 of its 4. A device without a number keeps every port down (R398). -/
def execPortUp (port lanes : Nat) (s : State) : Out :=
  .next (if s.pkg.hubFailed || s.pkg.devNo.isNone then s else s.setPort port (if lanes < 2 then 0 else min lanes 4))

/-- A receiver asserts or releases pause on a virtual channel of a link. -/
def execPause (port vc : Nat) (on : Bool) (s : State) : Out :=
  .next (if 16 ≤ port || 8 ≤ vc then s
    else s.setPkg fun p => { p with paused := (p.paused.filter fun x => x != (port, vc)) ++ if on then [(port, vc)] else [] })

/-! ## Compartments (R419 to R421) -/

def execCompartmentAssign (ctx : BitVec 4) (cmp : BitVec 16) (s : State) : Out :=
  .next (if cmp = 0 then s else s.setContext ctx { s.context ctx with cmp := cmp })

/-- What a revoked device's consumers pend at the moorings of a compartment's collectives counts as declined (R229, R421). -/
def State.declineColl (s : State) (cmp : BitVec 16) (dev : BitVec 12) : State :=
  { s with coll := { s.coll with comms := s.coll.comms.map fun c =>
    if c.entry.cmp = cmp then
      let c := { c with owing := c.owing.filter fun m => m.addr.extractLsb' 0 12 != dev }
      match c.run with
      | some r => (r.moors.filter fun m => m.addr.extractLsb' 0 12 == dev).foldl (fun c m => c.releaseMoor m) c
      | none => c
    else c } }

/-- A new key epoch: frames of the one before are accepted for another 1 ms, and a revoked device's are refused from now on. -/
def execEpochInstall (cmp : BitVec 16) (epoch : EpochKey) (revoked : Option (BitVec 12)) (s : State) : Out :=
  let old := s.pkg.epochs.find? fun e => e.cmp == cmp
  let gone := (match old with | some e => e.revoked | none => []) ++ revoked.toList
  let prev := match old with | some e => (e.epoch, e.key, s.now) :: e.prev | none => []
  let s := s.setPkg fun p => { p with epochs := (p.epochs.filter fun e => e.cmp != cmp) ++ [⟨cmp, epoch.epoch, epoch.key, prev, gone⟩] }
  .next (match revoked with
    | some dev => (s.declineDevice cmp dev).declineColl cmp dev
    | none => s)

/-- The epochs of a compartment that were replaced 1 ms ago or earlier go: no frame of theirs is accepted any more; those replaced since stay. -/
def execEpochExpiry (cmp : BitVec 16) (s : State) : Out :=
  .next (s.setPkg fun p => { p with epochs := p.epochs.map fun e =>
    if e.cmp = cmp then { e with prev := e.prev.filter fun x => decide ((s.now - x.2.2).toNat < epochGrace) } else e })

/-- This device has been revoked: the mooring entries of the compartment's contexts are released, and COMPART is posted at the core where it
is in the compartment. -/
def execParticipantRevoke (cmp : BitVec 16) (s : State) : Out :=
  let s : State := (upTo 256).foldl (init := s) fun s m =>
    let e := s.moor m
    if e.valid && s.cmpOf e.ctx == cmp then s.release m else s
  let s : State := { s with coll := { s.coll with comms := s.coll.comms.map fun c =>
    if c.entry.cmp = cmp then (match c.run with | some r => c.releaseAll r | none => c) else c } }
  .next (if cmp != 0 && s.cmpOf s.ctx == cmp && s.core.phase != .halted then { s with posted := s.posted ++ [.compart cmp] } else s)

end Sys2Proof.Machine
end

