-- ==== Sys2Proof/Machine/Dispatch.lean ====
section
/-!
DEFINITION. One arm per constructor of `Instr`: the meaning of each instruction and event.
-/

namespace Sys2Proof.Machine

def exec (i : Instr) (s : State) : Host.Outcome State Fault Refusal :=
  match i with
  | .scld d a imm => Sys2Proof.Machine.execScld d a imm s
  | .scst d a imm => Sys2Proof.Machine.execScst d a imm s
  | .scamo d a b dbl op => Sys2Proof.Machine.execScamo d a b dbl op s
  | .scfence => Sys2Proof.Machine.execScfence s
  | .vadd o => Sys2Proof.Machine.execVadd o s
  | .vaddSat o => Sys2Proof.Machine.execVaddSat o s
  | .vsub o => Sys2Proof.Machine.execVsub o s
  | .vsubSat o => Sys2Proof.Machine.execVsubSat o s
  | .vmul o => Sys2Proof.Machine.execVmul o s
  | .vmulHi o => Sys2Proof.Machine.execVmulHi o s
  | .vfma o => Sys2Proof.Machine.execVfma o s
  | .vfmaNp o => Sys2Proof.Machine.execVfmaNp o s
  | .vfmaNa o => Sys2Proof.Machine.execVfmaNa o s
  | .vfmaNn o => Sys2Proof.Machine.execVfmaNn o s
  | .vmin o => Sys2Proof.Machine.execVmin o s
  | .vmax o => Sys2Proof.Machine.execVmax o s
  | .vminNan o => Sys2Proof.Machine.execVminNan o s
  | .vmaxNan o => Sys2Proof.Machine.execVmaxNan o s
  | .vabs o => Sys2Proof.Machine.execVabs o s
  | .vabd o => Sys2Proof.Machine.execVabd o s
  | .vneg o => Sys2Proof.Machine.execVneg o s
  | .vsign o => Sys2Proof.Machine.execVsign o s
  | .vclamp o => Sys2Proof.Machine.execVclamp o s
  | .vavg o => Sys2Proof.Machine.execVavg o s
  | .vmov o => Sys2Proof.Machine.execVmov o s
  | .vclz o => Sys2Proof.Machine.execVclz o s
  | .vpopc o => Sys2Proof.Machine.execVpopc o s
  | .vscale o => Sys2Proof.Machine.execVscale o s
  | .vgete o => Sys2Proof.Machine.execVgete o s
  | .vand o => Sys2Proof.Machine.execVand o s
  | .vor o => Sys2Proof.Machine.execVor o s
  | .vxor o => Sys2Proof.Machine.execVxor o s
  | .vnot o => Sys2Proof.Machine.execVnot o s
  | .vshl o => Sys2Proof.Machine.execVshl o s
  | .vshr o => Sys2Proof.Machine.execVshr o s
  | .vsra o => Sys2Proof.Machine.execVsra o s
  | .vshlI o => Sys2Proof.Machine.execVshlI o s
  | .vshrI o => Sys2Proof.Machine.execVshrI o s
  | .vsraI o => Sys2Proof.Machine.execVsraI o s
  | .vaddI o => Sys2Proof.Machine.execVaddI o s
  | .vminI o => Sys2Proof.Machine.execVminI o s
  | .vmaxI o => Sys2Proof.Machine.execVmaxI o s
  | .vcmp c cc a b ty => Sys2Proof.Machine.execVcmp c cc a b ty s
  | .vcmpI c cc a imm ty => Sys2Proof.Machine.execVcmpI c cc a imm ty s
  | .vsel d a b ta tb p => Sys2Proof.Machine.execVsel d a b ta tb p s
  | .vmask d p => Sys2Proof.Machine.execVmask d p s
  | .vmaskw c mode a q w => Sys2Proof.Machine.execVmaskw c mode a q w s
  | .vcvtRne d a ta src dst => Sys2Proof.Machine.execVcvtRne d a ta src dst s
  | .vcvtRz d a ta src dst => Sys2Proof.Machine.execVcvtRz d a ta src dst s
  | .vcvtRd d a ta src dst => Sys2Proof.Machine.execVcvtRd d a ta src dst s
  | .vcvtRu d a ta src dst => Sys2Proof.Machine.execVcvtRu d a ta src dst s
  | .vcvtSr d a ta src dst => Sys2Proof.Machine.execVcvtSr d a ta src dst s
  | .vredSum o => Sys2Proof.Machine.execVredSum o s
  | .vredMax o => Sys2Proof.Machine.execVredMax o s
  | .vredMin o => Sys2Proof.Machine.execVredMin o s
  | .vredAmax o => Sys2Proof.Machine.execVredAmax o s
  | .vredSsq o => Sys2Proof.Machine.execVredSsq o s
  | .vscanSum o => Sys2Proof.Machine.execVscanSum o s
  | .vscanMax o => Sys2Proof.Machine.execVscanMax o s
  | .vexp2 o => Sys2Proof.Machine.execVexp2 o s
  | .vlog2 o => Sys2Proof.Machine.execVlog2 o s
  | .vrcp o => Sys2Proof.Machine.execVrcp o s
  | .vrsq o => Sys2Proof.Machine.execVrsq o s
  | .vperm o => Sys2Proof.Machine.execVperm o s
  | .vpermRot o => Sys2Proof.Machine.execVpermRot o s
  | .vpermRev o => Sys2Proof.Machine.execVpermRev o s
  | .vpermZip o => Sys2Proof.Machine.execVpermZip o s
  | .vpermUnz o => Sys2Proof.Machine.execVpermUnz o s
  | .vbcast o => Sys2Proof.Machine.execVbcast o s
  | .vsplat d a ty => Sys2Proof.Machine.execVsplat d a ty s
  | .vsplatI d imm => Sys2Proof.Machine.execVsplatI d imm s
  | .vsplatL d imm => Sys2Proof.Machine.execVsplatL d imm s
  | .viota d ty => Sys2Proof.Machine.execViota d ty s
  | .pand d a b ta tb => Sys2Proof.Machine.execPand d a b ta tb s
  | .por d a b ta tb => Sys2Proof.Machine.execPor d a b ta tb s
  | .pnot d a ta => Sys2Proof.Machine.execPnot d a ta s
  | .pxor d a b ta tb => Sys2Proof.Machine.execPxor d a b ta tb s
  | .vldW o => Sys2Proof.Machine.execVldW o s
  | .vldC o => Sys2Proof.Machine.execVldC o s
  | .vldN o => Sys2Proof.Machine.execVldN o s
  | .vstW o => Sys2Proof.Machine.execVstW o s
  | .vstN o => Sys2Proof.Machine.execVstN o s
  | .vgthW o => Sys2Proof.Machine.execVgthW o s
  | .vgthC o => Sys2Proof.Machine.execVgthC o s
  | .vgthN o => Sys2Proof.Machine.execVgthN o s
  | .vsctW o => Sys2Proof.Machine.execVsctW o s
  | .vsctN o => Sys2Proof.Machine.execVsctN o s
  | .pld p dn x0 x1 => Sys2Proof.Machine.execPld p dn x0 x1 s
  | .pst p dn x0 x1 => Sys2Proof.Machine.execPst p dn x0 x1 s
  | .vconfGap c a x => Sys2Proof.Machine.execVconfGap c a x s
  | .vconfDrift c a b x => Sys2Proof.Machine.execVconfDrift c a b x s
  | .vsig t => Sys2Proof.Machine.execVsig t s
  | .vwaitk t => Sys2Proof.Machine.execVwaitk t s
  | .mzero t => Sys2Proof.Machine.execMzero t s
  | .mzeroAll => Sys2Proof.Machine.execMzeroAll s
  | .manch t a => Sys2Proof.Machine.execManch t a s
  | .manchI t imm => Sys2Proof.Machine.execManchI t imm s
  | .mmaS8 d1 d2 n t zf => Sys2Proof.Machine.execMmaS8 d1 d2 n t zf s
  | .mmaN8 d1 d2 n t zf => Sys2Proof.Machine.execMmaN8 d1 d2 n t zf s
  | .mmaBfx8 d1 d2 n t zf => Sys2Proof.Machine.execMmaBfx8 d1 d2 n t zf s
  | .mmaS16 d1 d2 n t zf => Sys2Proof.Machine.execMmaS16 d1 d2 n t zf s
  | .mmaN16 d1 d2 n t zf => Sys2Proof.Machine.execMmaN16 d1 d2 n t zf s
  | .mmaBfx16 d1 d2 n t zf => Sys2Proof.Machine.execMmaBfx16 d1 d2 n t zf s
  | .mmaZS8 d1 d2 n t zf => Sys2Proof.Machine.execMmaZS8 d1 d2 n t zf s
  | .mmaZN8 d1 d2 n t zf => Sys2Proof.Machine.execMmaZN8 d1 d2 n t zf s
  | .mmaZS16 d1 d2 n t zf => Sys2Proof.Machine.execMmaZS16 d1 d2 n t zf s
  | .mmaZN16 d1 d2 n t zf => Sys2Proof.Machine.execMmaZN16 d1 d2 n t zf s
  | .mgoS8 d1 d2 n t zf => Sys2Proof.Machine.execMgoS8 d1 d2 n t zf s
  | .mgoN8 d1 d2 n t zf => Sys2Proof.Machine.execMgoN8 d1 d2 n t zf s
  | .mgoBfx8 d1 d2 n t zf => Sys2Proof.Machine.execMgoBfx8 d1 d2 n t zf s
  | .mgoS16 d1 d2 n t zf => Sys2Proof.Machine.execMgoS16 d1 d2 n t zf s
  | .mgoN16 d1 d2 n t zf => Sys2Proof.Machine.execMgoN16 d1 d2 n t zf s
  | .mgoBfx16 d1 d2 n t zf => Sys2Proof.Machine.execMgoBfx16 d1 d2 n t zf s
  | .mpackPi d1 d2 n sl => Sys2Proof.Machine.execMpackPi d1 d2 n sl s
  | .mpackPb d1 d2 n sl => Sys2Proof.Machine.execMpackPb d1 d2 n sl s
  | .mrdF32 d1 n t q => Sys2Proof.Machine.execMrdF32 d1 n t q s
  | .mrdBf16 d1 n t q => Sys2Proof.Machine.execMrdBf16 d1 n t q s
  | .mrdBfx8 d1 n t q => Sys2Proof.Machine.execMrdBfx8 d1 n t q s
  | .mrdS8 d1 n t q => Sys2Proof.Machine.execMrdS8 d1 n t q s
  | .mrdN8 d1 n t q => Sys2Proof.Machine.execMrdN8 d1 n t q s
  | .mrdS32 d1 n t q => Sys2Proof.Machine.execMrdS32 d1 n t q s
  | .mrdvF32 v g t q => Sys2Proof.Machine.execMrdvF32 v g t q s
  | .mrdvBf16 v g t q => Sys2Proof.Machine.execMrdvBf16 v g t q s
  | .mrdvS32 v g t q => Sys2Proof.Machine.execMrdvS32 v g t q s
  | .msta d1 n t => Sys2Proof.Machine.execMsta d1 n t s
  | .mlda d1 n t => Sys2Proof.Machine.execMlda d1 n t s
  | .mstat d1 t => Sys2Proof.Machine.execMstat d1 t s
  | .msig t => Sys2Proof.Machine.execMsig t s
  | .mwaitk t => Sys2Proof.Machine.execMwaitk t s
  | .cpinW d1 d2 n sl q => Sys2Proof.Machine.execCpinW d1 d2 n sl q s
  | .cpinN d1 d2 n sl q => Sys2Proof.Machine.execCpinN d1 d2 n sl q s
  | .cpinWNt d1 d2 n sl q => Sys2Proof.Machine.execCpinWNt d1 d2 n sl q s
  | .cpinNNt d1 d2 n sl q => Sys2Proof.Machine.execCpinNNt d1 d2 n sl q s
  | .cpgathW d1 d2 n sl q => Sys2Proof.Machine.execCpgathW d1 d2 n sl q s
  | .cpgathN d1 d2 n sl q => Sys2Proof.Machine.execCpgathN d1 d2 n sl q s
  | .cpgathWNt d1 d2 n sl q => Sys2Proof.Machine.execCpgathWNt d1 d2 n sl q s
  | .cpgathNNt d1 d2 n sl q => Sys2Proof.Machine.execCpgathNNt d1 d2 n sl q s
  | .cpplaneW d1 d2 n sl q => Sys2Proof.Machine.execCpplaneW d1 d2 n sl q s
  | .cpplaneN d1 d2 n sl q => Sys2Proof.Machine.execCpplaneN d1 d2 n sl q s
  | .cpplaneWNt d1 d2 n sl q => Sys2Proof.Machine.execCpplaneWNt d1 d2 n sl q s
  | .cpplaneNNt d1 d2 n sl q => Sys2Proof.Machine.execCpplaneNNt d1 d2 n sl q s
  | .cpfillW d1 n sl => Sys2Proof.Machine.execCpfillW d1 n sl s
  | .cpfillN d1 n sl => Sys2Proof.Machine.execCpfillN d1 n sl s
  | .cpmovW d1 d2 n sl => Sys2Proof.Machine.execCpmovW d1 d2 n sl s
  | .cpmovN d1 d2 n sl => Sys2Proof.Machine.execCpmovN d1 d2 n sl s
  | .cppre d1 n => Sys2Proof.Machine.execCppre d1 n s
  | .lsig t => Sys2Proof.Machine.execLsig t s
  | .lwaitk t => Sys2Proof.Machine.execLwaitk t s
  | .lbwait slot => Sys2Proof.Machine.execLbwait slot s
  | .cpoutW d1 d2 n sl => Sys2Proof.Machine.execCpoutW d1 d2 n sl s
  | .cpoutC d1 d2 n sl => Sys2Proof.Machine.execCpoutC d1 d2 n sl s
  | .cpoutN d1 d2 n sl => Sys2Proof.Machine.execCpoutN d1 d2 n sl s
  | .cpscatW d1 d2 n sl => Sys2Proof.Machine.execCpscatW d1 d2 n sl s
  | .cpscatC d1 d2 n sl => Sys2Proof.Machine.execCpscatC d1 d2 n sl s
  | .cpscatN d1 d2 n sl => Sys2Proof.Machine.execCpscatN d1 d2 n sl s
  | .cpdeplW d1 d2 n sl => Sys2Proof.Machine.execCpdeplW d1 d2 n sl s
  | .cpdeplC d1 d2 n sl => Sys2Proof.Machine.execCpdeplC d1 d2 n sl s
  | .cpdeplN d1 d2 n sl => Sys2Proof.Machine.execCpdeplN d1 d2 n sl s
  | .cpwb d1 n sl => Sys2Proof.Machine.execCpwb d1 n sl s
  | .cpinv d1 n sl => Sys2Proof.Machine.execCpinv d1 n sl s
  | .ssig t => Sys2Proof.Machine.execSsig t s
  | .swaitk t => Sys2Proof.Machine.execSwaitk t s
  | .sbwait slot => Sys2Proof.Machine.execSbwait slot s
  | .note d1 d2 sl => Sys2Proof.Machine.execNote d1 d2 sl s
  | .noteG d1 g sl => Sys2Proof.Machine.execNoteG d1 g sl s
  | .land d1 sl => Sys2Proof.Machine.execLand d1 sl s
  | .unland => Sys2Proof.Machine.execUnland s
  | .unlandAll => Sys2Proof.Machine.execUnlandAll s
  | .decl => Sys2Proof.Machine.execDecl s
  | .declAll => Sys2Proof.Machine.execDeclAll s
  | .nwait d1 => Sys2Proof.Machine.execNwait d1 s
  | .nwaitN d1 => Sys2Proof.Machine.execNwaitN d1 s
  | .nwaitTag d1 => Sys2Proof.Machine.execNwaitTag d1 s
  | .landq d1 => Sys2Proof.Machine.execLandq d1 s
  | .ppol d1 => Sys2Proof.Machine.execPpol d1 s
  | .ppace d1 => Sys2Proof.Machine.execPpace d1 s
  | .pgrp d1 => Sys2Proof.Machine.execPgrp d1 s
  | .pclass => Sys2Proof.Machine.execPclass s
  | .rels => Sys2Proof.Machine.execRels s
  | .relsTag => Sys2Proof.Machine.execRelsTag s
  | .retend => Sys2Proof.Machine.execRetend s
  | .retendTag => Sys2Proof.Machine.execRetendTag s
  | .moorq d1 => Sys2Proof.Machine.execMoorq d1 s
  | .moorqTag d1 => Sys2Proof.Machine.execMoorqTag d1 s
  | .psig t => Sys2Proof.Machine.execPsig t s
  | .pwaitk t => Sys2Proof.Machine.execPwaitk t s
  | .pbwait slot => Sys2Proof.Machine.execPbwait slot s
  | .kvnew d1 => Sys2Proof.Machine.execKvnew d1 s
  | .kvappend d1 d2 => Sys2Proof.Machine.execKvappend d1 d2 s
  | .kvexit d1 => Sys2Proof.Machine.execKvexit d1 s
  | .kvfill d1 d2 => Sys2Proof.Machine.execKvfill d1 d2 s
  | .kvflush => Sys2Proof.Machine.execKvflush s
  | .kvfork d1 => Sys2Proof.Machine.execKvfork d1 s
  | .kvfree => Sys2Proof.Machine.execKvfree s
  | .kvtrim d1 => Sys2Proof.Machine.execKvtrim d1 s
  | .kvmapK d1 q => Sys2Proof.Machine.execKvmapK d1 q s
  | .kvmapV d1 q => Sys2Proof.Machine.execKvmapV d1 q s
  | .kvlen d1 => Sys2Proof.Machine.execKvlen d1 s
  | .kvpol => Sys2Proof.Machine.execKvpol s
  | .kvstat d1 => Sys2Proof.Machine.execKvstat d1 s
  | .kvowed d1 => Sys2Proof.Machine.execKvowed d1 s
  | .kvwait => Sys2Proof.Machine.execKvwait s
  | .kvbft d1 => Sys2Proof.Machine.execKvbft d1 s
  | .kvfenceDie => Sys2Proof.Machine.execKvfenceDie s
  | .kvfencePkg => Sys2Proof.Machine.execKvfencePkg s
  | .add d a b => Sys2Proof.Machine.execAdd d a b s
  | .sub d a b => Sys2Proof.Machine.execSub d a b s
  | .and d a b => Sys2Proof.Machine.execAnd d a b s
  | .or d a b => Sys2Proof.Machine.execOr d a b s
  | .xor d a b => Sys2Proof.Machine.execXor d a b s
  | .sll d a b => Sys2Proof.Machine.execSll d a b s
  | .srl d a b => Sys2Proof.Machine.execSrl d a b s
  | .sra d a b => Sys2Proof.Machine.execSra d a b s
  | .mul d a b => Sys2Proof.Machine.execMul d a b s
  | .mulhS d a b => Sys2Proof.Machine.execMulhS d a b s
  | .mulhN d a b => Sys2Proof.Machine.execMulhN d a b s
  | .divS d a b => Sys2Proof.Machine.execDivS d a b s
  | .divN d a b => Sys2Proof.Machine.execDivN d a b s
  | .remS d a b => Sys2Proof.Machine.execRemS d a b s
  | .remN d a b => Sys2Proof.Machine.execRemN d a b s
  | .minS d a b => Sys2Proof.Machine.execMinS d a b s
  | .minN d a b => Sys2Proof.Machine.execMinN d a b s
  | .maxS d a b => Sys2Proof.Machine.execMaxS d a b s
  | .maxN d a b => Sys2Proof.Machine.execMaxN d a b s
  | .clz d a => Sys2Proof.Machine.execClz d a s
  | .popc d a => Sys2Proof.Machine.execPopc d a s
  | .sel d a b c => Sys2Proof.Machine.execSel d a b c s
  | .addi d a imm => Sys2Proof.Machine.execAddi d a imm s
  | .andi d a imm => Sys2Proof.Machine.execAndi d a imm s
  | .ori d a imm => Sys2Proof.Machine.execOri d a imm s
  | .xori d a imm => Sys2Proof.Machine.execXori d a imm s
  | .slli d a k => Sys2Proof.Machine.execSlli d a k s
  | .srli d a k => Sys2Proof.Machine.execSrli d a k s
  | .srai d a k => Sys2Proof.Machine.execSrai d a k s
  | .limm d imm => Sys2Proof.Machine.execLimm d imm s
  | .limmSh d imm => Sys2Proof.Machine.execLimmSh d imm s
  | .cmp c cc a b => Sys2Proof.Machine.execCmp c cc a b s
  | .cmpi c cc a imm => Sys2Proof.Machine.execCmpi c cc a imm s
  | .btgt b off => Sys2Proof.Machine.execBtgt b off s
  | .btgtX b a imm => Sys2Proof.Machine.execBtgtX b a imm s
  | .brc b c => Sys2Proof.Machine.execBrc b c s
  | .brcF b c => Sys2Proof.Machine.execBrcF b c s
  | .br b => Sys2Proof.Machine.execBr b s
  | .brl b l => Sys2Proof.Machine.execBrl b l s
  | .ldBS d a imm => Sys2Proof.Machine.execLdBS d a imm s
  | .ldBN d a imm => Sys2Proof.Machine.execLdBN d a imm s
  | .ldHS d a imm => Sys2Proof.Machine.execLdHS d a imm s
  | .ldHN d a imm => Sys2Proof.Machine.execLdHN d a imm s
  | .ldWS d a imm => Sys2Proof.Machine.execLdWS d a imm s
  | .ldWN d a imm => Sys2Proof.Machine.execLdWN d a imm s
  | .ldD d a imm => Sys2Proof.Machine.execLdD d a imm s
  | .stB d a imm => Sys2Proof.Machine.execStB d a imm s
  | .stH d a imm => Sys2Proof.Machine.execStH d a imm s
  | .stW d a imm => Sys2Proof.Machine.execStW d a imm s
  | .stD d a imm => Sys2Proof.Machine.execStD d a imm s
  | .vany c p => Sys2Proof.Machine.execVany c p s
  | .vall c p => Sys2Proof.Machine.execVall c p s
  | .widf d k => Sys2Proof.Machine.execWidf d k s
  | .srr d sel => Sys2Proof.Machine.execSrr d sel s
  | .srw a sel => Sys2Proof.Machine.execSrw a sel s
  | .sig t => Sys2Proof.Machine.execSig t s
  | .waitk t => Sys2Proof.Machine.execWaitk t s
  | .bwait slot => Sys2Proof.Machine.execBwait slot s
  | .qmark => Sys2Proof.Machine.execQmark s
  | .drain mask => Sys2Proof.Machine.execDrain mask s
  | .qcancel d mask => Sys2Proof.Machine.execQcancel d mask s
  | .safept => Sys2Proof.Machine.execSafept s
  | .fence scope => Sys2Proof.Machine.execFence scope s
  | .trap imm => Sys2Proof.Machine.execTrap imm s
  | .eret => Sys2Proof.Machine.execEret s
  | .halt => Sys2Proof.Machine.execHalt s
  | .dld dn a => Sys2Proof.Machine.execDld dn a s
  | .nld n a => Sys2Proof.Machine.execNld n a s
  | .lset l a => Sys2Proof.Machine.execLset l a s
  | .lseti l imm => Sys2Proof.Machine.execLseti l imm s
  | .fladd a f m => Sys2Proof.Machine.execFladd a f m s
  | .flset d a f => Sys2Proof.Machine.execFlset d a f s
  | .flwait d a f => Sys2Proof.Machine.execFlwait d a f s
  | .waita d a b dbl => Sys2Proof.Machine.execWaita d a b dbl s
  | .amoAdd d a b dbl => Sys2Proof.Machine.execAmoAdd d a b dbl s
  | .amoMin d a b dbl uns => Sys2Proof.Machine.execAmoMin d a b dbl uns s
  | .amoMax d a b dbl uns => Sys2Proof.Machine.execAmoMax d a b dbl uns s
  | .amoAnd d a b dbl => Sys2Proof.Machine.execAmoAnd d a b dbl s
  | .amoOr d a b dbl => Sys2Proof.Machine.execAmoOr d a b dbl s
  | .amoXchg d a b dbl => Sys2Proof.Machine.execAmoXchg d a b dbl s
  | .amoCas d a b dbl => Sys2Proof.Machine.execAmoCas d a b dbl s
  | .pgreq a imm => Sys2Proof.Machine.execPgreq a imm s
  | .tspawn d a => Sys2Proof.Machine.execTspawn d a s
  | .tend => Sys2Proof.Machine.execTend s
  | .tyield => Sys2Proof.Machine.execTyield s
  | .tabort a => Sys2Proof.Machine.execTabort a s
  | .tbudget d a => Sys2Proof.Machine.execTbudget d a s
  | .tstat d a => Sys2Proof.Machine.execTstat d a s
  | .tfrontTs d t => Sys2Proof.Machine.execTfrontTs d t s
  | .tfrontWid d t => Sys2Proof.Machine.execTfrontWid d t s
  | .cstart d a b => Sys2Proof.Machine.execCstart d a b s
  | .cabort a => Sys2Proof.Machine.execCabort a s
  | .cstat d a => Sys2Proof.Machine.execCstat d a s
  | .nop => Sys2Proof.Machine.execNop s
  | .limmL d imm => Sys2Proof.Machine.execLimmL d imm s
  | .limmLh d imm => Sys2Proof.Machine.execLimmLh d imm s
  | .addiL d a imm => Sys2Proof.Machine.execAddiL d a imm s
  | .andiL d a imm => Sys2Proof.Machine.execAndiL d a imm s
  | .oriL d a imm => Sys2Proof.Machine.execOriL d a imm s
  | .xoriL d a imm => Sys2Proof.Machine.execXoriL d a imm s
  | .xForm base x => Sys2Proof.Machine.execXForm base x s
  | .cpinNL d1 d2 n sl q imm => Sys2Proof.Machine.execCpinNL d1 d2 n sl q imm s
  | .cpfillWL d1 n sl imm => Sys2Proof.Machine.execCpfillWL d1 n sl imm s
  | .cpfillNL d1 n sl imm => Sys2Proof.Machine.execCpfillNL d1 n sl imm s
  | .cpoutNL d1 d2 n sl imm => Sys2Proof.Machine.execCpoutNL d1 d2 n sl imm s
  | .noteL d1 d2 sl imm => Sys2Proof.Machine.execNoteL d1 d2 sl imm s
  | .landL d1 sl imm => Sys2Proof.Machine.execLandL d1 sl imm s
  | .unlandL imm => Sys2Proof.Machine.execUnlandL imm s
  | .declL imm => Sys2Proof.Machine.execDeclL imm s
  | .nwaitL d1 imm => Sys2Proof.Machine.execNwaitL d1 imm s
  | .retendL imm => Sys2Proof.Machine.execRetendL imm s
  | .kvpolL imm => Sys2Proof.Machine.execKvpolL imm s
  | .kvtrimL d1 imm => Sys2Proof.Machine.execKvtrimL d1 imm s
  | .reset => Sys2Proof.Machine.execReset s
  | .freezeN ns => Sys2Proof.Machine.execFreezeN ns s
  | .tapFreeze => Sys2Proof.Machine.execTapFreeze s
  | .scanRead ask => Sys2Proof.Machine.execScanRead ask s
  | .thermalTrip => Sys2Proof.Machine.execThermalTrip s
  | .powerThrottle cycles => Sys2Proof.Machine.execPowerThrottle cycles s
  | .laneFailure boundary => Sys2Proof.Machine.execLaneFailure boundary s
  | .hostLinkTraining rates widths cxl => Sys2Proof.Machine.execHostLinkTraining rates widths cxl s
  | .doorbell at_ addr => Sys2Proof.Machine.execDoorbell at_ addr s
  | .launchStart ctx args => Sys2Proof.Machine.execLaunchStart ctx args s
  | .taskCreate die => Sys2Proof.Machine.execTaskCreate die s
  | .dispatch die => Sys2Proof.Machine.execDispatch die s
  | .bindRecordReplace die idx r => Sys2Proof.Machine.execBindRecordReplace die idx r s
  | .dispatchPatternLoad die pat => Sys2Proof.Machine.execDispatchPatternLoad die pat s
  | .launchCompletion launch => Sys2Proof.Machine.execLaunchCompletion launch s
  | .contextEnd ctx reason => Sys2Proof.Machine.execContextEnd ctx reason s
  | .flagUnitAssign launch => Sys2Proof.Machine.execFlagUnitAssign launch s
  | .rangeEntryReplace ctx idx e => Sys2Proof.Machine.execRangeEntryReplace ctx idx e s
  | .pageInvalidate ctx va => Sys2Proof.Machine.execPageInvalidate ctx va s
  | .pageServiceReport frame => Sys2Proof.Machine.execPageServiceReport frame s
  | .scOperationIssue => Sys2Proof.Machine.execScOperationIssue s
  | .waitaMonitorFire => Sys2Proof.Machine.execWaitaMonitorFire s
  | .flagUpdateApply rank u => Sys2Proof.Machine.execFlagUpdateApply rank u s
  | .preemptRequest => Sys2Proof.Machine.execPreemptRequest s
  | .drainLimitExpiry => Sys2Proof.Machine.execDrainLimitExpiry s
  | .preemptRequestDrop land seg => Sys2Proof.Machine.execPreemptRequestDrop land seg s
  | .strandRestore pa => Sys2Proof.Machine.execStrandRestore pa s
  | .engineTrapDelivery => Sys2Proof.Machine.execEngineTrapDelivery s
  | .reclaim => Sys2Proof.Machine.execReclaim s
  | .pullfail => Sys2Proof.Machine.execPullfail s
  | .budget => Sys2Proof.Machine.execBudget s
  | .collfail => Sys2Proof.Machine.execCollfail s
  | .compart => Sys2Proof.Machine.execCompart s
  | .budgetExhausted => Sys2Proof.Machine.execBudgetExhausted s
  | .taskBecomesNonspeculative task => Sys2Proof.Machine.execTaskBecomesNonspeculative task s
  | .taskCommit task => Sys2Proof.Machine.execTaskCommit task s
  | .notice n => Sys2Proof.Machine.execNotice n s
  | .accept about => Sys2Proof.Machine.execAccept about s
  | .full moor who => Sys2Proof.Machine.execFull moor who s
  | .absent about => Sys2Proof.Machine.execAbsent about s
  | .noRoute about => Sys2Proof.Machine.execNoRoute about s
  | .present src => Sys2Proof.Machine.execPresent src s
  | .noticeResendTimeout moor dst => Sys2Proof.Machine.execNoticeResendTimeout moor dst s
  | .segmentRequestIssue => Sys2Proof.Machine.execSegmentRequestIssue s
  | .segmentRequest r => Sys2Proof.Machine.execSegmentRequest r s
  | .dataResponse land lgen seg cmp data => Sys2Proof.Machine.execDataResponse land lgen seg cmp data s
  | .doneResponse land lgen seg => Sys2Proof.Machine.execDoneResponse land lgen seg s
  | .staleResponse land lgen seg => Sys2Proof.Machine.execStaleResponse land lgen seg s
  | .eccerrResponse land lgen seg => Sys2Proof.Machine.execEccerrResponse land lgen seg s
  | .requestRetryTimeout land seg => Sys2Proof.Machine.execRequestRetryTimeout land seg s
  | .absentWaitTimeout land seg => Sys2Proof.Machine.execAbsentWaitTimeout land seg s
  | .acknowledgement src moor gen cidx coll => Sys2Proof.Machine.execAcknowledgement src moor gen cidx coll s
  | .decline src moor gen cidx coll => Sys2Proof.Machine.execDecline src moor gen cidx coll s
  | .mooringTimeout moor => Sys2Proof.Machine.execMooringTimeout moor s
  | .ackResendTimeout a => Sys2Proof.Machine.execAckResendTimeout a s
  | .communicatorCreate idx e => Sys2Proof.Machine.execCommunicatorCreate idx e s
  | .communicatorDestroy ctx idx => Sys2Proof.Machine.execCommunicatorDestroy ctx idx s
  | .stepNote ctx idx => Sys2Proof.Machine.execStepNote ctx idx s
  | .stepPull ctx idx ans => Sys2Proof.Machine.execStepPull ctx idx ans s
  | .stepPrs ctx idx ans => Sys2Proof.Machine.execStepPrs ctx idx ans s
  | .stepCopy ctx idx => Sys2Proof.Machine.execStepCopy ctx idx s
  | .stepWait ctx idx => Sys2Proof.Machine.execStepWait ctx idx s
  | .collectiveCompletion ctx idx => Sys2Proof.Machine.execCollectiveCompletion ctx idx s
  | .collectiveFailure ctx idx why peer => Sys2Proof.Machine.execCollectiveFailure ctx idx why peer s
  | .contextSuspend ctx => Sys2Proof.Machine.execContextSuspend ctx s
  | .contextResume ctx => Sys2Proof.Machine.execContextResume ctx s
  | .routeEntryWrite dev e => Sys2Proof.Machine.execRouteEntryWrite dev e s
  | .portDown port => Sys2Proof.Machine.execPortDown port s
  | .portUp port lanes => Sys2Proof.Machine.execPortUp port lanes s
  | .pause port vc on => Sys2Proof.Machine.execPause port vc on s
  | .compartmentAssign ctx cmp => Sys2Proof.Machine.execCompartmentAssign ctx cmp s
  | .epochInstall cmp epoch revoked => Sys2Proof.Machine.execEpochInstall cmp epoch revoked s
  | .epochExpiry cmp => Sys2Proof.Machine.execEpochExpiry cmp s
  | .participantRevoke cmp => Sys2Proof.Machine.execParticipantRevoke cmp s
  | .keyEnrol slot key => Sys2Proof.Machine.execKeyEnrol slot key s
  | .attestationReport ask => Sys2Proof.Machine.execAttestationReport ask s
  | .debugUnlock sig => Sys2Proof.Machine.execDebugUnlock sig s
  | .coreOutOfService die core => Sys2Proof.Machine.execCoreOutOfService die core s
  | .dieDrain die => Sys2Proof.Machine.execDieDrain die s
  | .hbmChannelRetrain stack channel => Sys2Proof.Machine.execHbmChannelRetrain stack channel s
  | .laneRecalibrate boundary => Sys2Proof.Machine.execLaneRecalibrate boundary s
  | .firmwareUpdate => Sys2Proof.Machine.execFirmwareUpdate s
  | .coreFailure die core => Sys2Proof.Machine.execCoreFailure die core s
  | .managementCoreFailure die => Sys2Proof.Machine.execManagementCoreFailure die s
  | .hubFailure => Sys2Proof.Machine.execHubFailure s
  | .unassignedWord w w2 sub => Sys2Proof.Machine.execUnassignedWord w w2 sub s
  | .fetchFault => Sys2Proof.Machine.execFetchFault s
  | .microsecondTick => Sys2Proof.Machine.execMicrosecondTick s
  | .hostWrite pa data => Sys2Proof.Machine.execHostWrite pa data s
  | .refused land lgen seg => Sys2Proof.Machine.execRefused land lgen seg s
  | .hbmChannelFailure stack channel => Sys2Proof.Machine.execHbmChannelFailure stack channel s
  | .corePowerRemoved => Sys2Proof.Machine.execCorePowerRemoved s

end Sys2Proof.Machine
end

