-- ==== Sys2Proof/Machine/Schedule.lean ====
section
/-!
DEFINITION. Which agent moves next, and what its move is: the strand, an engine, the quay, the task unit, the collective engine, or an event
that the schedule names. `Step.lean` calls these. The schedule is the model's own: log entry 1.
-/

namespace Sys2Proof.Machine

/-! ## The strand (R12, R13, R32, R53) -/

/-- The page TLB keeps the leaves by which the word was fetched (R157). -/
def State.fetched (s : State) (wide : Bool) : State :=
  let s := s.tlbTouch s.ctx permCtlRead s.core.pc.toNat
  if wide then s.tlbTouch s.ctx permCtlRead (s.core.pc.toNat + 4) else s

/-- The splitter takes the word or pair at the program counter: its meaning, once the accesses that it depends on are performed, or the trap of its fetch
(R54) or of its rejection. -/
noncomputable def runFetched (fetched : Except Cause (IWord × Option IWord)) (s : State) : Out :=
  match fetched with
  | .error c => .next (s.fetchTrap c)
  | .ok (w, w2) =>
    let s := (s.fetched w2.isSome).findLinks
    match decode w (w2.getD 0) with
    | .ok i => exec i (s.performFor i)
    | .error sub => exec (.unassignedWord w (w2.getD 0) sub.sub) s

noncomputable def runWord (s : State) : Out := runFetched s.fetch s

/-- The strand's move: the pre-emption of a speculative task that waits (R347), a trap that can be taken (R33, R242), a cycle of the wait for the engines to
stop before a trap of theirs (R33), a cycle of an SC word's wait or its issue (R329), a cycle of a wait for the page service (R327) or of an idle core, or the next
word, fetched as `fetched` says. -/
noncomputable def strandBy (fetched : Except Cause (IWord × Option IWord)) (s : State) : Out :=
  if s.specPreempted then .next s.preemptSpec
  else if s.core.phase != .running then .next (s.tick 1)
  else match s.readyTrap fetched with
    | some p => .next (State.takeReady p)
    | none =>
      if s.engineDue fetched then .next (s.tick 1)
      else match s.core.wait with
        | .sc i _ => exec i s
        | .page _ => .next (s.tick 1)
        | _ => runFetched fetched s

noncomputable def strandMove (s : State) : Out := strandBy s.fetch s

/-! ## The task unit and the collective engine on their own -/

/-- A task that has entered the frontier group becomes non-speculative (R336). -/
def State.frontierStep (s : State) : Option State :=
  (s.unit.tasks.find? fun t => !t.nonspec && s.inFrontier t).map fun t => s.becomeNonspec t.num

/-- The collective engine ends a collective, fails one, or performs the ready unit whose turn it is (R410, R413 to R417). -/
def State.collStep (s : State) : Option Out :=
  s.coll.comms.findSome? fun c =>
    let ctx := c.entry.ctx
    let k := c.idx.toNat
    match c.run with
    | none => none
    | some r =>
      if s.collAway c then none
      else match r.failing with
        | some (why, peer) => some (execCollectiveFailure ctx k why peer s)
        | none =>
          if r.pull.isNone && (s.atStep c (r.cpb + 4) r).passed then
            (if r.moors.isEmpty then some (execCollectiveCompletion ctx k s) else none)
          else match s.unitDue ctx k with
            | some (_, _, .ok (.data u)) =>
              some (match u.d.op.toNat with
                | 1 => execStepNote ctx k s
                | 2 => execStepPull ctx k .start s
                | 3 => execStepPrs ctx k .start s
                | _ => execStepCopy ctx k s)
            | some _ => some (execStepWait ctx k s)
            | none => none

/-- DoubleStop stops every queue with its contents in place (R264); otherwise an engine makes its next move. -/
def State.engineMove (s : State) (e : Eng) : Option State := if s.core.phase == .stopped then none else s.engineStep e

/-- The first engine, in ENG order, that can move. -/
def State.enginesMove (s : State) : Option State := if s.core.phase == .stopped then none else s.enginesStep Eng.all

/-- A part leaves service once its cores have nothing left (R392). While the core runs nothing, its die's task unit completes a launch, creates a task or
dispatches one (R321, R323, R333). Harbourmaster ends the context of a core that a DoubleStop stopped, with reason 0xFF (R264, R323). -/
def State.unitStep (s : State) : Option State :=
  match s.serviceStep with
  | some s => some s
  | none =>
  if s.core.phase == .running || s.specPreempted then none
  else if s.core.phase == .stopped && !(s.context s.ctx).ended then some (s.endContext s.ctx 0xFF)
  else match s.unit.launches.find? fun l => !l.complete && s.launchDone l with
    | some l => some (s.completeLaunch l).occupied
    | none =>
      match s.createTask s.selfDie with
      | some s => some s.occupied
      | none => (s.dispatchOn s.selfDie).map State.occupied

/-- The move of an empty schedule: the first agent, in this order, that has something to do. -/
noncomputable def autoMove (s : State) : Out :=
  match s.frameStep with
  | some o => o
  | none =>
    match s.sinkStep with
    | some o => o
    | none =>
    match s.arrivedStep with
    | some s => .next s
    | none =>
      match s.issueSeg with
      | some s => .next s
      | none =>
        match s.frontierStep with
        | some s => .next s
        | none =>
          match s.enginesMove with
          | some s => .next s
          | none =>
            match s.collStep with
            | some o => o
            | none =>
              match s.unitStep with
              | some s => .next s
              | none => strandMove s

/-! ## Moves between those of others -/

/-- The command whose move is an engine's next one: a started one, or one as it would start. -/
def State.actor (s : State) (e : Eng) : Option Running :=
  let q := s.q.get e
  match q.hrun, q.run.filter (fun r => !(q.stuck || s.runStands e false r)), q.hentry, q.entries with
  | some r, _, _, _ => some r
  | none, some r, _, _ => some r
  | none, none, some en, _ => some (s.startRun en)
  | none, none, none, en :: _ => if q.run.isNone then some (s.startRun en) else none
  | none, none, none, [] => none

/-- A command's next access waits for a state that is there: it is ordered after the write that set it, whatever else it may find older (R213, R254). -/
def State.observeNext (s : State) (e : Eng) (r : Running) : State :=
  match r.stage, r.reads, r.writes with
  | .reading, v :: _, _ => s.observeAt (r.agent e) v.loc v.qual
  | .writing, _, w :: _ => s.observeAt (r.agent e) w.loc w.qual
  | .fresh, _, _ =>
    match copyOf r.entry.instr with
    | some op => match copyIndex r (r.view s) op with
      | .ok (some (ps, _)) => s.observeIndex r ps
      | _ => s
    | none => s
  | _, _, _ => s

/-- An engine's move that takes pieces as they were before their newest writes, where nothing has ordered the command after those (R253, R255). -/
def State.staleMove (s : State) (e : Eng) (views : List (Loc × Nat)) : Option State :=
  match s.actor e with
  | none => none
  | some r => (s.observeNext e r).withViews (r.agent e) views fun s => s.engineMove e

/-- STQ's move in its window, the pieces taken so. -/
def State.earlyStale (s : State) (hent : Bool) (j m : Nat) (views : List (Loc × Nat)) : Option State :=
  match (if hent then s.q.stq.hrun else s.q.stq.run) with
  | none => none
  | some r =>
    let now := match r.ahead.find? fun a => a.iter == r.iter + j with
      | some a => { r.withIter a with writes := a.writes.drop m }
      | none => { r.resumeAt (r.iter + j) with first := r.first }
    (s.observeNext .stq now).withViews (r.agent .stq) views fun s => s.earlyMove hent j m

/-- The address and size that a word of the strand reads: a scalar load, or the 64 bytes of a TSPAWN or CSTART. -/
def loadSpan (s : State) : Instr → Option (Word × Nat)
  | .tspawn _ a => some (s.x a, 64)
  | .cstart _ _ b => some (s.x b, 64)
  | i => (accessOf s i).bind fun a => if a.use = .store then none else some (a.ea, a.n)

/-- The strand's next word and the pieces that it reads, where it is such a word and passes its checks. -/
noncomputable def State.loadLocs (s : State) : List Loc :=
  match s.fetch with
  | .ok (w, w2) =>
    match decode w (w2.getD 0) with
    | .ok i =>
      let s := s.performFor i
      match loadSpan s i with
      | some (ea, n) => match resolveScalar s permCtlRead true ea n with
        | .ok r => r.locs.map (·.1)
        | _ => []
      | none => []
    | .error _ => []
  | .error _ => []

/-- Pieces with what has been read of them. -/
abbrev ReadPieces := List (Loc × BitVec 128)

/-- The moves of engines between the reads of some pieces, in order: the first `k` pieces have been read before each. -/
def State.cutMoves (ls : List Loc) : List (Nat × Eng) → State → ReadPieces → State × ReadPieces
  | [], s, got => (s, got)
  | (k, e) :: rest, s, got =>
    let new := ((ls.take k).filter fun l => !got.any (·.1 == l)).map fun l => (l, s.pieceAt l)
    State.cutMoves ls rest ((s.engineMove e).getD s) (got ++ new)

/-- The machine with pieces as they were read. -/
def State.asRead (s : State) (got : ReadPieces) : State :=
  got.foldl (fun s p => s.putPieceAt p.1 (BitVec.allOnes 16) p.2) s

/-- The machine with those pieces as they stand in `t` again, but for one that the word itself has written. -/
def State.asStands (s t : State) (got : ReadPieces) : State :=
  got.foldl (fun s p => if s.pieceAt p.1 = p.2 then s.putPieceAt p.1 (BitVec.allOnes 16) (t.pieceAt p.1) else s) s

/-- The strand's word, its read not atomic as a whole: engines move between the reads of its pieces (R16, R94). -/
noncomputable def tornMove (cuts : List (Nat × Eng)) (s : State) : Out :=
  let p := State.cutMoves s.loadLocs cuts s []
  match strandMove (p.1.asRead p.2) with
  | .next u => .next (u.asStands p.1 p.2)
  | o => o

/-- The strand's move, where its word is a scalar access that would complete: it retires with the access still to be performed (R16, R97). What it reads of
the strand's own registers it waits for. Any other word has its own effect. -/
noncomputable def deferMove (s : State) : Out :=
  let word := match s.fetch with
    | .ok (w, w2) => (decode w (w2.getD 0)).toOption.map fun i => (w2.isSome, i)
    | .error _ => none
  match word with
  | none => strandMove s
  | some (wide, i) =>
    if s.specPreempted || s.core.phase != .running || (s.readyTrap s.fetch).isSome || s.engineDue s.fetch || s.core.wait != .none then strandMove s
    else match deferAccess i (((s.fetched wide).findLinks).performNamed i) with
      | some t => .next t
      | none => strandMove s

/-! ## What the outside world does -/

/-- The pieces that an uncorrectable error strikes: a granule of a scratchpad (R185), or the four pieces of a line of memory (R325). -/
def struck : Loc → List Loc
  | .spad g => [.spad g]
  | .glob k => (upTo 4).map fun j => .glob (k / 4 * 4 + j)

/-- An uncorrectable error arises: in memory, in an element of a tile, or in a flag cell (R210, R312, R325, R388). -/
def State.upset (s : State) : Upset → State
  | .piece l => { s with poison := s.poison ++ (struck l).filter fun x => !s.poison.contains x }
  | .tile t e => { s with accPoison := if s.accPoison.contains (t, e) then s.accPoison else s.accPoison ++ [(t, e)] }
  | .flag c => { s with unit := { s.unit with flagErrs := if s.unit.flagErrs.contains c then s.unit.flagErrs else s.unit.flagErrs ++ [c] } }

/-- The host refuses, or takes again, writes of a piece of its memory (R388). -/
def State.refuse (s : State) (k : Nat) (on : Bool) : State :=
  s.setPkg fun p => { p with refusing := (p.refusing.filter (· != k)) ++ if on && decide (Config.hostBase ≤ 16 * k) then [k] else [] }

/-- Where a function's window of 1 GiB begins: it lies in HBM as a whole (R387), at a place that is the implementation's. -/
noncomputable def windowAt (vf : Option (BitVec 4)) : Nat := Config.windowBase vf % (Config.hbmEnd - 2 ^ 30 + 1)

/-- The host writes through BAR2 of a function, its window of 1 GiB onto HBM (R387). -/
noncomputable def State.windowWrite (s : State) (vf : Option (BitVec 4)) (off : Nat) (data : List Byte) : Out :=
  if 2 ^ 30 < off + data.length then .next s else execHostWrite (BitVec.ofNat 64 (windowAt vf + off)) data s

/-- The host has read bytes through a BAR. -/
def State.hostRead (s : State) (bs : List Byte) : State := s.setPkg fun p => { p with hostReads := p.hostReads ++ [bs] }

/-- The host reads through BAR2 of a function (R387). Bytes that the hub cannot read give it none: log entry 70. -/
noncomputable def State.windowRead (s : State) (vf : Option (BitVec 4)) (off n : Nat) : State :=
  let a := windowAt vf + off
  if 2 ^ 30 < off + n || n = 0 then s else s.hostRead (if s.hubReads a n then s.mem.getN a n else [])

/-- The host reads 8 bytes of BAR0: a context's status word, 8 bytes above its doorbell (R389). -/
def State.statusRead (s : State) (at_ : Bar0At) : State :=
  if at_.off < 8 then s
  else match doorbellOf at_.vf (at_.off - 8) with
    | some c => s.hostRead (leBytes 8 (s.context c).status.toNat)
    | none => s

/-! ## Events of the schedule -/

/-- An event that the schedule may name. The words, the fetch fault and the rejected word come only from the fetch. -/
def scheduled : Instr → Bool
  | .unassignedWord _ _ _ => false
  | .fetchFault => false
  | i => !i.isWord

/-- What a stopped package still takes: a reset, the scan network, the removal of power, and assertions without effect (R390, R391, R396). -/
def whileFrozen : Instr → Bool
  | .reset => true
  | .scanRead _ => true
  | .corePowerRemoved => true
  | .freezeN _ => true
  | .thermalTrip => true
  | _ => false

/-- Cycles to the next tick of the microsecond clock (R230). -/
def State.tickLeft (s : State) : Nat := 2500 - s.now.toNat % 2500

/-- A state as the ticks of the microsecond clock that fell in a move leave it. -/
def State.afterTicks (s s' : State) : State :=
  (upTo (s'.now.toNat / 2500 - s.now.toNat / 2500)).foldl (fun t _ => t.microTick) s'

/-- What every move ends with: the ticks of the microsecond clock that fell in it, and the occupancy vectors brought up to date (R230, R319). -/
def tickedOut (s : State) : Out → Out
  | .next s' => .next (s.afterTicks s').occupied
  | o => o

/-- A move of the schedule. -/
noncomputable def moveBy (m : Move) (s : State) : Out :=
  match m with
  | .strand => tickedOut s (strandMove s)
  | .engine e => tickedOut s (.next ((s.engineMove e).getD s))
  | .stale e views => tickedOut s (.next ((s.staleMove e views).getD s))
  | .early hent j m views => tickedOut s (.next (if s.core.phase == .stopped then s else (s.earlyStale hent j m views).getD s))
  | .torn cuts => tickedOut s (tornMove cuts s)
  | .defer => tickedOut s (deferMove s)
  | .perform k => tickedOut s (.next ((s.performPart k).getD s))
  | .cacheWord pa => .next (s.cacheWord pa)
  | .cached first second => tickedOut s (strandBy (s.fetchBy first second) s)
  | .event .microsecondTick => exec .microsecondTick (s.tick s.tickLeft)
  | .event (.mooringTimeout m) => if s.moorEnds m then exec (.mooringTimeout m) (s.tick s.tickLeft) else .next s
  | .event i => if scheduled i then tickedOut s (exec i s) else .refused .notAnEvent
  | .pass n => tickedOut s (.next (s.tick n))
  | .upset u => .next (s.upset u)
  | .refuse k on => .next (s.refuse k on)
  | .fabric n => .next (s.setPkg fun p => { p with fabric := n })
  | .window vf off data => tickedOut s (s.windowWrite vf off data)
  | .windowRead vf off n => .next (s.windowRead vf off n)
  | .statusRead at_ => .next (s.statusRead at_)
  | .frame => tickedOut s (s.frameStep.getD (.next s))
  | .land k => tickedOut s (.next (((s.quay.arrived[k]?).bind s.landNext).getD s))
  | .carry port vc => .next (s.carry port vc)
  | .arrive f => .next (s.arrive f)
  | .sink port vc => tickedOut s (s.sink port vc)

/-- A move while the clocks stand still: what `whileFrozen` names has an effect, and the board may write the fabric configuration. -/
noncomputable def frozenMove (m : Move) (s : State) : Out :=
  match m with
  | .event i => if whileFrozen i then exec i s else .next s
  | .fabric n => .next (s.setPkg fun p => { p with fabric := n })
  | _ => .next s

/-- A move while neither firmware slot has verified: the dies stay in reset, and the hub answers the host's link alone (R394). -/
noncomputable def heldMove (m : Move) (s : State) : Out :=
  match m with
  | .event (.hostLinkTraining rates widths cxl) => exec (.hostLinkTraining rates widths cxl) s
  | m => frozenMove m s

/-- A move while the package has no power: only a reset brings it back, with nothing left in memory and a new task counter. -/
noncomputable def offMove (m : Move) (s : State) : Out :=
  match m with
  | .event .reset => exec .reset { s with mem := [], poison := [], unit := { s.unit with nextNum := 1 }, pkg := { s.pkg with off := false } }
  | .fabric n => .next (s.setPkg fun p => { p with fabric := n })
  | _ => .fault .powerOff

/-! ## Placing a word (log entry 1) -/

/-- The queues without faults that wait for the strand. -/
def Queues.quiet (q : Queues) : Queues :=
  let f (x : Queue) : Queue := { x with faults := [] }
  ⟨f q.vec, f q.mtx, f q.ldq, f q.stq, f q.prt, f q.kvc⟩

/-- The range entry by which the word at `pc` is fetched: its page and the next one, at physical address 0. -/
def fetchEntry (pc : Nat) : RangeEntry :=
  { vbase := BitVec.ofNat 40 (pc / 4096), vlast := BitVec.ofNat 40 (pc / 4096 + 1), pbase := 0, perm := permCtlRead, valid := true,
    demand := false, pg2m := false }

/-- The machine with 8 bytes placed where the strand fetches next, the strand running and due to move, and no trap waiting. -/
def State.placeWord (s : State) (bytes : List Byte) : State :=
  let pc := s.core.pc.toNat
  let c := s.context s.ctx
  let s := s.setContext s.ctx { c with ranges := c.ranges.set 0 (fetchEntry pc) }
  { s with
    core := { s.core with phase := .running, wait := .none }
    q := s.q.quiet
    mem := s.mem.putN (pc % 4096) bytes
    poison := s.poison.filter fun l => l != .glob (pc % 4096 / 16) && l != .glob ((pc % 4096 + 4) / 16)
    posted := []
    agenda := [.strand]
    pkg := { s.pkg with frozen := false, off := false, bootHeld := false, degraded := false, deadChannels := [], retired := [] } }

end Sys2Proof.Machine
end

