-- ==== Sys2Proof/Machine/Step.lean ====
section
/-!
DEFINITION. One step of the machine, and the placing of an instruction where the next step fetches.
-/

namespace Sys2Proof.Machine

/-- One step: the move at the head of the schedule, or where the schedule is empty the move of the first agent that has something to do. A package
without power stops (R396); one that is frozen or whose firmware did not verify stands still (R390, R394). -/
noncomputable def step (s : State) : Out :=
  match s.agenda with
  | [] =>
    if s.pkg.off then .fault .powerOff
    else if s.pkg.frozen || s.pkg.bootHeld then .next s
    else tickedOut s (autoMove s)
  | m :: rest =>
    let s := { s with agenda := rest }
    if s.pkg.off then offMove m s
    else if s.pkg.frozen then frozenMove m s
    else if s.pkg.bootHeld then heldMove m s
    else moveBy m s

/-- `s` with an instruction's words where the strand fetches next; the next step runs it. -/
def State.withFetchWord (s : State) (nbits w : Nat) : State := s.placeWord (bytesOfNat 8 (w % 2 ^ nbits))

end Sys2Proof.Machine
end

