-- ==== Sys2Proof/Safety.lean ====
section
/-!
DEFINITION. The terms in which statements about the machine are made: the invariants of every run, and what a move leaves alone.
-/

namespace Sys2Proof.Machine

/-! ## Invariants -/

/-- x0 reads 0, c0 reads 1 and p0 reads all ones (R19, R20). -/
def State.hardwired (s : State) : Prop := s.x 0 = 0 ∧ s.c 0 = true ∧ s.p 0 = BitVec.allOnes 256

/-- Global memory, the scratchpads and the granule states are in canonical form, so that equal contents are equal data. -/
def State.canonical (s : State) : Prop := s.mem.wf = true ∧ s.spad.wf = true ∧ s.gran.wf = true

/-! ## What a move leaves alone -/

/-- Every byte of global memory and of the cluster's scratchpads reads as before, and every granule has its state. -/
def sameMemory (s t : State) : Prop :=
  (∀ a, t.mem.get a = s.mem.get a) ∧ (∀ a, t.spad.get a = s.spad.get a) ∧ (∀ g, t.gran.get g = s.gran.get g) ∧
    t.unit.versions = s.unit.versions

/-- `s` with what the end of a word and the passing of cycles may change taken from `t`: the program counter, the delay region and the wait,
the clock and the power throttle, the budget (R346) and, where the budget ends, the posted trap or the parked task. Everything else is as
in `s`. -/
def passed (s t : State) : State :=
  { s with
    core := { s.core with
      pc := t.core.pc, region := t.core.region, wait := t.core.wait, phase := t.core.phase, saved := t.core.saved,
      monitor := t.core.monitor, sys := { s.core.sys with budget := t.core.sys.budget } }
    now := t.now
    pkg := { s.pkg with throttle := t.pkg.throttle }
    posted := t.posted
    unit := { s.unit with tasks := t.unit.tasks } }

/-- Where the strand stands after a control word of `words` words (R12, R87): past it, or, where it was the last word of a delay region, at the region's
target where it has one; the region counts it. While a budget that ends parks the task, the region is in the parked record. -/
def AfterWord (s t : State) (words : Nat) : Prop :=
  let past := s.core.pc + BitVec.ofNat 64 (4 * words)
  match s.core.region with
  | none => t.core.pc = past ∧ (t.core.phase = .running → t.core.region = none)
  | some r =>
    if r.left ≤ 1 then t.core.pc = r.target.getD past ∧ (t.core.phase = .running → t.core.region = none)
    else t.core.pc = past ∧ (t.core.phase = .running → t.core.region = some ⟨r.left - 1, r.target⟩)

/-- `t` follows `s` by a control word of `words` words that wrote `v` to register `d` (a write to x0 is discarded) and nothing else. -/
structure WroteX (s t : State) (d : BitVec 5) (v : Word) (words : Nat) : Prop where
  value : ∀ r, t.x r = if r = d ∧ d ≠ 0 then v else s.x r
  rest : t = passed { s with core := { s.core with x := t.core.x } } t
  memory : sameMemory s t
  next : AfterWord s t words

/-- `t` follows `s` by a control word of one word that wrote `v` to condition register `c` (a write to c0 is discarded) and nothing else. -/
structure WroteC (s t : State) (c : BitVec 3) (v : Bool) : Prop where
  value : ∀ r, t.c r = if r = c ∧ c ≠ 0 then v else s.c r
  rest : t = passed { s with core := { s.core with c := t.core.c } } t
  memory : sameMemory s t
  next : AfterWord s t 1

/-- `t` follows `u`, which is what a control word of one word made of the machine, by the end of that word. -/
structure Retired (u t : State) : Prop where
  rest : t = passed u t
  next : AfterWord u t 1
  wait : t.core.wait = .none

/-- `t` follows `s` by a word that waits: it stands where it stood, and only cycles have passed. -/
structure Waited (s t : State) (w : Wait) : Prop where
  rest : t = passed s t
  pc : t.core.pc = s.core.pc
  wait : t.core.phase = .running → t.core.wait = w

/-! ## How an instruction completes -/

/-- `i` completes at `s` as a control word of `words` words that writes `v` to register `d` and nothing else. -/
def CompletesX (i : Instr) (s : State) (d : BitVec 5) (v : Word) (words : Nat) : Prop :=
  ∃ t, exec i s = .next t ∧ WroteX s t d v words

/-- `i` completes at `s` as a control word of one word that writes `v` to condition register `c` and nothing else. -/
def CompletesC (i : Instr) (s : State) (c : BitVec 3) (v : Bool) : Prop :=
  ∃ t, exec i s = .next t ∧ WroteC s t c v

/-- `i` completes at `s` as a control word of one word whose effect makes `u` of `s`: only the end of the word follows. -/
def CompletesAs (i : Instr) (s u : State) : Prop := ∃ t, exec i s = .next t ∧ Retired u t

/-- `i` waits at `s`: it will be executed again, and only a cycle has passed. -/
def WaitsAt (i : Instr) (s : State) (w : Wait) : Prop := ∃ t, exec i s = .next t ∧ Waited s t w

/-- `i`, a control word of opcode `op`, traps at `s` with cause `c`: nothing of it is performed but the taking of the trap at its own
address (R32), which is put off with the task parked while the task is speculative (R345). That this takes one cycle is the model's choice: log entry 5. -/
def TrapsAt (i : Instr) (s : State) (op : BitVec 7) (c : Cause) : Prop :=
  exec i s = .next ((s.trapOrPark (c.toRec op 0) s.core.pc).tick 1)

/-- The checks of R307 refuse an atomic access of `n` bytes at `ea` that needs the permission bits `need`, with the trap `c`: a misaligned address, a
tagged pointer, an address that nothing covers, a missing permission, a page that is not resident, an uncorrectable error. -/
def AtomicTrap (s : State) (need : BitVec 8) (ea : Word) (n : Nat) (c : Cause) : Prop :=
  if ea.toNat % n ≠ 0 then c = ⟨0x03, 0, ea⟩
  else if 2 ^ 52 ≤ ea.toNat then c = ⟨0x05, 0x02, ea⟩
  else match s.translate s.ctx need ea.toNat with
    | .range => c = ⟨0x04, 0, ea⟩
    | .perm sub => c = ⟨0x05, sub, ea⟩
    | .nres => c = ⟨0x06, 0, ea⟩
    | .ecc x => c = ⟨0x10, 0, BitVec.ofNat 64 x⟩
    | .ok pa => s.lineBad pa = true ∧ c = ⟨0x10, 0, ea⟩

/-- The checks of R307 pass an atomic access: it is to physical address `pa`. -/
def AtomicOk (s : State) (need : BitVec 8) (ea : Word) (n pa : Nat) : Prop :=
  ea.toNat % n = 0 ∧ ea.toNat < 2 ^ 52 ∧ s.translate s.ctx need ea.toNat = .ok pa ∧ s.lineBad pa = false

/-- `i`, a transfer, opens a delay region at `s`, whose target is `target` where it is taken; `u` is `s` with the link that it writes. -/
def OpensRegion (i : Instr) (s u : State) (target : Option Word) : Prop :=
  ∃ t, exec i s = .next t ∧ t = passed u t ∧ t.core.pc = s.core.pc + 4 ∧ (t.core.phase = .running → t.core.region = some ⟨2, target⟩)

/-- The splitter can enqueue `en` in queue `e` now: the mode and the task's engine permissions admit it, no other queue writes or still reads a
register that it writes, and the queue, or in a handler its handler entry, has room (R14, R22, R54, R265, R332). -/
def canIssue (e : Eng) (en : Entry) (s : State) : Prop :=
  (supervisorOnly en.instr = true → s.core.sys.sup = true) ∧ (∀ t ∈ s.runTask, t.mask.getLsbD e.bit = true) ∧
    s.hazard e (dests s.core.sys.resp en.instr) = false ∧ s.hasRoom e = true

/-! ## Engine words -/

/-- The queue of a single engine word (R13, R49 to R52); none for control words, pairs and events. -/
def queueOf : Instr → Option Eng
  | .vadd _ => some .vec
  | .vaddSat _ => some .vec
  | .vsub _ => some .vec
  | .vsubSat _ => some .vec
  | .vmul _ => some .vec
  | .vmulHi _ => some .vec
  | .vfma _ => some .vec
  | .vfmaNp _ => some .vec
  | .vfmaNa _ => some .vec
  | .vfmaNn _ => some .vec
  | .vmin _ => some .vec
  | .vmax _ => some .vec
  | .vminNan _ => some .vec
  | .vmaxNan _ => some .vec
  | .vabs _ => some .vec
  | .vabd _ => some .vec
  | .vneg _ => some .vec
  | .vsign _ => some .vec
  | .vclamp _ => some .vec
  | .vavg _ => some .vec
  | .vmov _ => some .vec
  | .vclz _ => some .vec
  | .vpopc _ => some .vec
  | .vscale _ => some .vec
  | .vgete _ => some .vec
  | .vand _ => some .vec
  | .vor _ => some .vec
  | .vxor _ => some .vec
  | .vnot _ => some .vec
  | .vshl _ => some .vec
  | .vshr _ => some .vec
  | .vsra _ => some .vec
  | .vshlI _ => some .vec
  | .vshrI _ => some .vec
  | .vsraI _ => some .vec
  | .vaddI _ => some .vec
  | .vminI _ => some .vec
  | .vmaxI _ => some .vec
  | .vcmp _ _ _ _ _ => some .vec
  | .vcmpI _ _ _ _ _ => some .vec
  | .vsel _ _ _ _ _ _ => some .vec
  | .vmask _ _ => some .vec
  | .vmaskw _ _ _ _ _ => some .vec
  | .vcvtRne _ _ _ _ _ => some .vec
  | .vcvtRz _ _ _ _ _ => some .vec
  | .vcvtRd _ _ _ _ _ => some .vec
  | .vcvtRu _ _ _ _ _ => some .vec
  | .vcvtSr _ _ _ _ _ => some .vec
  | .vredSum _ => some .vec
  | .vredMax _ => some .vec
  | .vredMin _ => some .vec
  | .vredAmax _ => some .vec
  | .vredSsq _ => some .vec
  | .vscanSum _ => some .vec
  | .vscanMax _ => some .vec
  | .vexp2 _ => some .vec
  | .vlog2 _ => some .vec
  | .vrcp _ => some .vec
  | .vrsq _ => some .vec
  | .vperm _ => some .vec
  | .vpermRot _ => some .vec
  | .vpermRev _ => some .vec
  | .vpermZip _ => some .vec
  | .vpermUnz _ => some .vec
  | .vbcast _ => some .vec
  | .vsplat _ _ _ => some .vec
  | .vsplatI _ _ => some .vec
  | .viota _ _ => some .vec
  | .pand _ _ _ _ _ => some .vec
  | .por _ _ _ _ _ => some .vec
  | .pnot _ _ _ => some .vec
  | .pxor _ _ _ _ _ => some .vec
  | .vldW _ => some .vec
  | .vldC _ => some .vec
  | .vldN _ => some .vec
  | .vstW _ => some .vec
  | .vstN _ => some .vec
  | .vgthW _ => some .vec
  | .vgthC _ => some .vec
  | .vgthN _ => some .vec
  | .vsctW _ => some .vec
  | .vsctN _ => some .vec
  | .pld _ _ _ _ => some .vec
  | .pst _ _ _ _ => some .vec
  | .vconfGap _ _ _ => some .vec
  | .vconfDrift _ _ _ _ => some .vec
  | .vsig _ => some .vec
  | .vwaitk _ => some .vec
  | .mzero _ => some .mtx
  | .mzeroAll => some .mtx
  | .manch _ _ => some .mtx
  | .manchI _ _ => some .mtx
  | .mmaS8 _ _ _ _ _ => some .mtx
  | .mmaN8 _ _ _ _ _ => some .mtx
  | .mmaBfx8 _ _ _ _ _ => some .mtx
  | .mmaS16 _ _ _ _ _ => some .mtx
  | .mmaN16 _ _ _ _ _ => some .mtx
  | .mmaBfx16 _ _ _ _ _ => some .mtx
  | .mmaZS8 _ _ _ _ _ => some .mtx
  | .mmaZN8 _ _ _ _ _ => some .mtx
  | .mmaZS16 _ _ _ _ _ => some .mtx
  | .mmaZN16 _ _ _ _ _ => some .mtx
  | .mgoS8 _ _ _ _ _ => some .mtx
  | .mgoN8 _ _ _ _ _ => some .mtx
  | .mgoBfx8 _ _ _ _ _ => some .mtx
  | .mgoS16 _ _ _ _ _ => some .mtx
  | .mgoN16 _ _ _ _ _ => some .mtx
  | .mgoBfx16 _ _ _ _ _ => some .mtx
  | .mpackPi _ _ _ _ => some .mtx
  | .mpackPb _ _ _ _ => some .mtx
  | .mrdF32 _ _ _ _ => some .mtx
  | .mrdBf16 _ _ _ _ => some .mtx
  | .mrdBfx8 _ _ _ _ => some .mtx
  | .mrdS8 _ _ _ _ => some .mtx
  | .mrdN8 _ _ _ _ => some .mtx
  | .mrdS32 _ _ _ _ => some .mtx
  | .mrdvF32 _ _ _ _ => some .mtx
  | .mrdvBf16 _ _ _ _ => some .mtx
  | .mrdvS32 _ _ _ _ => some .mtx
  | .msta _ _ _ => some .mtx
  | .mlda _ _ _ => some .mtx
  | .mstat _ _ => some .mtx
  | .msig _ => some .mtx
  | .mwaitk _ => some .mtx
  | .cpinW _ _ _ _ _ => some .ldq
  | .cpinN _ _ _ _ _ => some .ldq
  | .cpinWNt _ _ _ _ _ => some .ldq
  | .cpinNNt _ _ _ _ _ => some .ldq
  | .cpgathW _ _ _ _ _ => some .ldq
  | .cpgathN _ _ _ _ _ => some .ldq
  | .cpgathWNt _ _ _ _ _ => some .ldq
  | .cpgathNNt _ _ _ _ _ => some .ldq
  | .cpplaneW _ _ _ _ _ => some .ldq
  | .cpplaneN _ _ _ _ _ => some .ldq
  | .cpplaneWNt _ _ _ _ _ => some .ldq
  | .cpplaneNNt _ _ _ _ _ => some .ldq
  | .cpfillW _ _ _ => some .ldq
  | .cpfillN _ _ _ => some .ldq
  | .cpmovW _ _ _ _ => some .ldq
  | .cpmovN _ _ _ _ => some .ldq
  | .cppre _ _ => some .ldq
  | .lsig _ => some .ldq
  | .lwaitk _ => some .ldq
  | .lbwait _ => some .ldq
  | .cpoutW _ _ _ _ => some .stq
  | .cpoutC _ _ _ _ => some .stq
  | .cpoutN _ _ _ _ => some .stq
  | .cpscatW _ _ _ _ => some .stq
  | .cpscatC _ _ _ _ => some .stq
  | .cpscatN _ _ _ _ => some .stq
  | .cpdeplW _ _ _ _ => some .stq
  | .cpdeplC _ _ _ _ => some .stq
  | .cpdeplN _ _ _ _ => some .stq
  | .cpwb _ _ _ => some .stq
  | .cpinv _ _ _ => some .stq
  | .ssig _ => some .stq
  | .swaitk _ => some .stq
  | .sbwait _ => some .stq
  | .note _ _ _ => some .prt
  | .noteG _ _ _ => some .prt
  | .land _ _ => some .prt
  | .unland => some .prt
  | .unlandAll => some .prt
  | .decl => some .prt
  | .declAll => some .prt
  | .nwait _ => some .prt
  | .nwaitN _ => some .prt
  | .nwaitTag _ => some .prt
  | .landq _ => some .prt
  | .ppol _ => some .prt
  | .ppace _ => some .prt
  | .pgrp _ => some .prt
  | .pclass => some .prt
  | .rels => some .prt
  | .relsTag => some .prt
  | .retend => some .prt
  | .retendTag => some .prt
  | .moorq _ => some .prt
  | .moorqTag _ => some .prt
  | .psig _ => some .prt
  | .pwaitk _ => some .prt
  | .pbwait _ => some .prt
  | .kvnew _ => some .kvc
  | .kvappend _ _ => some .kvc
  | .kvexit _ => some .kvc
  | .kvfill _ _ => some .kvc
  | .kvflush => some .kvc
  | .kvfork _ => some .kvc
  | .kvfree => some .kvc
  | .kvtrim _ => some .kvc
  | .kvmapK _ _ => some .kvc
  | .kvmapV _ _ => some .kvc
  | .kvlen _ => some .kvc
  | .kvpol => some .kvc
  | .kvstat _ => some .kvc
  | .kvowed _ => some .kvc
  | .kvwait => some .kvc
  | .kvbft _ => some .kvc
  | .kvfenceDie => some .kvc
  | .kvfencePkg => some .kvc
  | _ => none

/-- The entry that an engine word makes at `s`, with what it captures (R17): the registers that it names, in the entry's order, and every loop
register. -/
def entryOf (s : State) (i : Instr) (form : BitVec 2) (op : BitVec 7) (x : XRegs) : Entry :=
  { instr := i, form := form, op := op, x0 := s.x x.x0, x1 := s.x x.x1, x2 := s.x x.x2, x3 := s.x x.x3, x4 := s.x x.x4,
    loops := s.core.l, no := s.enqNo, depth := s.core.depth }

/-- `t` follows `s` by the enqueueing of `en` at the tail of queue `e`, or in its handler entry while a handler is active, and nothing else: the
registers that it writes are EMPTY, and the program counter has moved over its words (R13, R21, R265, R430). -/
structure Enqueued (s t : State) (e : Eng) (en : Entry) (words : Nat) : Prop where
  queue : t.q.get e =
    if s.core.sys.uact = true ∨ s.core.sys.sact = true then { s.q.get e with hentry := some en }
    else { s.q.get e with entries := (s.q.get e).entries ++ [en] }
  others : ∀ f, f ≠ e → t.q.get f = s.q.get f
  empty : t.core.vfull = s.core.vfull &&& ~~~(dests s.core.sys.resp en.instr).v ∧
    t.core.pfull = s.core.pfull &&& ~~~(dests s.core.sys.resp en.instr).p ∧ t.core.afull = s.core.afull &&& ~~~(dests s.core.sys.resp en.instr).a
  rest : t = passed { s with q := t.q, enqNo := s.enqNo + 1, core := { s.core with vfull := t.core.vfull, pfull := t.core.pfull, afull := t.core.afull } } t
  memory : sameMemory s t
  pc : t.core.pc = s.core.pc + BitVec.ofNat 64 (4 * words)
  region : t.core.phase = .running → t.core.region = s.core.region

/-- What the splitter does with a word or pair of `words` words that would enqueue `en` in queue `e`, at a state where it cannot: the trap of a
supervisor-only word in user mode, the trap of a task without permission for the engine, and the stalls (R14, R22, R54, R332). That a trap takes one cycle a
word is log entry 5, and that PERM of the engine mask carries the word's address is log entry 11: both are the model's choices. -/
structure HeldBack (i : Instr) (s : State) (e : Eng) (en : Entry) (words : Nat) : Prop where
  priv : supervisorOnly en.instr = true → s.core.sys.sup = false →
    exec i s = .next ((s.trapOrPark (Cause.toRec ⟨0x02, 0, 0⟩ en.op en.form) s.core.pc).tick words)
  perm : (supervisorOnly en.instr = true → s.core.sys.sup = true) → (∃ t ∈ s.runTask, t.mask.getLsbD e.bit = false) →
    exec i s = .next ((s.trapOrPark (Cause.toRec ⟨0x05, 3, s.core.pc⟩ en.op en.form) s.core.pc).tick words)
  stall : (supervisorOnly en.instr = true → s.core.sys.sup = true) → (∀ t ∈ s.runTask, t.mask.getLsbD e.bit = true) →
    s.hazard e (dests s.core.sys.resp en.instr) = true ∨ s.hasRoom e = false → WaitsAt i s .room

/-- An engine word enters its queue where it can, and is held back as `HeldBack` says where it cannot. -/
def Enters (i : Instr) (s : State) (e : Eng) (en : Entry) (words : Nat) : Prop :=
  (canIssue e en s → ∃ t, exec i s = .next t ∧ Enqueued s t e en words) ∧ HeldBack i s e en words

end Sys2Proof.Machine
end

