-- ==== Sys2Proof/Certificates/Slice0/Obligations.lean ====
section
/-!
DEFINITION. The statements for the provers.
-/

open Sys2Proof Sys2Proof.Machine

/-! ## Registers and integer words -/

/-- R20. A write to x0 or c0 changes nothing, and a word that the splitter passes never has p0 as a destination: one that names it raises
ILL there. -/
def Obligations.ConstantRegistersAreNotWritten : Prop :=
  (∀ (s : State) (v : Word), s.setX 0 v = s) ∧ (∀ (s : State) (b : Bool), s.setC 0 b = s) ∧
  (∀ (w w2 : IWord) (resp : BitVec 3) (i : Instr), decode w w2 = .ok i → (dests resp i).p.getLsbD 0 = false) ∧
  (∀ (w w2 : IWord) (sub : BitVec 8) (s : State),
    exec (.unassignedWord w w2 sub) s =
      .next ((s.trapOrPark ((Cause.ill sub).toRec (wordOp w w2) (wordForm w)) s.core.pc).tick 1))

/-- R80, R81. Every integer word of the table writes its result to X[D], whatever the state, and so never traps; and each has the encoding that
the rule gives. The immediate words compute as the register words do, with I12 sign-extended or as a count from 0 to 63, and a count from 64 on is
rejected. -/
def Obligations.IntegerAndImmediateWordsWriteTheirResults : Prop :=
  ((∀ (s : State) (d a b : BitVec 5),
     CompletesX (.add d a b) s d (s.x a + s.x b) 1 ∧
     CompletesX (.sub d a b) s d (s.x a - s.x b) 1 ∧
     CompletesX (.and d a b) s d (s.x a &&& s.x b) 1 ∧
     CompletesX (.or d a b) s d (s.x a ||| s.x b) 1 ∧
     CompletesX (.xor d a b) s d (s.x a ^^^ s.x b) 1 ∧
     CompletesX (.sll d a b) s d (BitVec.ofNat 64 ((s.x a).toNat * 2 ^ ((s.x b).toNat % 64))) 1 ∧
     CompletesX (.srl d a b) s d (BitVec.ofNat 64 ((s.x a).toNat / 2 ^ ((s.x b).toNat % 64))) 1 ∧
     CompletesX (.sra d a b) s d (BitVec.ofInt 64 ((s.x a).toInt / 2 ^ ((s.x b).toNat % 64))) 1 ∧
     CompletesX (.mul d a b) s d (s.x a * s.x b) 1 ∧
     CompletesX (.mulhS d a b) s d (BitVec.ofInt 64 ((s.x a).toInt * (s.x b).toInt / 2 ^ 64)) 1 ∧
     CompletesX (.mulhN d a b) s d (BitVec.ofNat 64 ((s.x a).toNat * (s.x b).toNat / 2 ^ 64)) 1 ∧
     CompletesX (.divS d a b) s d
       (if s.x b = 0 then 0xFFFFFFFFFFFFFFFF
        else if (s.x a).toInt = -2 ^ 63 ∧ (s.x b).toInt = -1 then 0x8000000000000000
        else BitVec.ofInt 64 ((s.x a).toInt.tdiv (s.x b).toInt)) 1 ∧
     CompletesX (.divN d a b) s d
       (if s.x b = 0 then 0xFFFFFFFFFFFFFFFF else BitVec.ofNat 64 ((s.x a).toNat / (s.x b).toNat)) 1 ∧
     CompletesX (.remS d a b) s d
       (if s.x b = 0 then s.x a
        else if (s.x a).toInt = -2 ^ 63 ∧ (s.x b).toInt = -1 then 0
        else BitVec.ofInt 64 ((s.x a).toInt - (s.x b).toInt * (s.x a).toInt.tdiv (s.x b).toInt)) 1 ∧
     CompletesX (.remN d a b) s d (if s.x b = 0 then s.x a else BitVec.ofNat 64 ((s.x a).toNat % (s.x b).toNat)) 1 ∧
     CompletesX (.minS d a b) s d (if (s.x a).toInt ≤ (s.x b).toInt then s.x a else s.x b) 1 ∧
     CompletesX (.minN d a b) s d (if (s.x a).toNat ≤ (s.x b).toNat then s.x a else s.x b) 1 ∧
     CompletesX (.maxS d a b) s d (if (s.x a).toInt ≥ (s.x b).toInt then s.x a else s.x b) 1 ∧
     CompletesX (.maxN d a b) s d (if (s.x a).toNat ≥ (s.x b).toNat then s.x a else s.x b) 1 ∧
     (∃ k, k ≤ 64 ∧ (s.x a).toNat < 2 ^ (64 - k) ∧ (k < 64 → 2 ^ (63 - k) ≤ (s.x a).toNat) ∧
       CompletesX (.clz d a) s d (BitVec.ofNat 64 k) 1) ∧
     CompletesX (.popc d a) s d (BitVec.ofNat 64 ((List.range 64).filter fun i => (s.x a).getLsbD i).length) 1) ∧
   ∀ (d a b : BitVec 5), ∀ p ∈ [((0x01 : BitVec 7), b, Instr.add d a b), (0x02, b, .sub d a b), (0x03, b, .and d a b), (0x04, b, .or d a b),
       (0x05, b, .xor d a b), (0x06, b, .sll d a b), (0x07, b, .srl d a b), (0x08, b, .sra d a b), (0x09, b, .mul d a b),
       (0x0A, b, .mulhS d a b), (0x0B, b, .mulhN d a b), (0x0C, b, .divS d a b), (0x0D, b, .divN d a b), (0x0E, b, .remS d a b),
       (0x0F, b, .remN d a b), (0x10, b, .minS d a b), (0x11, b, .minN d a b), (0x12, b, .maxS d a b), (0x13, b, .maxN d a b),
       (0x14, 0, .clz d a), (0x15, 0, .popc d a)],
     encodeWord p.2.2 = some (0#3 ++ p.1 ++ d ++ a ++ p.2.1 ++ 0#1 ++ 0#1 ++ 0#5)) ∧
  (∀ (s : State) (d a : BitVec 5) (imm : BitVec 12) (k : BitVec 6),
    CompletesX (.addi d a imm) s d (s.x a + imm.signExtend 64) 1 ∧
    CompletesX (.andi d a imm) s d (s.x a &&& imm.signExtend 64) 1 ∧
    CompletesX (.ori d a imm) s d (s.x a ||| imm.signExtend 64) 1 ∧
    CompletesX (.xori d a imm) s d (s.x a ^^^ imm.signExtend 64) 1 ∧
    CompletesX (.slli d a k) s d (BitVec.ofNat 64 ((s.x a).toNat * 2 ^ k.toNat)) 1 ∧
    CompletesX (.srli d a k) s d (BitVec.ofNat 64 ((s.x a).toNat / 2 ^ k.toNat)) 1 ∧
    CompletesX (.srai d a k) s d (BitVec.ofInt 64 ((s.x a).toInt / 2 ^ k.toNat)) 1 ∧
    encodeWord (.addi d a imm) = some (0#3 ++ 0x18#7 ++ d ++ a ++ imm) ∧
    encodeWord (.andi d a imm) = some (0#3 ++ 0x19#7 ++ d ++ a ++ imm) ∧
    encodeWord (.ori d a imm) = some (0#3 ++ 0x1A#7 ++ d ++ a ++ imm) ∧
    encodeWord (.xori d a imm) = some (0#3 ++ 0x1B#7 ++ d ++ a ++ imm) ∧
    encodeWord (.slli d a k) = some (0#3 ++ 0x1C#7 ++ d ++ a ++ (0#6 ++ k)) ∧
    encodeWord (.srli d a k) = some (0#3 ++ 0x1D#7 ++ d ++ a ++ (0#6 ++ k)) ∧
    encodeWord (.srai d a k) = some (0#3 ++ 0x1E#7 ++ d ++ a ++ (0#6 ++ k))) ∧
  ∀ (d a : BitVec 5) (imm : BitVec 12) (w2 : IWord), ∀ op ∈ [(0x1C : BitVec 7), 0x1D, 0x1E],
    64 ≤ imm.toNat → decode (0#3 ++ op ++ d ++ a ++ imm) w2 = .error .imm

/-- R23, R41, R45, R82 to R85. LIMM, LIMM.sh and the CTL long forms load or combine their immediates, a long form moving the program counter
by two words. CMP and CMPI write their condition's value to one condition bit, by the condition codes 0 to 11; VANY and VALL write whether some, or
every, bit of a predicate is 1, and wait while the predicate is EMPTY; what such a wait was ordered after comes before the words that follow (R253, R254). SEL selects by its condition bit, with
c0 always X[A]; its word is the one that R83 works out. -/
def Obligations.ConstantsComparesVotesAndSelections : Prop :=
  (∀ (s : State) (d a : BitVec 5) (i : BitVec 17) (imm : BitVec 32),
     CompletesX (.limm d i) s d (BitVec.ofInt 64 i.toInt) 1 ∧
     CompletesX (.limmSh d i) s d (BitVec.ofNat 64 ((s.x d).toNat * 2 ^ 17 + i.toNat)) 1 ∧
     CompletesX (.limmL d imm) s d (BitVec.ofInt 64 imm.toInt) 2 ∧
     CompletesX (.limmLh d imm) s d (BitVec.ofNat 64 (imm.toNat * 2 ^ 32 + (s.x d).toNat % 2 ^ 32)) 2 ∧
     CompletesX (.addiL d a imm) s d (s.x a + imm.signExtend 64) 2 ∧
     CompletesX (.andiL d a imm) s d (s.x a &&& imm.signExtend 64) 2 ∧
     CompletesX (.oriL d a imm) s d (s.x a ||| imm.signExtend 64) 2 ∧
     CompletesX (.xoriL d a imm) s d (s.x a ^^^ imm.signExtend 64) 2) ∧
  (∀ (s : State) (c : BitVec 3) (a b : BitVec 5) (i : BitVec 10), ∀ p ∈ [
       ((0 : BitVec 4), fun u v : Word => decide (u = v)), (1, fun u v => decide (u ≠ v)),
       (2, fun u v => decide (u.toInt < v.toInt)), (3, fun u v => decide (u.toInt ≥ v.toInt)),
       (4, fun u v => decide (u.toInt ≤ v.toInt)), (5, fun u v => decide (u.toInt > v.toInt)),
       (6, fun u v => decide (u.toNat < v.toNat)), (7, fun u v => decide (u.toNat ≥ v.toNat)),
       (8, fun u v => decide (u.toNat ≤ v.toNat)), (9, fun u v => decide (u.toNat > v.toNat)),
       (10, fun u v => decide (u &&& v ≠ 0)), (11, fun u v => decide (u &&& v = 0))],
     CompletesC (.cmp c p.1 a b) s c (p.2 (s.x a) (s.x b)) ∧ CompletesC (.cmpi c p.1 a i) s c (p.2 (s.x a) (BitVec.ofInt 64 i.toInt))) ∧
  ((∀ (s : State) (c p : BitVec 3),
     (s.emptyForStrand.p.getLsbD p.toNat = false →
       (∃ v : Bool, (v = true ↔ ∃ i < 256, (s.p p).getLsbD i = true) ∧ ∃ t, exec (.vany c p) s = .next t ∧ WroteC s.handOn t c v) ∧
       (∃ v : Bool, (v = true ↔ ∀ i < 256, (s.p p).getLsbD i = true) ∧ ∃ t, exec (.vall c p) s = .next t ∧ WroteC s.handOn t c v) ∧
       s.handOn = { s with recent := s.handOn.recent }) ∧
     (s.emptyForStrand.p.getLsbD p.toNat = true → WaitsAt (.vany c p) s (.pred p) ∧ WaitsAt (.vall c p) s (.pred p))) ∧
   ∀ (c : BitVec 3) (a : BitVec 5) (w2 : IWord), ∀ op ∈ [(0x3C : BitVec 7), 0x3D],
     8 ≤ a.toNat → decode (0#3 ++ op ++ c ++ 0#4 ++ a ++ 0#5 ++ 0#5) w2 = .error .index) ∧
  (∀ (s : State) (d a b : BitVec 5) (c : BitVec 3),
    (s.c c = true → CompletesX (.sel d a b c) s d (s.x a) 1) ∧
    (s.c c = false → CompletesX (.sel d a b c) s d (s.x b) 1) ∧
    (s.hardwired → CompletesX (.sel d a b 0) s d (s.x a) 1) ∧
    encodeWord (.sel d a b c) = some (0#3 ++ 0x16#7 ++ d ++ a ++ b ++ 0#1 ++ 0#1 ++ (0#2 ++ c))) ∧
  encodeWord (.sel 3 4 5 2) = some 0x05864282


/-! ## Transfers of control -/

/-- R86. BTGT and BTGT.x put a target into a branch register, whatever its alignment or mapping; a branch register above b3 is rejected. -/
def Obligations.BranchTargetsAreComputed : Prop :=
  (∀ (s : State) (b : BitVec 2) (off : BitVec 20) (a : BitVec 5) (imm : BitVec 12),
    CompletesAs (.btgt b off) s (s.setB b (s.core.pc + BitVec.ofInt 64 (4 * off.toInt))) ∧
    CompletesAs (.btgtX b a imm) s (s.setB b (s.x a + BitVec.ofInt 64 (4 * imm.toInt)))) ∧
  (∀ (s : State) (b r : BitVec 2) (v : Word), (s.setB b v).b r = if r = b then v else s.b r) ∧
  ∀ (d a : BitVec 5) (imm : BitVec 12) (w2 : IWord), 4 ≤ d.toNat → decode (0#3 ++ 0x25#7 ++ d ++ a ++ imm) w2 = .error .index

/-- R87, R89, R90, R91. A transfer that is taken opens a delay region of two control words with its target, one that is not taken opens one
without; BRL reads its target before it writes its link, which is the address after the region: after two single control words, moved on by one
word for an engine word or for a pair whose TGT is 0 (where the region cannot be fetched to its end, the link is found when the fetch comes there:
log entry 63, the model's choice). A taken transfer to a misaligned target raises ALIGN and opens nothing. -/
def Obligations.TransfersOpenADelayRegion : Prop :=
  (∀ (s : State) (b l : BitVec 2) (c : BitVec 3), s.core.region = none →
     ((s.b b).toNat % 4 = 0 →
       (s.c c = true → OpensRegion (.brc b c) s s (some (s.b b))) ∧
       (s.c c = false → OpensRegion (.brcF b c) s s (some (s.b b))) ∧
       OpensRegion (.br b) s s (some (s.b b)) ∧
       ((linkWalk s).2 = 0 → OpensRegion (.brl b l) s (s.setB l (linkOf s)) (some (s.b b))) ∧
       OpensRegion (.brl b l) s (s.putLink l (linkWalk s)) (some (s.b b))) ∧
     (s.c c = false → OpensRegion (.brc b c) s s none) ∧
     (s.c c = true → OpensRegion (.brcF b c) s s none) ∧
     ((s.b b).toNat % 4 ≠ 0 →
       (s.c c = true → TrapsAt (.brc b c) s 0x26 (.align (s.b b))) ∧
       (s.c c = false → TrapsAt (.brcF b c) s 0x26 (.align (s.b b))) ∧
       TrapsAt (.br b) s 0x27 (.align (s.b b)) ∧
       TrapsAt (.brl b l) s 0x28 (.align (s.b b)))) ∧
  (∀ (s : State) (w1 w2 w3 : IWord), s.core.pc.toNat + 20 < 2 ^ 64 → s.peekWord (s.core.pc.toNat + 4) = some w1 →
     (fEng w1 = 0 → s.peekWord (s.core.pc.toNat + 8) = some w2 → fEng w2 = 0 → (linkWalk s).2 = 0 ∧ linkOf s = s.core.pc + 12) ∧
     (fEng w1 = 0 → s.peekWord (s.core.pc.toNat + 8) = some w2 → fEng w2 = 7 → fTgt w2 = 0 →
       (linkWalk s).2 = 0 ∧ linkOf s = s.core.pc + 16) ∧
     (fEng w1 ≠ 0 → fEng w1 ≠ 7 → s.peekWord (s.core.pc.toNat + 8) = some w2 → fEng w2 = 0 →
       s.peekWord (s.core.pc.toNat + 12) = some w3 → fEng w3 = 0 → (linkWalk s).2 = 0 ∧ linkOf s = s.core.pc + 16))

/-- R87, R88. The first control word of a delay region leaves the program counter in sequence and one word to go, a pair with TGT 0
counting as one; the second ends the region, and the strand goes on at the target if the transfer was taken: so for every word that always
completes, and, as `WroteX`, `WroteC` and `Retired` hold `AfterWord`, wherever another statement says that a control word completes. Engine words
are not counted. The words that must not lie in a region raise ILL, cause DELAY, inside one. -/
def Obligations.DelayRegionEndsAfterTwoControlWords : Prop :=
  (∀ (s : State) (target : Option Word) (d : BitVec 5) (imm : BitVec 32),
     (s.core.region = some ⟨2, target⟩ →
       (∃ t, exec .nop s = .next t ∧ t.core.pc = s.core.pc + 4 ∧ (t.core.phase = .running → t.core.region = some ⟨1, target⟩)) ∧
       ∃ t, exec (.limmL d imm) s = .next t ∧ t.core.pc = s.core.pc + 8 ∧ (t.core.phase = .running → t.core.region = some ⟨1, target⟩)) ∧
     (s.core.region = some ⟨1, target⟩ →
       (∃ t, exec .nop s = .next t ∧ t.core.pc = target.getD (s.core.pc + 4) ∧ t.core.region = none) ∧
       ∃ t, exec (.limmL d imm) s = .next t ∧ t.core.pc = target.getD (s.core.pc + 8) ∧ t.core.region = none) ∧
     ∀ (e : Eng) (en : Entry) (w : Nat) (t : State), canIssue e en s → issue e en w s = .next t →
       t.core.phase = .running → t.core.region = s.core.region) ∧
  (∀ (s : State) (d a e : BitVec 5) (b : BitVec 2) (c : BitVec 3) (cc : BitVec 4) (i10 : BitVec 10) (i12 : BitVec 12) (i17 : BitVec 17)
     (i20 : BitVec 20) (i32 : BitVec 32) (k : BitVec 6),
     (∀ i ∈ [Instr.add d a e, .sub d a e, .and d a e, .or d a e, .xor d a e, .sll d a e, .srl d a e, .sra d a e, .mul d a e, .mulhS d a e,
         .mulhN d a e, .divS d a e, .divN d a e, .remS d a e, .remN d a e, .minS d a e, .minN d a e, .maxS d a e, .maxN d a e, .clz d a, .popc d a,
         .sel d a e c, .addi d a i12, .andi d a i12, .ori d a i12, .xori d a i12, .slli d a k, .srli d a k, .srai d a k, .limm d i17, .limmSh d i17,
         .cmp c cc a e, .cmpi c cc a i10, .btgt b i20, .btgtX b a i12, .widf d c, .nop],
       ∃ t, exec i s = .next t ∧ AfterWord s t 1) ∧
     ∀ i ∈ [Instr.limmL d i32, .limmLh d i32, .addiL d a i32, .andiL d a i32, .oriL d a i32, .xoriL d a i32],
       ∃ t, exec i s = .next t ∧ AfterWord s t 2) ∧
  (∀ (s : State) (b l : BitVec 2) (c : BitVec 3) (imm : BitVec 12), s.core.region.isSome = true →
     ∀ p ∈ [((0x26 : BitVec 7), Instr.brc b c), (0x26, .brcF b c), (0x27, .br b), (0x28, .brl b l), (0x4C, .eret), (0x4D, .halt),
       (0x4B, .trap imm), (0x49, .safept), (0x71, .tend), (0x72, .tyield)], TrapsAt p.2 s p.1 ⟨0x01, 0x0A, 0⟩)

/-! ## Scalar loads and stores -/

/-- R94, R95, R96, R155, R157. A load writes the bytes of its access, extended as its form says, and sets c7; one that meets a
non-resident page writes zero and clears c7; an access that is refused traps and leaves X[D] alone; a speculative task's that must wait (R341) waits. Nothing else changes but the leaves that the
page TLB holds and the read set of a speculative task. While no task holds speculative data, an access in one aligned 16-byte piece of a mapped
page gives the bytes of global memory there, least significant first; the reading changes no memory and no register. -/
def Obligations.ScalarLoadsWriteTheBytesRead : Prop :=
  (∀ (s : State) (d a : BitVec 5) (imm : BitVec 12), ∀ p ∈ [
       ((0x30 : BitVec 7), 1, Instr.ldBS d a imm, fun n => BitVec.ofInt 64 (BitVec.ofNat 8 n).toInt),
       (0x31, 1, .ldBN d a imm, fun n => BitVec.ofNat 64 n),
       (0x32, 2, .ldHS d a imm, fun n => BitVec.ofInt 64 (BitVec.ofNat 16 n).toInt),
       (0x33, 2, .ldHN d a imm, fun n => BitVec.ofNat 64 n),
       (0x34, 4, .ldWS d a imm, fun n => BitVec.ofInt 64 (BitVec.ofNat 32 n).toInt),
       (0x35, 4, .ldWN d a imm, fun n => BitVec.ofNat 64 n),
       (0x36, 8, .ldD d a imm, fun n => BitVec.ofNat 64 n)],
     let ea := s.x a + imm.signExtend 64
     (∀ r, resolveScalar s permCtlRead false ea p.2.1 = .ok r → r.poisonAt s ea = none → r.readWaits s = false →
       CompletesAs p.2.2.1 s (((r.noteRead s permCtlRead).setX d (p.2.2.2 (leNat (r.read s)))).setC 7 true)) ∧
     (∀ r, resolveScalar s permCtlRead false ea p.2.1 = .ok r → r.poisonAt s ea = none → r.readWaits s = true → WaitsAt p.2.2.1 s .spec) ∧
     (∀ r x, resolveScalar s permCtlRead false ea p.2.1 = .ok r → r.poisonAt s ea = some x → TrapsAt p.2.2.1 s p.1 (.ecc x)) ∧
     (resolveScalar s permCtlRead false ea p.2.1 = .absent → CompletesAs p.2.2.1 s ((s.setX d 0).setC 7 false)) ∧
     ∀ c, resolveScalar s permCtlRead false ea p.2.1 = .trap c → TrapsAt p.2.2.1 s p.1 c) ∧
  ((∀ (s : State) (ea : Word) (n pa : Nat), 0 < n → n ≤ 8 → ea.toNat % 16 + n ≤ 16 → ea.extractLsb' 52 12 = 0 →
     s.translate s.ctx permCtlRead ea.toNat = .ok pa → s.unit.versions = [] →
     ∃ r, resolveScalar s permCtlRead false ea n = .ok r ∧ leNat (r.read s) = ((List.range n).map fun i => (s.mem.get (pa + i)).toNat * 256 ^ i).sum) ∧
   ∀ (s : State) (r : SRef), sameMemory s (r.noteRead s permCtlRead) ∧ (r.noteRead s permCtlRead).core = s.core)

/-- R94, R95, R96, R161, R339. A store performs the write of its checked access with the low bytes of X[D]; one that is refused, or
meets a non-resident page, traps and writes nothing. With `ps` the pieces that the meaning of the store resolves (their physical addresses and
lengths: one, or two where the access crosses a 16-byte boundary), a task that is not speculative leaves its bytes there where the host refuses none of them, and every byte of memory outside them, every scratchpad and every register stands
as before (and, where no speculative task has read anything that the store could abort it for, the granule states, the tokens, the system
registers, the queues and the tasks too); a raw-mode store to a scratchpad changes those bytes of it and no granule's state. -/
def Obligations.ScalarStoresWriteTheirBytesAlone : Prop :=
  (∀ (s : State) (d a : BitVec 5) (imm : BitVec 12), ∀ p ∈ [((0x38 : BitVec 7), 1, Instr.stB d a imm), (0x39, 2, .stH d a imm),
       (0x3A, 4, .stW d a imm), (0x3B, 8, .stD d a imm)],
     let ea := s.x a + imm.signExtend 64
     (∀ r, resolveScalar s permCtlWrite true ea p.2.1 = .ok r → r.cutAt s ea = none → r.writeWaits s = false →
       CompletesAs p.2.2 s (r.perform s (leBytes p.2.1 (s.x d).toNat))) ∧
     (∀ r x, resolveScalar s permCtlWrite true ea p.2.1 = .ok r → r.cutAt s ea = some x → TrapsAt p.2.2 s p.1 (.ecc x)) ∧
     (∀ r, resolveScalar s permCtlWrite true ea p.2.1 = .ok r → r.cutAt s ea = none → r.writeWaits s = true → WaitsAt p.2.2 s .spec) ∧
     ∀ c, resolveScalar s permCtlWrite true ea p.2.1 = .trap c → TrapsAt p.2.2 s p.1 c) ∧
  ((∀ (s : State) (ps : List (Nat × Nat × Nat)) (bs : List Byte) (x : Nat), s.canonical → s.specNow = false →
     let t := SRef.perform s bs (.glob ps)
     ((∀ p ∈ ps, ¬(p.2.1 ≤ x ∧ x < p.2.1 + p.2.2)) → t.mem.get x = s.mem.get x) ∧
     (∀ va pa i, ps = [(va, pa, bs.length)] → s.pkg.refusing = [] → i < bs.length → some (t.mem.get (pa + i)) = bs[i]?) ∧
     (∀ va pa k va' pa' m i, ps = [(va, pa, k), (va', pa', m)] → k + m = bs.length → s.pkg.refusing = [] →
       (i < k → ¬(pa' ≤ pa + i ∧ pa + i < pa' + m) → some (t.mem.get (pa + i)) = bs[i]?) ∧
       (i < m → some (t.mem.get (pa' + i)) = bs[k + i]?)) ∧
     t.spad = s.spad ∧ t.core.x = s.core.x ∧ t.core.c = s.core.c ∧ t.core.b = s.core.b ∧ t.core.v = s.core.v ∧
     t.core.p = s.core.p ∧ t.core.a = s.core.a ∧ t.core.l = s.core.l ∧ t.core.n = s.core.n ∧ t.core.d = s.core.d ∧
     (s.unit.reads = [] → t.gran = s.gran ∧ t.core.tk = s.core.tk ∧ t.core.sys = s.core.sys ∧ t.q = s.q ∧ t.unit = s.unit)) ∧
   ∀ (s : State) (a n x : Nat) (bs : List Byte), s.canonical →
     let t := SRef.perform s bs (.spad a n)
     (¬(a ≤ x ∧ x < a + bs.length) → t.spad.get x = s.spad.get x) ∧
     (∀ i, i < bs.length → some (t.spad.get (a + i)) = bs[i]?) ∧ t.gran = s.gran ∧ t.mem = s.mem ∧ t.core = s.core)

/-! ## Descriptors, loop registers and the work identifier -/

/-- R98. DLD and NLD replace a descriptor whole by the bytes read; a misaligned address, a refused access, and an image with a reserved field
that is nonzero trap and leave it unchanged; a pending command that names it makes the word wait, and so does a speculative task's read that must wait
(R341). -/
def Obligations.DescriptorLoadsReplaceWhole : Prop :=
  ∀ (s : State) (dn : BitVec 6) (n : BitVec 3) (a : BitVec 5),
    ((s.x a).toNat % 16 ≠ 0 → TrapsAt (.dld dn a) s 0x50 (.align (s.x a)) ∧ TrapsAt (.nld n a) s 0x51 (.align (s.x a))) ∧
    ((s.x a).toNat % 16 = 0 →
      (∀ c, scalarLoad s true (s.x a) 32 = .trap c → TrapsAt (.dld dn a) s 0x50 c) ∧
      (∀ c, scalarLoad s true (s.x a) 128 = .trap c → TrapsAt (.nld n a) s 0x51 c) ∧
      (scalarLoad s true (s.x a) 32 = .wait → WaitsAt (.dld dn a) s .spec) ∧ (scalarLoad s true (s.x a) 128 = .wait → WaitsAt (.nld n a) s .spec) ∧
      (∀ bs u, scalarLoad s true (s.x a) 32 = .ok (bs, u) →
        (tensorDescBad (BitVec.ofNat 256 (leNat bs)) = true → TrapsAt (.dld dn a) s 0x50 .desc) ∧
        (tensorDescBad (BitVec.ofNat 256 (leNat bs)) = false →
          (s.descPending dn = true ∨ s.kvmapPending dn = true → WaitsAt (.dld dn a) s .shut) ∧
          (s.descPending dn = false → s.kvmapPending dn = false → CompletesAs (.dld dn a) s (u.setD dn (BitVec.ofNat 256 (leNat bs)))))) ∧
      ∀ bs u, scalarLoad s true (s.x a) 128 = .ok (bs, u) →
        (nestDescBad (BitVec.ofNat 1024 (leNat bs)) = true → TrapsAt (.nld n a) s 0x51 .desc) ∧
        (nestDescBad (BitVec.ofNat 1024 (leNat bs)) = false →
          (s.nestPending n = true → WaitsAt (.nld n a) s .shut) ∧
          (s.nestPending n = false → CompletesAs (.nld n a) s (u.setN n (BitVec.ofNat 1024 (leNat bs))))))

/-- R99. LSET and LSETI write a loop register; a value above 2^32 − 1 or above the declared maximum (0: none declared) raises ILL, cause
LOOPMAX, and leaves the register unchanged; no queue makes them wait or changes. -/
def Obligations.LoopRegisterWritesAreBounded : Prop :=
  (∀ (s : State) (l : BitVec 4) (a : BitVec 5) (imm : BitVec 17) (v : Nat),
    let m := (s.core.lmax[l.toNat]'(by omega)).toNat
    let u : State := { s with core := { s.core with l := s.core.l.set l.toNat (BitVec.ofNat 32 v) (by omega) } }
    (v < 2 ^ 32 → m = 0 ∨ v ≤ m →
      ((s.x a).toNat = v → CompletesAs (.lset l a) s u) ∧ (imm.toNat = v → CompletesAs (.lseti l imm) s u)) ∧
    (2 ^ 32 ≤ v ∨ (m ≠ 0 ∧ m < v) →
      ((s.x a).toNat = v → TrapsAt (.lset l a) s 0x52 .loopmax) ∧ (imm.toNat = v → TrapsAt (.lseti l imm) s 0x53 .loopmax))) ∧
  ∀ (d a : BitVec 5) (i : BitVec 17) (w2 : IWord), 16 ≤ d.toNat →
    decode (0#3 ++ 0x52#7 ++ d ++ a ++ 0#12) w2 = .error .index ∧ decode (0#3 ++ 0x53#7 ++ d ++ i) w2 = .error .index

/-- R100. WIDF extracts a field of the running task's work identifier by the field widths W0 to W5 of its launch. -/
def Obligations.WidfExtractsAField : Prop :=
  (∀ (s : State) (d : BitVec 5) (k : BitVec 3) (W : Fin 6 → Nat), (∀ i : Fin 6, (s.widths[i.val]'i.isLt).toNat = W i) → ∀ h : k.toNat < 6,
    CompletesX (.widf d k) s d
      (BitVec.ofNat 64 (s.core.sys.wid.toNat / 2 ^ ((List.finRange 6).map fun i => if i.val < k.toNat then W i else 0).sum % 2 ^ W ⟨k.toNat, h⟩)) 1) ∧
  (∀ s : State, ∀ t ∈ s.runTask, ∀ l ∈ s.unit.launches, l.id = t.launch → (∀ m ∈ s.unit.launches, m.id = l.id → m = l) → s.widths = l.widths) ∧
  ∀ (d : BitVec 5) (imm : BitVec 12) (w2 : IWord), 6 ≤ imm.toNat → decode (0#3 ++ 0x40#7 ++ d ++ 0#5 ++ imm) w2 = .error .imm

/-! ## System registers -/

/-- R54, R101, R269. SRR reads every system register of the table; SRR and SRW of one that is supervisor only, and SRW of sr.status, raise PRIV in
user mode, with the selector in the cause. -/
def Obligations.SystemRegisterReads : Prop :=
  (∀ (s : State) (d : BitVec 5), let r := s.core.sys; ∀ p ∈ [
       ((0x000 : BitVec 12), false, r.status.setWidth 64), (0x001, true, r.causelo), (0x002, true, r.causehi), (0x003, true, r.epc),
       (0x004, true, r.dtgt), (0x005, true, r.dleft.setWidth 64), (0x006, true, r.iterlo), (0x007, true, r.iterhi.setWidth 64),
       (0x008, true, r.tvec), (0x010, false, r.uvec), (0x011, false, r.ucauselo), (0x012, false, r.ucausehi), (0x013, false, r.uepc),
       (0x014, false, r.udtgt), (0x015, false, r.udleft.setWidth 64), (0x016, false, r.uiterlo), (0x017, false, r.uiterhi.setWidth 64),
       (0x020, false, r.wid), (0x021, false, r.ts), (0x022, false, r.task),
       (0x023, false, match s.timeline with | some t => (s.unit.frontier[t.toNat]'(by omega)).1 | none => 0),
       (0x024, false, r.budget.setWidth 64), (0x025, true, r.ctx.setWidth 64), (0x026, false, r.ntag.setWidth 64),
       (0x030, false, r.bbase.setWidth 64), (0x031, false, r.bphase), (0x032, false, r.seed), (0x033, false, r.resp.setWidth 64),
       (0x034, false, r.confrec.setWidth 64), (0x040, true, r.ptroot), (0x041, false, s.now), (0x042, false, r.self.setWidth 64)],
     (p.2.1 = true → r.sup = true) → CompletesX (.srr d p.1) s d p.2.2 1) ∧
  (∀ (s : State) (d a : BitVec 5), s.core.sys.sup = false →
     (∀ sel ∈ [(0x001 : BitVec 12), 0x002, 0x003, 0x004, 0x005, 0x006, 0x007, 0x008, 0x025, 0x040],
       TrapsAt (.srr d sel) s 0x41 ⟨0x02, 0, sel.setWidth 64⟩ ∧ TrapsAt (.srw a sel) s 0x42 ⟨0x02, 0, sel.setWidth 64⟩) ∧
     TrapsAt (.srw a 0) s 0x42 ⟨0x02, 0, 0⟩)

/-- R101, R102, R269, R270. SRW writes a system register whole; a 1 in an unimplemented bit, and any write of a read-only register, raises
ILL, cause ROREG; a register that commands read when they start waits until every enqueued command has started. The other registers of the list
keep their values. SRW to sr.status in supervisor mode changes pmode, uact, sact and raw, bits [4:1], and leaves the read-only bits; where it clears
sact or uact, the traps still pending wait for the handler's ERET (R264). SRW to sr.causelo and sr.ucauselo writes the fields of R260 but hent, and
neither reads nor changes the reserved bits (log entry 11, the model's choice); what of it waits for which handler is log entry 80, the model's reading. -/
def Obligations.SystemRegisterWrites : Prop :=
  (let regs : List (BitVec 12 × Bool × Bool × BitVec 64) := [
     (0x002, true, false, BitVec.allOnes 64), (0x003, true, false, BitVec.allOnes 64), (0x004, true, false, BitVec.allOnes 64), (0x005, true, false, 3),
     (0x006, true, false, BitVec.allOnes 64), (0x007, true, false, 0xFFFFFFFF), (0x008, true, false, 0x000FFFFFFFFFFFFC),
     (0x010, false, false, 0x000FFFFFFFFFFFFC), (0x012, false, false, BitVec.allOnes 64), (0x013, false, false, BitVec.allOnes 64),
     (0x014, false, false, BitVec.allOnes 64), (0x015, false, false, 3), (0x016, false, false, BitVec.allOnes 64), (0x017, false, false, 0xFFFFFFFF),
     (0x025, true, true, 0xFFF), (0x030, false, true, 0x3FFFF0), (0x031, false, false, BitVec.allOnes 64), (0x032, false, true, BitVec.allOnes 64),
     (0x033, false, true, 7), (0x034, false, true, 0x3FFFF0), (0x040, true, true, 0x000FFFFFFFFFF000)]
   ∀ (s : State) (a : BitVec 5),
     (∀ p ∈ regs, (p.2.1 = true → s.core.sys.sup = true) →
       (s.x a &&& ~~~p.2.2.2 = 0 → (p.2.2.1 = true → s.allStarted = true) →
         ∃ u t, exec (.srw a p.1) s = .next t ∧ Retired u t ∧ u = { s with core := { s.core with sys := u.core.sys } } ∧
           t.sysGet p.1 = s.x a ∧ ∀ q ∈ regs, q.1 ≠ p.1 → t.sysGet q.1 = s.sysGet q.1) ∧
       (s.x a &&& ~~~p.2.2.2 = 0 → p.2.2.1 = true → s.allStarted = false → WaitsAt (.srw a p.1) s .shut) ∧
       (s.x a &&& ~~~p.2.2.2 ≠ 0 → TrapsAt (.srw a p.1) s 0x42 ⟨0x01, 0x0E, 0⟩)) ∧
     ∀ sel ∈ [(0x020 : BitVec 12), 0x021, 0x022, 0x023, 0x024, 0x026, 0x041, 0x042], TrapsAt (.srw a sel) s 0x42 ⟨0x01, 0x0E, 0⟩) ∧
  (∀ (s : State) (a : BitVec 5), s.core.sys.sup = true →
     ((s.x a).toNat < 512 →
       ∃ t, exec (.srw a 0) s = .next t ∧
         (let u := { s with core := { s.core with sys := { s.core.sys with status := t.core.sys.status } } }
          if (s.core.sys.sact = true ∧ (s.x a).getLsbD 3 = false) ∨ (s.core.sys.uact = true ∧ (s.x a).getLsbD 2 = false) then
            Retired (u.keepPending s.core.depth) t
          else Retired u t) ∧
         ∀ i < 9, t.core.sys.status.getLsbD i = if 1 ≤ i ∧ i ≤ 4 then (s.x a).getLsbD i else s.core.sys.status.getLsbD i) ∧
     (512 ≤ (s.x a).toNat → TrapsAt (.srw a 0) s 0x42 ⟨0x01, 0x0E, 0⟩)) ∧
  (∀ (s : State) (a : BitVec 5), ∀ p ∈ [((0x001 : BitVec 12), true), (0x011, false)], (p.2 = true → s.core.sys.sup = true) →
     ∃ u t, exec (.srw a p.1) s = .next t ∧ Retired u t ∧ u = { s with core := { s.core with sys := u.core.sys } } ∧
       (∀ i < 64, (t.sysGet p.1).getLsbD i = if i ≤ 30 ∧ i ≠ 20 ∧ i ≠ 21 then (s.x a).getLsbD i else (s.sysGet p.1).getLsbD i) ∧
       t.core.sys = if p.2 then { s.core.sys with causelo := t.core.sys.causelo, budget := t.core.sys.budget }
         else { s.core.sys with ucauselo := t.core.sys.ucauselo, budget := t.core.sys.budget })

/-! ## Tokens, barrier waits and the queues -/

/-- R24, R26, R103, R104, R253, R254, R259. SIG adds 1 to a token below 65,535, and what the strand has been ordered after comes before the wait that takes
the count, the stores made before it among them; WAITK takes 1 from a token that is at least 1 and waits at 0, out of which wait a posted trap may be taken;
at 65,535 it waits while another agent is about to signal the token, which is the model's reading of one cycle (log entry 66). BWAIT completes where the
object's phase differs from the expected bit of sr.bphase, which it inverts; else it waits; it orders the writes counted towards that phase and nothing else.
What WAITK and BWAIT order comes before the words that the strand enqueues after them. Accesses still to be performed when the count was signalled are
performed first (log entry 76), and counts are taken in the order in which they were signalled (log entry 75), both by the model's choice. -/
def Obligations.TokensAndBarriersAtTheStrand : Prop :=
  (∀ (s : State) (k j : BitVec 4) (v : BitVec 16),
     let u := s.performSignalled k
     ((s.token k).toNat < 65535 → CompletesAs (.sig k) s ((s.handToken .strand k).setToken k (s.token k + 1))) ∧
     ((u.token k).toNat ≥ 1 → s.token k ≠ 65535 ∨ s.signalDue k = false →
       CompletesAs (.waitk k) s ((u.takeCount .strand k).setToken k (u.token k - 1)).handOn) ∧
     (u.token k = 0 ∨ (s.token k = 65535 ∧ s.signalDue k = true) → WaitsAt (.waitk k) s .none) ∧
     (s.core.pending = [] → u = s) ∧ s.handToken .strand k = { s with recent := (s.handToken .strand k).recent } ∧
     s.takeCount .strand k = { s with recent := (s.takeCount .strand k).recent } ∧ s.handOn = { s with recent := s.handOn.recent } ∧
     (s.setToken k v).token j = if j = k then v else s.token j) ∧
  (∀ (s : State) (a : Agent) (k : BitVec 4) (o : Nat),
     (∀ w ∈ (s.handToken a k).recent, ∃ v ∈ s.recent, w = if v.knownTo a then { v with toks := (k, (s.token k).toNat) :: v.toks } else v) ∧
     (∀ w ∈ (s.takeCount a k).recent, w.seen.getLsbD a.bit = true → ∃ v ∈ s.recent, v.loc = w.loc ∧ v.old = w.old ∧ v.new = w.new ∧
       (v.seen.getLsbD a.bit = true ∨ (k, 0) ∈ v.toks)) ∧
     (∀ w ∈ (s.observePhase a o).recent, ∃ v ∈ s.recent,
       w = if (o, s.phaseNo o - 1) ∈ v.phases then { v with seen := setBit v.seen a.bit true } else v)) ∧
  (∀ (s : State) (k : BitVec 4),
     let a := s.selfRank * 0x400000 + (s.core.sys.bbase.toNat + 16 * k.toNat) % 0x400000
     let ph := (s.spad.get (a + 8)).getLsbD 0
     (ph ≠ s.core.sys.bphase.getLsbD k.toNat →
       CompletesAs (.bwait k) s ((s.observePhase .strand a).setSys fun r => { r with bphase := r.bphase ^^^ (1#64 <<< k.toNat) }).handOn) ∧
     (ph = s.core.sys.bphase.getLsbD k.toNat → WaitsAt (.bwait k) s .none))

/-- R27. A signal that finds 65,535 leaves the count and raises ILL with the token-overflow cause, the counter in [3:0] and the signalling
engine in [6:4] of the cause-specific field: SIG at its own word, an engine's signal as that engine's fault. -/
def Obligations.TokenOverflowRaisesIll : Prop :=
  ∀ (s : State) (k : BitVec 4), s.token k = 65535 →
    TrapsAt (.sig k) s 0x43 ⟨0x01, 0x0B, k.setWidth 64⟩ ∧
    (∀ c, (s.raise 0x43 c).token k = 65535) ∧
    ∀ (e : Eng) (hent : Bool) (r : Running), tokenWord r.entry.instr = some (.signal k) →
      s.advance e hent r = some (s.engineFault e hent r ⟨0x01, 0x0B, (e.code ++ k).setWidth 64⟩) ∧
      ∀ c, (s.engineFault e hent r c).token k = 65535

/-- R14, R46, R105, R106, R110, R111, R265. QMARK puts one marker into LDQ and one into STQ as one action, or waits until both have room; NOP does
nothing. DRAIN completes where every queue of its mask has emptied and completed, and waits otherwise; FENCE does so over all six queues and, at
.fabric, the notices, and orders every earlier store of the strand; at the wider scopes a speculative task's FENCE waits to become non-speculative.
A queue that is held by R33 counts as drained once nothing of it executes but what waits. DRAIN orders what the commands of its queues wrote, and were
ordered after, before the words after it, FENCE every write (R253, R254; log entry 75). -/
def Obligations.QueueWordsMarkAndWait : Prop :=
  (∀ s : State,
     (s.q.ldq.entries.length < 32 → s.q.stq.entries.length < 32 →
       ∃ t en, exec .qmark s = .next t ∧ en.instr = .qmark ∧
         Retired { s with q := { s.q with ldq := { s.q.ldq with entries := s.q.ldq.entries ++ [en] },
                                          stq := { s.q.stq with entries := s.q.stq.entries ++ [en] } }
                          enqNo := s.enqNo + 1 } t) ∧
     (s.q.ldq.entries.length ≥ 32 ∨ s.q.stq.entries.length ≥ 32 → WaitsAt .qmark s .none) ∧
     CompletesAs .nop s s) ∧
  (∀ (s : State) (mask : BitVec 6) (scope : BitVec 3),
     let ready := ∀ e : Eng, mask.getLsbD (e.code.toNat - 1) = true → s.drainedFor e = true
     let all := (∀ e : Eng, s.drainedFor e = true) ∧ (scope = 5 → s.quay.untold = [])
     let late := s.specNow = true ∧ 3 ≤ scope.toNat
     (ready → CompletesAs (.drain mask) s (s.drainedFrom (maskQueues mask))) ∧ (¬ready → WaitsAt (.drain mask) s .none) ∧
     (¬late → all → CompletesAs (.fence scope) s s.fenced) ∧ (¬late → ¬all → WaitsAt (.fence scope) s .none) ∧
     (late → WaitsAt (.fence scope) s .spec) ∧
     s.drainedFrom (maskQueues mask) = { s with recent := (s.drainedFrom (maskQueues mask)).recent } ∧
     s.fenced = { s with recent := s.fenced.recent } ∧
     ∀ e : Eng, let q := s.q.get e
       (q.held = false → (s.drainedFor e = true ↔ q.entries = [] ∧ q.run = none ∧ q.hentry = none ∧ q.hrun = none)) ∧
       (q.held = true → (s.drainedFor e = true ↔ q.hentry = none ∧ (q.hrun = none ∨ q.hstuck = true) ∧
         (q.stuck = true ∨ ∀ r, q.run = some r → s.runStands e false r = true))))

/-- R108, R109. QCANCEL removes every entry that has not started from the queues of its mask and counts them in X[D]; started commands and
the other queues stay; a register that a removed word writes is FULL at once where no surviving word writes it. -/
def Obligations.QcancelRemovesWhatHasNotStarted : Prop :=
  ∀ (s : State) (d : BitVec 5) (mask : BitVec 6),
    ∃ (t u : State) (n : Nat), exec (.qcancel d mask) s = .next t ∧ Retired (u.setX d (BitVec.ofNat 64 n)) t ∧
      n = ([Eng.vec, .mtx, .ldq, .stq, .prt, .kvc].map fun e => if mask.getLsbD (e.code.toNat - 1) then (s.q.get e).entries.length else 0).sum ∧
      (∀ e : Eng, u.q.get e = if mask.getLsbD (e.code.toNat - 1) then { s.q.get e with entries := [] } else s.q.get e) ∧
      u = { s with q := u.q, core := { s.core with vfull := u.core.vfull, pfull := u.core.pfull, afull := u.core.afull } } ∧
      let removed (f : RegSet → Bool) := ∃ e : Eng, mask.getLsbD (e.code.toNat - 1) = true ∧
        ∃ en ∈ (s.q.get e).entries, f (dests s.core.sys.resp en.instr) = true
      (∀ i < 32, u.core.vfull.getLsbD i = true ↔ s.core.vfull.getLsbD i = true ∨
        (u.writesIn Eng.all).v.getLsbD i = false ∧ removed fun r => r.v.getLsbD i) ∧
      (∀ i < 8, u.core.pfull.getLsbD i = true ↔ s.core.pfull.getLsbD i = true ∨
        (u.writesIn Eng.all).p.getLsbD i = false ∧ removed fun r => r.p.getLsbD i) ∧
      ∀ i < 16, u.core.afull.getLsbD i = true ↔ s.core.afull.getLsbD i = true ∨
        (u.writesIn Eng.all).a.getLsbD i = false ∧ removed fun r => r.a.getLsbD i

/-! ## Traps and returning from them -/

/-- R92, R260, R264. A trap delivered to the supervisor (any trap but a STALE, BUDGET, RECLAIM, PULLFAIL or SWTRAP, and one of these where sr.uvec is 0 or
the user handler is active) saves its cause, vector, resume address and delay record, sets sup and sact, records
the mode in pmode, and goes to sr.tvec; no general register, flag, token or memory changes. A STALE, BUDGET, RECLAIM, PULLFAIL or SWTRAP with
sr.uvec set and no handler active goes to the user handler: the user copies are saved, uact is set, the mode stays, and the supervisor's registers
are unchanged. Under an active supervisor handler any other delivery stops the core. The traps still pending wait for the ERET of the handler that is
entered (R242, R263). -/
def Obligations.TrapDeliverySavesAndSwitches : Prop :=
  (∀ (s : State) (t : TrapRec) (resume : Word),
     t.code ∉ [(0x07 : BitVec 8), 0x08, 0x09, 0x0A, 0x11] ∨ s.core.sys.uvec = 0 ∨ s.core.sys.uact = true → s.core.sys.sact = false →
     let u := s.takeTrap t resume
     u.core.pc = s.core.sys.tvec ∧ u.core.sys.causelo = t.causelo ∧ u.core.sys.causehi = t.info ∧ u.core.sys.epc = resume ∧
     u.core.sys.iterhi ++ u.core.sys.iterlo = t.iter ∧
     (∀ left target, s.core.region = some ⟨left, some target⟩ → u.core.sys.dtgt = target ∧ u.core.sys.dleft = BitVec.ofNat 2 left) ∧
     ((s.core.region = none ∨ ∃ left, s.core.region = some ⟨left, none⟩) → u.core.sys.dleft = 0) ∧
     u.core.sys.sup = true ∧ u.core.sys.pmode = s.core.sys.sup ∧ u.core.sys.sact = true ∧
     u.core.sys.uact = s.core.sys.uact ∧ u.core.sys.raw = s.core.sys.raw ∧ u.core.sys.preq = s.core.sys.preq ∧ u.core.sys.spec = s.core.sys.spec ∧
     (∀ e : Eng, u.q.get e = (s.q.get e).keepFaults (s.core.depth + 1)) ∧ (∀ p ∈ s.posted, ∃ n, (p, n) ∈ u.core.kept) ∧
     (∀ k ∈ u.core.kept, k ∈ s.core.kept ∨ (k.1 ∈ s.posted ∧ k.2 = s.core.depth + 1)) ∧
     u = { s with
       q := u.q
       core := { s.core with
         pc := u.core.pc, region := none, wait := .none, monitor := none, depth := s.core.depth + 1, kept := u.core.kept
         sys := { s.core.sys with
           causelo := u.core.sys.causelo, causehi := u.core.sys.causehi, epc := u.core.sys.epc, dtgt := u.core.sys.dtgt,
           dleft := u.core.sys.dleft, iterlo := u.core.sys.iterlo, iterhi := u.core.sys.iterhi, status := u.core.sys.status } }
       freeNo := s.freeNo + 1 }) ∧
  (∀ (s : State) (t : TrapRec) (resume : Word),
     (t.code ∈ [(0x07 : BitVec 8), 0x08, 0x09, 0x0A, 0x11] → s.core.sys.uvec ≠ 0 → s.core.sys.uact = false → s.core.sys.sact = false →
       let u := s.takeTrap t resume
       u.core.pc = s.core.sys.uvec ∧ u.core.sys.ucauselo = t.causelo ∧ u.core.sys.ucausehi = t.info ∧ u.core.sys.uepc = resume ∧
       u.core.sys.uiterhi ++ u.core.sys.uiterlo = t.iter ∧
       (∀ left target, s.core.region = some ⟨left, some target⟩ → u.core.sys.udtgt = target ∧ u.core.sys.udleft = BitVec.ofNat 2 left) ∧
       ((s.core.region = none ∨ ∃ left, s.core.region = some ⟨left, none⟩) → u.core.sys.udleft = 0) ∧
       u.core.sys.uact = true ∧ u.core.sys.sup = s.core.sys.sup ∧ u.core.sys.sact = false ∧
       (∀ e : Eng, u.q.get e = (s.q.get e).keepFaults (s.core.depth + 1)) ∧ (∀ p ∈ s.posted, ∃ n, (p, n) ∈ u.core.kept) ∧
       (∀ k ∈ u.core.kept, k ∈ s.core.kept ∨ (k.1 ∈ s.posted ∧ k.2 = s.core.depth + 1)) ∧
       u = { s with
         q := u.q
         core := { s.core with
           pc := u.core.pc, region := none, wait := .none, monitor := none, depth := s.core.depth + 1, kept := u.core.kept
           sys := { s.core.sys with
             ucauselo := u.core.sys.ucauselo, ucausehi := u.core.sys.ucausehi, uepc := u.core.sys.uepc, udtgt := u.core.sys.udtgt,
             udleft := u.core.sys.udleft, uiterlo := u.core.sys.uiterlo, uiterhi := u.core.sys.uiterhi, status := u.core.sys.status } }
         freeNo := s.freeNo + 1 }) ∧
     (s.core.sys.sact = true → s.takeTrap t resume = { s with core := { s.core with phase := .stopped } } ∧
       ∀ e : Eng, (s.takeTrap t resume).engineMove e = none))

/-- R32, R112, R260, R264, R345. A precise trap of a word whose task is not speculative is taken at once, with the word's address to resume
at; of a speculative task it is kept and the task parks: nothing is delivered. TRAP outside a delay region raises SWTRAP with its immediate as the
cause-specific field and the word after it to resume at: it goes to the user handler where one is set and none is active, else to the supervisor. -/
def Obligations.PreciseTrapsAreTakenOrParked : Prop :=
  (∀ (s : State) (t : TrapRec) (resume : Word),
     (s.specNow = false → s.trapOrPark t resume = s.takeTrap t resume) ∧
     (s.specNow = true →
       let u := s.trapOrPark t resume
       u.core.phase = .parked ∧ u.core.saved = some (t, resume, s.core.region) ∧ u.core.sys = s.core.sys ∧ u.core.x = s.core.x ∧ u.core.pc = s.core.pc ∧
       u.q = s.q ∧ u.mem = s.mem ∧ u.spad = s.spad ∧ u.core.depth = s.core.depth ∧
       ∀ v ∈ s.unit.tasks, v.num = s.core.sys.task → { v with state := .parked, trap := t.code } ∈ u.unit.tasks)) ∧
  (∀ (s : State) (imm : BitVec 12), s.core.region = none → s.specNow = false → s.core.sys.sact = false →
     (s.core.sys.uvec ≠ 0 → s.core.sys.uact = false →
       ∃ t, exec (.trap imm) s = .next t ∧ t.core.pc = s.core.sys.uvec ∧ t.core.sys.ucausehi = imm.setWidth 64 ∧
         t.core.sys.ucauselo.extractLsb' 0 8 = 0x11 ∧ t.core.sys.uepc = s.core.pc + 4 ∧ t.core.sys.uact = true ∧ t.core.x = s.core.x ∧ sameMemory s t) ∧
     (s.core.sys.uvec = 0 ∨ s.core.sys.uact = true →
       ∃ t, exec (.trap imm) s = .next t ∧ t.core.pc = s.core.sys.tvec ∧ t.core.sys.causehi = imm.setWidth 64 ∧
         t.core.sys.causelo.extractLsb' 0 8 = 0x11 ∧ t.core.sys.epc = s.core.pc + 4 ∧ t.core.sys.sup = true ∧ t.core.sys.sact = true ∧
         t.core.sys.pmode = s.core.sys.sup ∧ t.core.x = s.core.x ∧ sameMemory s t))

/-- R92, R113, R266, R267, R421. ERET, once every handler entry of its handler has completed, returns from the supervisor to sr.epc, restores the mode from
pmode and the delay record, clears sact and lets the held engines go on; from a user handler it uses the user copies, clears uact and keeps the mode. After an
engine trap of either handler the faulting command resumes at the vector of sr.iter or sr.uiter, or is removed where skip is set, its registers FULL again; a
vector that its nest lacks raises ILL, cause ITER, and a queue with a fault of its own stays held. In user mode with no user handler active, and with a
dleft or udleft of 3, it raises ILL, cause ERET; a misaligned return address raises ALIGN. R244, R271, R347: the ERET of the PREEMPT handler ends the quay's
absence, which sends PRESENT and performs the Counts that collectives owe it (log entry 71), and after SPECABORT the core is free (log entry 62: the model's
choice). The ERET of the COMPART handler halts the core and ends its context. -/
def Obligations.EretReturnsFromTheInnermostHandler : Prop :=
  (∀ s : State, s.core.region = none → s.handlersDone = false → WaitsAt .eret s .shut) ∧
  ∀ s : State, s.core.region = none → s.handlersDone = true →
    (s.core.sys.sup = true → s.core.sys.epc.toNat % 4 = 0 → s.core.sys.dleft ≠ 3 → s.core.sys.causelo.extractLsb' 8 3 = 0 →
      s.core.sys.causelo.extractLsb' 0 8 ≠ 0x13 →
      ∃ t, exec .eret s = .next t ∧ t.core.pc = s.core.sys.epc ∧ t.core.sys.sup = s.core.sys.pmode ∧ t.core.sys.sact = false ∧
        t.core.sys.uact = s.core.sys.uact ∧ t.core.depth = s.core.depth - 1 ∧
        (t.core.phase = .running → t.core.region =
          if s.core.sys.dleft = 0 then none else some ⟨s.core.sys.dleft.toNat, some s.core.sys.dtgt⟩) ∧
        (∀ e : Eng, (t.q.get e).held = ((s.q.get e).held && ((s.q.get e).stuck || (s.q.get e).hstuck || (s.q.get e).faults != [])) ∧
          (t.q.get e).entries = (s.q.get e).entries ∧ (t.q.get e).run = (s.q.get e).run) ∧
        t.core.x = s.core.x ∧ t.core.c = s.core.c ∧ (s.core.sys.causelo.extractLsb' 0 8 ≠ 0x12 ∨ s.coll.owed = [] → sameMemory s t)) ∧
    (s.core.sys.sup = false → s.core.sys.uact = true → s.core.sys.uepc.toNat % 4 = 0 → s.core.sys.udleft ≠ 3 →
      s.core.sys.ucauselo.extractLsb' 8 3 = 0 →
      ∃ t, exec .eret s = .next t ∧ t.core.pc = s.core.sys.uepc ∧ t.core.sys.sup = false ∧ t.core.sys.uact = false ∧ t.core.depth = s.core.depth - 1 ∧
        (t.core.phase = .running → t.core.region =
          if s.core.sys.udleft = 0 then none else some ⟨s.core.sys.udleft.toNat, some s.core.sys.udtgt⟩) ∧
        t.core.x = s.core.x ∧ t.core.c = s.core.c ∧ sameMemory s t) ∧
    (s.core.sys.sup = true → s.core.sys.epc.toNat % 4 = 0 → s.core.sys.dleft ≠ 3 → s.core.sys.causelo.extractLsb' 8 3 = 0 →
      s.core.sys.causelo.extractLsb' 0 8 = 0x12 →
      ∃ t, exec .eret s = .next t ∧ t.quay.absent = false ∧ (s.core.sys.causehi.getLsbD 1 = true → s.runTask = none → t.core.phase = .idle) ∧
        (s.quay.absent = true → t.coll.owed = [] ∧ ∀ a ∈ s.quay.owePresent, Frame.present a s.core.sys.self ∈ t.outbox)) ∧
    (s.core.sys.sup = true → s.core.sys.epc.toNat % 4 = 0 → s.core.sys.dleft ≠ 3 → s.core.sys.causelo.extractLsb' 8 3 = 0 →
      s.core.sys.causelo.extractLsb' 0 8 = 0x13 →
      (s.allDrained = false → WaitsAt .eret s .shut) ∧
      (s.allDrained = true → ∃ t, exec .eret s = .next t ∧ t.core.phase = .halted ∧ (t.context s.ctx).ended = true ∧
        (∀ l ∈ t.unit.launches, l.ctx = s.ctx → l.complete = true) ∧ (∀ u ∈ t.unit.tasks, u.ctx ≠ s.ctx) ∧ t.core.x = s.core.x ∧ t.spad = s.spad)) ∧
    (∀ (sup : Bool) (e : Eng) (r : Running), s.core.sys.sup = sup → (sup = false → s.core.sys.uact = true) →
      let y := s.core.sys
      let cause := if sup then y.causelo else y.ucauselo
      let epc := if sup then y.epc else y.uepc
      let vec : BitVec 96 := if sup then y.iterhi ++ y.iterlo else y.uiterhi ++ y.uiterlo
      let idx (k : Nat) : Nat := (vec.extractLsb' (16 * k) 16).toNat
      let q := s.q.get e
      epc.toNat % 4 = 0 → (if sup then y.dleft else y.udleft) ≠ 3 → cause.extractLsb' 8 3 = e.code → cause.extractLsb' 0 8 ∉ [(0x12 : BitVec 8), 0x13] →
      cause.getLsbD 20 = false → q.stuck = true → q.run = some r → q.faults = [] → r.bounds.length ≤ 6 →
        let bad := (∃ k < 6, ∃ b, r.bounds[k]? = some b ∧ b ≤ idx k) ∨ ∃ k < 6, r.bounds.length ≤ k ∧ idx k ≠ 0
        let back (t : State) := t.core.pc = epc ∧ (t.q.get e).entries = q.entries ∧ (t.q.get e).stuck = false ∧
          (t.q.get e).held = (q.held && q.hstuck) ∧
          (∀ g : Eng, g ≠ e → (t.q.get g).run = (s.q.get g).run ∧
            (t.q.get g).held = ((s.q.get g).held && ((s.q.get g).stuck || (s.q.get g).hstuck || (s.q.get g).faults != []))) ∧
          t.core.x = s.core.x ∧ sameMemory s t
        (cause.getLsbD 11 = true → ∃ t, exec .eret s = .next t ∧ back t ∧ (t.q.get e).run = none ∧
          (∀ i < 32, t.core.vfull.getLsbD i =
            (s.core.vfull.getLsbD i || ((dests r.resp r.entry.instr).v.getLsbD i && !(t.writesIn Eng.all).v.getLsbD i))) ∧
          ∀ i < 8, t.core.pfull.getLsbD i =
            (s.core.pfull.getLsbD i || ((dests r.resp r.entry.instr).p.getLsbD i && !(t.writesIn Eng.all).p.getLsbD i))) ∧
        (cause.getLsbD 11 = false → ¬bad → ∃ t n, exec .eret s = .next t ∧ back t ∧ iterIdx r.bounds n = (List.range r.bounds.length).map idx ∧
          (t.q.get e).run = some (r.resumeAt n)) ∧
        (cause.getLsbD 11 = false → bad → TrapsAt .eret s 0x4C ⟨0x01, 0x15, 0⟩)) ∧
    (s.core.sys.sup = false → s.core.sys.uact = false → TrapsAt .eret s 0x4C ⟨0x01, 0x0F, 0⟩) ∧
    (s.core.sys.sup = true → s.core.sys.epc.toNat % 4 ≠ 0 → TrapsAt .eret s 0x4C ⟨0x03, 0, s.core.sys.epc⟩) ∧
    (s.core.sys.sup = true → s.core.sys.epc.toNat % 4 = 0 → s.core.sys.dleft = 3 → TrapsAt .eret s 0x4C ⟨0x01, 0x0F, 0⟩) ∧
    (s.core.sys.sup = false → s.core.sys.uact = true → s.core.sys.uepc.toNat % 4 ≠ 0 → TrapsAt .eret s 0x4C ⟨0x03, 0, s.core.sys.uepc⟩) ∧
    (s.core.sys.sup = false → s.core.sys.uact = true → s.core.sys.uepc.toNat % 4 = 0 → s.core.sys.udleft = 3 → TrapsAt .eret s 0x4C ⟨0x01, 0x0F, 0⟩)

/-- R28, R264, R271. SAFEPT without a request, or inside a handler, only ends its word. With a request and every queue empty, a task that is not
speculative takes PREEMPT, delivered to the supervisor as R264 and R271 say: the word after it is the one to resume at, preq clears, the quay becomes
absent and the budget stops. With a request and a queue not yet empty, the strand waits. R114, R349, R321. HALT outside a delay region, with every queue
empty and the task not speculative, commits the task and halts the core for the task's launch; it waits for the queues, and a speculative task's HALT
waits to become non-speculative. No mooring, landing or granule changes. -/
def Obligations.SafePointsAndHalt : Prop :=
  (∀ s : State, s.core.region = none →
     (s.core.sys.preq = false ∨ s.core.sys.uact = true ∨ s.core.sys.sact = true → CompletesAs .safept s s) ∧
     (s.core.sys.preq = true → s.core.sys.uact = false → s.core.sys.sact = false → s.specNow = false →
       (s.allDrained = true →
         ∃ t, exec .safept s = .next t ∧ t.core.pc = s.core.sys.tvec ∧ t.core.sys.epc = s.core.pc + 4 ∧ t.core.sys.dleft = 0 ∧
           t.core.sys.causelo.extractLsb' 0 8 = 0x12 ∧ t.core.sys.causehi = 0 ∧ t.core.sys.preq = false ∧ t.core.sys.sup = true ∧
           t.core.sys.sact = true ∧ t.core.sys.pmode = s.core.sys.sup ∧ t.quay.absent = true ∧ t.core.budgetStopped = true ∧
           t.quay.moor = s.quay.moor ∧ t.gran = s.gran ∧ t.core.x = s.core.x) ∧
       (s.allDrained = false → s.core.drainFrom = none →
         ∃ t, exec .safept s = .next t ∧ Waited { s with core := { s.core with drainFrom := some s.now } } t .none))) ∧
  (∀ s : State, s.core.region = none →
     (s.specNow = false → s.allDrained = true →
       ∃ t, exec .halt s = .next t ∧ t.core.phase = .halted ∧ (∀ u ∈ s.runTask, (s.selfDie, s.selfCore, u.launch) ∈ t.unit.halted) ∧
         (∀ u ∈ s.runTask, ∀ v ∈ t.unit.tasks, v.num ≠ u.num) ∧ t.quay = s.quay ∧ t.gran = s.gran ∧ t.mem = s.mem ∧ t.spad = s.spad ∧
         t.core.x = s.core.x ∧ t.q = s.q) ∧
     (s.specNow = false → s.allDrained = false → ∃ t, exec .halt s = .next t ∧ Waited s.markEnded t .shut) ∧
     (s.specNow = true → ∃ t, exec .halt s = .next t ∧ Waited s.markEnded t .spec))

/-- R54, R113, R264, R270. A word executed in user mode leaves the core in user mode, unless it brought the strand to the first word of the
supervisor's handler with sact set and the user mode recorded in pmode. -/
def Obligations.UserModeRaisesItsModeOnlyByATrap : Prop :=
  ∀ (i : Instr) (s t : State), i.isWord = true → s.core.phase = .running → s.core.sys.sup = false → exec i s = .next t → t.core.sys.sup = true →
    t.core.sys.sact = true ∧ t.core.sys.pmode = false ∧ t.core.pc = t.core.sys.tvec

/-! ## Cluster, wheel and paging words -/

/-- R304, R305, R306, R309, R312. With the launch holding the cluster's flag unit, the task not speculative and the queues drained, FLADD adds the
low 32 bits of X[A] to one cell modulo 2^32, and FLSET replaces the cells that its mask names, both after ordering the earlier stores; FLWAIT reads its own core's cell once it has
reached the threshold by sequence numbers, and waits before. A launch that does not hold the unit raises PERM with the flag's number, and a
rank that the launch does not hold, named by FLADD or in FLSET's mask, raises UNBOUND. FLADD and FLSET wait for the queues as FENCE.cluster does, and in a
speculative task all three wait. FLADD poisons a cell in which it finds an uncorrectable error, FLSET clears the poison of what it replaces, and FLWAIT of a
poisoned cell raises ECC. FLWAIT is one of R253's waits (R303). That a speculative task waits before these checks is log entry 39,
and that the checks come before the wait for the queues is log entry 88: the model's choices. -/
def Obligations.FlagWordsUpdateTheFlagUnit : Prop :=
  (∀ (s : State) (d a : BitVec 5) (f : BitVec 8) (m : BitVec 3), s.specNow = false →
    (s.holdsFlags = true →
      (s.fenceReady 2 = true →
        (s.rankBound m.toNat = true →
          let u := s.fenced.setFlag f m (s.flag f m + (s.x a).extractLsb' 0 32)
          (8 * f.toNat + m.toNat ∉ s.unit.flagErrs → CompletesAs (.fladd a f m) s u) ∧
          (8 * f.toNat + m.toNat ∈ s.unit.flagErrs → ∃ t, exec (.fladd a f m) s = .next t ∧ 8 * f.toNat + m.toNat ∈ t.unit.flagPoison ∧
            Retired { u with unit := { u.unit with flagPoison := t.unit.flagPoison, flagErrs := t.unit.flagErrs } } t)) ∧
        ((s.x d).toNat < 256 → (∀ r < 8, (s.x d).getLsbD r = true → s.rankBound r = true) →
          ∃ t, exec (.flset d a f) s = .next t ∧ (∀ (g : BitVec 8) (r : BitVec 3), t.flag g r =
              if g = f ∧ (s.x d).getLsbD r.toNat = true then (s.x a).extractLsb' 0 32 else s.flag g r) ∧
            (∀ (g : BitVec 8) (r : BitVec 3), 8 * g.toNat + r.toNat ∈ t.unit.flagPoison ↔
              8 * g.toNat + r.toNat ∈ s.unit.flagPoison ∧ ¬(g = f ∧ (s.x d).getLsbD r.toNat = true)) ∧
            Retired { s.fenced with unit := { s.unit with
              flags := t.unit.flags, flagPoison := t.unit.flagPoison, flagErrs := t.unit.flagErrs } } t)) ∧
      ((s.x d).toNat ≥ 256 → TrapsAt (.flset d a f) s 0x59 ⟨0x01, 0x13, 0⟩) ∧
      ((s.x d).toNat < 256 → (∃ r < 8, (s.x d).getLsbD r = true ∧ s.rankBound r = false) →
        ∃ c, TrapsAt (.flset d a f) s 0x59 c ∧ c.code = 0x04 ∧ c.sub = 0x03) ∧
      (s.fenceReady 2 = false → (s.x d).toNat < 256 → (∀ r < 8, (s.x d).getLsbD r = true → s.rankBound r = true) → WaitsAt (.flset d a f) s .none) ∧
      (s.fenceReady 2 = false → s.rankBound m.toNat = true → WaitsAt (.fladd a f m) s .none) ∧
      (s.rankBound m.toNat = false → ∃ c, TrapsAt (.fladd a f m) s 0x58 c ∧ c.code = 0x04 ∧ c.sub = 0x03) ∧
      (8 * f.toNat + s.selfRank % 8 ∈ s.unit.flagPoison →
        TrapsAt (.flwait d a f) s 0x5A ⟨0x10, 0, BitVec.ofNat 64 (f.toNat + 256 * (s.selfRank % 8) + 2 ^ 62)⟩) ∧
      (8 * f.toNat + s.selfRank % 8 ∉ s.unit.flagPoison →
        let cell := s.flag f (BitVec.ofNat 3 s.selfRank)
        ((cell - (s.x a).extractLsb' 0 32).toNat < 2 ^ 31 →
          ∃ t, exec (.flwait d a f) s = .next t ∧ WroteX s.handOn t d (cell.setWidth 64) 1) ∧
        ((cell - (s.x a).extractLsb' 0 32).toNat ≥ 2 ^ 31 → WaitsAt (.flwait d a f) s .none))) ∧
    (s.holdsFlags = false →
      TrapsAt (.fladd a f m) s 0x58 ⟨0x05, 0, f.setWidth 64⟩ ∧ TrapsAt (.flset d a f) s 0x59 ⟨0x05, 0, f.setWidth 64⟩ ∧
      TrapsAt (.flwait d a f) s 0x5A ⟨0x05, 0, f.setWidth 64⟩)) ∧
  (∀ (s : State) (d a : BitVec 5) (f : BitVec 8) (m : BitVec 3), s.specNow = true →
    WaitsAt (.fladd a f m) s .spec ∧ WaitsAt (.flset d a f) s .spec ∧ WaitsAt (.flwait d a f) s .spec) ∧
  ∀ (s : State) (f g : BitVec 8) (m r : BitVec 3) (v : BitVec 32), (s.setFlag f m v).flag g r = if g = f ∧ r = m then v else s.flag g r

/-- R307. An atomic of a task that is not speculative, on a location that passes the rule's checks, leaves the value of its operation there (where the
host takes the write, R388) and the old value, zero-extended, in X[D], and no other byte of memory changes. A location that fails a check traps as the
rule says (ALIGN, PERM of a tagged pointer, RANGE, PERM, NRES, ECC, in this order), and nothing changes. A speculative task waits, before these checks by
the model's reading (log entry 39). -/
def Obligations.AtomicsReadAndReplaceOneLocation : Prop :=
  (∀ (s : State) (d a b : BitVec 5) (dbl uns : Bool), s.canonical →
    let n := if dbl then 8 else 4
    ∀ (pa : Nat),
    let old := leNat (s.globBytes pa n)
    let y := (s.x b).toNat % 2 ^ (8 * n)
    let sg (v : Nat) : Int := (BitVec.ofNat (8 * n) v).toInt
    ∀ p ∈ [
        ((0x60 : BitVec 7), Instr.amoAdd d a b dbl, (old + y) % 2 ^ (8 * n)),
        (0x61, .amoMin d a b dbl uns, if uns then min old y else if sg y < sg old then y else old),
        (0x62, .amoMax d a b dbl uns, if uns then max old y else if sg old < sg y then y else old),
        (0x63, .amoAnd d a b dbl, old &&& y), (0x64, .amoOr d a b dbl, old ||| y), (0x65, .amoXchg d a b dbl, y),
        (0x66, .amoCas d a b dbl, if old = (s.x d).toNat % 2 ^ (8 * n) then y else old)],
      (s.specNow = true → WaitsAt p.2.1 s .spec) ∧
      (s.specNow = false →
        (∀ c, AtomicTrap s permCtlAtomic (s.x a) n c → TrapsAt p.2.1 s p.1 c) ∧
        (AtomicOk s permCtlAtomic (s.x a) n pa →
          ∃ t, exec p.2.1 s = .next t ∧ (∀ r, t.x r = if r = d ∧ d ≠ 0 then BitVec.ofNat 64 old else s.x r) ∧
            (s.pkg.refusing = [] → leNat (t.mem.getN pa n) = p.2.2) ∧ (∀ x, ¬(pa ≤ x ∧ x < pa + n) → t.mem.get x = s.mem.get x) ∧
            t.spad = s.spad ∧ t.core.c = s.core.c ∧ t.core.b = s.core.b ∧ t.core.v = s.core.v ∧ t.core.p = s.core.p ∧ t.core.a = s.core.a ∧
            (s.unit.reads = [] → AfterWord s t 1 ∧ t.gran = s.gran ∧ t.core.tk = s.core.tk ∧ t.q = s.q)))) ∧
  ∀ (s : State) (need : BitVec 8) (ea : Word), ea.toNat < 2 ^ 52 →
    (s.cover s.ctx false (ea.toNat / 4096) = none → s.cover s.ctx true (ea.toNat / 4096) = none → s.translate s.ctx need ea.toNat = .range) ∧
    ∀ e, s.cover s.ctx false (ea.toNat / 4096) = some e ∨
        (s.cover s.ctx false (ea.toNat / 4096) = none ∧ s.cover s.ctx true (ea.toNat / 4096) = some e) →
      need &&& e.perm ≠ need → s.translate s.ctx need ea.toNat = .perm 0

/-- R307, R308. WAITA of a task that is not speculative completes with the value read, zero-extended, where it differs from the low bytes of X[B]; while
it is equal the core waits with the monitor on that line, until the monitor fires. The checks of R307 apply, with CTL-read alone. It is one of R253's waits
(R303). That a speculative task waits before these checks is log entry 39, the model's reading. -/
def Obligations.WaitaWaitsForAChange : Prop :=
  (∀ (s : State) (d a b : BitVec 5) (dbl : Bool) (pa : Nat),
    let n := if dbl then 8 else 4
    let old := leNat (s.globBytes pa n)
    s.specNow = false → s.core.monitor = none →
      (∀ c, AtomicTrap s permCtlRead (s.x a) n c → TrapsAt (.waita d a b dbl) s 0x5B c) ∧
      (AtomicOk s permCtlRead (s.x a) n pa →
        let u := s.tlbTouch s.ctx permCtlRead (s.x a).toNat
        (old ≠ (s.x b).toNat % 2 ^ (8 * n) → CompletesAs (.waita d a b dbl) s (u.handOn.setX d (BitVec.ofNat 64 old))) ∧
        (old = (s.x b).toNat % 2 ^ (8 * n) →
          ∃ t, exec (.waita d a b dbl) s = .next t ∧ Waited { u with core := { u.core with monitor := some (pa / 64) } } t .none))) ∧
  ∀ (s : State) (d a b : BitVec 5) (dbl : Bool),
    (s.specNow = true → WaitsAt (.waita d a b dbl) s .spec) ∧
    (s.specNow = false → s.core.monitor.isSome = true → WaitsAt (.waita d a b dbl) s .none) ∧
    exec .waitaMonitorFire s = .next { s with core := { s.core with monitor := none } }

/-- R307, R328, R329. An SC word of a core on the wheel, whose task is not speculative, whose access passes its checks and whose queues are drained,
orders the earlier stores and waits, cycle by cycle, for its first owned position that begins from then on; there it issues, at once where that is now:
SCLD with the 8 bytes in X[D], SCST with X[D] in the 8 bytes, SCAMO with the old value in X[D] and the value of R307's operation in its location, SCFENCE
with no access. No condition bit changes. A core that owns no position raises WHEEL. That completion comes 4 cycles after the issue, without the memory
path, is log entry 5, that the checks are made again at the position is log entry 42, and that a speculative task waits before them is log entry 39: all the
model's choices. -/
def Obligations.SlotWheelOperationsIssueAtAPosition : Prop :=
  (∀ (s : State) (d a b : BitVec 5) (imm : BitVec 12) (dbl : Bool) (op : BitVec 3), ∀ p ∈ [
      ((0x68 : BitVec 7), Instr.scld d a imm, some (permCtlRead, s.x a + imm.signExtend 64, 8)),
      (0x69, .scst d a imm, some (permCtlWrite, s.x a + imm.signExtend 64, 8)),
      (0x6A, .scamo d a b dbl op, some (permCtlAtomic, s.x a, if dbl then 8 else 4)), (0x6B, .scfence, none)],
    (∀ at_, s.core.wait ≠ .sc p.2.1 at_) →
    (s.specNow = true → WaitsAt p.2.1 s .spec) ∧
    (s.specNow = false → s.onWheel = false → TrapsAt p.2.1 s p.1 ⟨0x0D, 0, 0⟩) ∧
    (s.specNow = false → s.onWheel = true →
      (∀ need ea n c, p.2.2 = some (need, ea, n) → AtomicTrap s need ea n c → TrapsAt p.2.1 s p.1 c) ∧
      ((∀ need ea n, p.2.2 = some (need, ea, n) → ∃ pa, AtomicOk s need ea n pa) →
        (s.fenceReady 4 = true → s.toSlot ≠ 0 →
          ∃ t, exec p.2.1 s = .next t ∧ Waited s.fenced t (.sc p.2.1 (s.now + BitVec.ofNat 64 s.toSlot))) ∧
        (s.fenceReady 4 = false → WaitsAt p.2.1 s .none)))) ∧
  (∀ s : State, (∃ k < 1024, s.ownsSlot k = true) →
    let c := s.now.toNat + s.toSlot
    c % 4 = 0 ∧ s.ownsSlot (c / 4 % 1024) = true ∧ ∀ m, s.now.toNat ≤ 4 * m → 4 * m < c → s.ownsSlot (m % 1024) = false) ∧
  (∀ (s : State) (d a b : BitVec 5) (imm : BitVec 12) (dbl : Bool) (op : BitVec 3) (at_ : BitVec 64), ∀ p ∈ [
      ((0x68 : BitVec 7), Instr.scld d a imm, some (permCtlRead, s.x a + imm.signExtend 64, 8)),
      (0x69, .scst d a imm, some (permCtlWrite, s.x a + imm.signExtend 64, 8)),
      (0x6A, .scamo d a b dbl op, some (permCtlAtomic, s.x a, if dbl then 8 else 4)), (0x6B, .scfence, none)],
    s.core.wait = .sc p.2.1 at_ → at_.toNat ≤ s.now.toNat →
      (s.onWheel = false → TrapsAt p.2.1 s p.1 ⟨0x0D, 0, 0⟩) ∧
      (s.onWheel = true → ∀ need ea n c, p.2.2 = some (need, ea, n) → AtomicTrap s need ea n c → TrapsAt p.2.1 s p.1 c)) ∧
  ∀ (s : State) (d a b : BitVec 5) (imm : BitVec 12) (dbl : Bool) (pa : Nat), s.specNow = false → s.onWheel = true → s.canonical →
    let ea := s.x a + imm.signExtend 64
    let issued (i : Instr) (f : State → State → Prop) :=
      let done (u t : State) := exec i s = .next t ∧ AfterWord s t 1 ∧ t.now = s.now + 4 ∧ t.core.c = s.core.c ∧ f u t
      (∀ at_, s.core.wait = .sc i at_ →
        (s.now.toNat < at_.toNat → WaitsAt i s (.sc i at_) ∧ exec .scOperationIssue s = .next s) ∧
        (at_.toNat ≤ s.now.toNat → ∃ t, done s t ∧ exec .scOperationIssue s = .next t)) ∧
      ((∀ at_, s.core.wait ≠ .sc i at_) → s.fenceReady 4 = true → s.toSlot = 0 → ∃ t, done s.fenced t)
    let stored (n v : Nat) (t : State) := (s.pkg.refusing = [] → leNat (t.mem.getN pa n) = v) ∧
      (∀ x, ¬(pa ≤ x ∧ x < pa + n) → t.mem.get x = s.mem.get x) ∧
      t.spad = s.spad ∧ t.gran = s.gran ∧ t.q = s.q ∧ t.core.b = s.core.b ∧ t.core.v = s.core.v ∧ t.core.p = s.core.p ∧ t.core.a = s.core.a
    let loaded (v : Nat) (t : State) := ∀ r, t.x r = if r = d ∧ d ≠ 0 then BitVec.ofNat 64 v else s.x r
    (AtomicOk s permCtlRead ea 8 pa → issued (.scld d a imm) fun u t => loaded (leNat (s.globBytes pa 8)) t ∧ sameMemory s t ∧
      t = passed { u with core := { u.core with x := t.core.x }, tlb := t.tlb } t) ∧
    (AtomicOk s permCtlWrite ea 8 pa → s.unit.reads = [] → issued (.scst d a imm) fun _ t => stored 8 (s.x d).toNat t ∧ t.core.x = s.core.x) ∧
    (let n := if dbl then 8 else 4
     let old := leNat (s.globBytes pa n)
     let y := (s.x b).toNat % 2 ^ (8 * n)
     let sg (v : Nat) : Int := (BitVec.ofNat (8 * n) v).toInt
     ∀ p ∈ [((0 : BitVec 3), (old + y) % 2 ^ (8 * n)), (1, if sg y < sg old then y else old), (2, if sg old < sg y then y else old), (3, old &&& y),
         (4, old ||| y), (5, y), (6, if old = (s.x d).toNat % 2 ^ (8 * n) then y else old)],
       AtomicOk s permCtlAtomic (s.x a) n pa → s.unit.reads = [] → issued (.scamo d a b dbl p.1) fun _ t => loaded old t ∧ stored n p.2 t) ∧
    issued .scfence fun u t => sameMemory s t ∧ t = passed u t

/-- R327. PGREQ of an address that a range entry covers, or whose page is resident, sets c7; of a page that is not, the strand waits for the page
service, whose report of a leaf that makes the page resident sets c7 and whose refusal clears it; that the report carries the leaf, which the model stores
in the table, is log entry 41. An address that no entry covers raises RANGE and a tagged one PERM; that a table which the walker cannot read raises ECC is
log entry 51. Both entries are the model's choices. -/
def Obligations.PageRequestsWaitForTheService : Prop :=
  (∀ (s : State) (a : BitVec 5) (imm : BitVec 12), let ea := s.x a + imm.signExtend 64
    (ea.toNat ≥ 2 ^ 52 → TrapsAt (.pgreq a imm) s 0x6C ⟨0x05, 2, ea⟩) ∧
    (ea.toNat < 2 ^ 52 →
      ((s.cover s.ctx false (ea.toNat / 4096)).isSome = true → CompletesC (.pgreq a imm) s 7 true) ∧
      (s.cover s.ctx false (ea.toNat / 4096) = none →
        (s.cover s.ctx true (ea.toNat / 4096) = none → TrapsAt (.pgreq a imm) s 0x6C ⟨0x04, 0, ea⟩) ∧
        ∀ e, s.cover s.ctx true (ea.toNat / 4096) = some e →
          (s.leafPresent e.pg2m ea.toNat = true → CompletesC (.pgreq a imm) s 7 true) ∧
          (s.leafPresent e.pg2m ea.toNat = false → ∀ x, s.walk e.pg2m ea.toNat = .ecc x → TrapsAt (.pgreq a imm) s 0x6C ⟨0x10, 0, BitVec.ofNat 64 x⟩) ∧
          (s.leafPresent e.pg2m ea.toNat = false → (∀ x, s.walk e.pg2m ea.toNat ≠ .ecc x) → WaitsAt (.pgreq a imm) s (.page ea))))) ∧
  ∀ (s : State) (va : Word), s.core.wait = .page va →
    CompletesC (.pageServiceReport none) s 7 false ∧
    ∀ (leaf : BitVec 64) (e : RangeEntry) (at_ : Nat), s.cover s.ctx true (va.toNat / 4096) = some e →
      leafSlot s.mem va.toNat (if e.pg2m then [(39, 13), (30, 9), (21, 9)] else [(39, 13), (30, 9), (21, 9), (16, 5)])
        ((s.core.sys.ptroot.extractLsb' 12 40).toNat * 4096) = some at_ →
      let u := s.writeDirect none at_ (leBytes 8 leaf.toNat)
      u.leafPresent e.pg2m va.toNat = true → ∃ t, exec (.pageServiceReport (some leaf)) s = .next t ∧ Retired (u.setC 7 true) t

/-! ## Task and collective words -/

/-- R332, R333, R352. TSPAWN of a sound descriptor by a running task creates its child with the next task number, which X[D] receives, on the die that
its records bind or the parent's (where that number is not in use, as it never is in a run). The child is ready, holds every field of the descriptor,
depends on its parent where that is speculative, and has the engine permissions that both the descriptor and the parent have; where no task of the
timeline is about to become non-speculative, nothing else changes but its launch's group count and the frontier. A misaligned address or entry raises ALIGN, a bad
descriptor DESC, a timeline other than the parent's or a key not above its own ARG, and a full task unit TASKLIMIT, each without effect; a read that is
refused traps, and one that must wait waits. That the parent's mask lacks its PRT bit while another context holds the quay is log entries 28 and 74, the
model's reading. -/
def Obligations.TspawnCreatesATask : Prop :=
  ∀ (s : State) (d a : BitVec 5),
    ((s.x a).toNat % 64 ≠ 0 → TrapsAt (.tspawn d a) s 0x70 ⟨0x03, 0, s.x a⟩) ∧
    ((s.x a).toNat % 64 = 0 → (∀ c, scalarLoad s true (s.x a) 64 = .trap c → TrapsAt (.tspawn d a) s 0x70 c) ∧
      (scalarLoad s true (s.x a) 64 = .wait → WaitsAt (.tspawn d a) s .spec)) ∧
    ((s.x a).toNat % 64 = 0 → ∀ (u : State) (bs : List Byte), scalarLoad s true (s.x a) 64 = .ok (bs, u) →
      let desc := BitVec.ofNat 512 (leNat bs)
      let bad := desc.getLsbD 295 = true ∨ desc.extractLsb' 300 4 ≠ 0 ∨ desc.extractLsb' 310 2 ≠ 0 ∨ desc.extractLsb' 384 128 ≠ 0 ∨ desc.extractLsb' 256 32 = 0
      let traps (c : Cause) := exec (.tspawn d a) s = .next ((u.trapOrPark (c.toRec 0x70 0) u.core.pc).tick 1)
      let entry := desc.extractLsb' 0 64
      let ts := desc.extractLsb' 128 64
      let wid := desc.extractLsb' 192 64
      (bad → traps ⟨0x01, 0x0C, 0⟩) ∧
      (¬bad → entry.toNat % 4 ≠ 0 → traps ⟨0x03, 0, entry⟩) ∧
      (¬bad → entry.toNat % 4 = 0 → ∀ p, u.runTask = some p →
        let child := childOf desc p u.specNow
        let die := (u.bindingDie child).getD p.die
        let above := p.ts.toNat < ts.toNat ∨ (ts = p.ts ∧ p.wid.toNat < wid.toNat)
        let held := (u.unit.tasks.filter fun t => decide (t.die = die)).length
        (desc.extractLsb' 296 4 ≠ p.timeline ∨ ¬above → traps ⟨0x01, 0x13, 0⟩) ∧
        (desc.extractLsb' 296 4 = p.timeline → above → 4096 ≤ held → traps ⟨0x0E, 0, 0⟩) ∧
        (desc.extractLsb' 296 4 = p.timeline → above → held < 4096 → (∀ v ∈ u.unit.tasks, v.num ≠ u.unit.nextNum) →
          ∃ t c, exec (.tspawn d a) s = .next t ∧ (∀ r, t.x r = if r = d ∧ d ≠ 0 then u.unit.nextNum else u.x r) ∧
            t.unit.nextNum = u.unit.nextNum + 1 ∧ c ∈ t.unit.tasks ∧ c.num = u.unit.nextNum ∧ c.state = .ready ∧ c.die = die ∧ c.parent = p.num ∧
            c.entry = entry ∧ c.args = desc.extractLsb' 64 64 ∧ c.ts = ts ∧ c.wid = wid ∧ c.budget = desc.extractLsb' 256 32 ∧
            c.prio = desc.extractLsb' 288 6 ∧ c.spec = desc.getLsbD 294 ∧ c.timeline = desc.extractLsb' 296 4 ∧ c.frame = desc.extractLsb' 312 8 ∧
            c.dep = u.specNow ∧ c.launch = p.launch ∧ c.ctx = p.ctx ∧ c.pmask = desc.extractLsb' 304 6 &&& p.mask ∧ c.aborts = 0 ∧ c.trap = 0 ∧
            (p.shut = false → p.mask = p.pmask) ∧
            ((∀ v ∈ u.unit.tasks, v.timeline = p.timeline → v.nonspec = true ∨ u.inFrontier v = false) →
              sameMemory u t ∧ AfterWord u t 1 ∧ t.gran = u.gran ∧ t.core.c = u.core.c ∧ t.q = u.q ∧
              (∀ v ∈ u.unit.tasks, v.num ≠ p.num → v ∈ t.unit.tasks) ∧
              ∀ l ∈ u.unit.launches, (if l.id = p.launch then { l with group := l.group + 1 } else l) ∈ t.unit.launches))))

/-- R345, R348, R349, R352. With the queues drained, TEND of a task that is not speculative commits it: the task is no more, its children lose their
parent link, and the core is free. TYIELD returns it to ready instead; TYIELD of a speculative task aborts it. TEND of a speculative task waits. -/
def Obligations.TaskEndsCommitYieldOrAbort : Prop :=
  ∀ (s : State) (u : Task), s.core.region = none → s.runTask = some u →
    (s.specNow = false → s.allDrained = true →
      (∃ t, exec .tend s = .next t ∧ t.core.phase = .idle ∧ (∀ v ∈ t.unit.tasks, v.num ≠ u.num ∧ (u.num ≠ 0 → v.parent ≠ u.num)) ∧
        t.core.sys.uact = false ∧ t.core.sys.sact = false ∧ t.core.x = s.core.x ∧ t.q = s.q ∧ t.mem = s.mem ∧ t.spad = s.spad ∧ t.gran = s.gran) ∧
      ∃ t, exec .tyield s = .next t ∧ t.core.phase = .idle ∧ (∃ v ∈ t.unit.tasks, v.num = u.num ∧ v.state = .ready ∧ v.budget = u.budget) ∧
        t.core.x = s.core.x ∧ t.q = s.q ∧ t.mem = s.mem ∧ t.spad = s.spad ∧ t.gran = s.gran) ∧
    (s.specNow = false → s.allDrained = false → ∃ t, exec .tend s = .next t ∧ Waited s.markEnded t .shut) ∧
    (s.specNow = true →
      (∃ t, exec .tend s = .next t ∧ Waited s.markEnded t .spec) ∧ exec .tyield s = .next ((s.abort u.num).tick 1))

/-- R271, R344, R346, R352. TBUDGET adds to the running task's budget, up to 2^32 − 1, and gives the result; TSTAT gives a task's status word, 0 for no task of
the context; TFRONT gives the frontier of a timeline of the context, and raises PERM for another timeline; TABORT of another task of the context, by a task
that is not speculative, aborts it unless it is non-speculative, and ends its word. TABORT of the running task, or of 0, aborts it while it is
speculative; else TABORT of 0 raises ILL, cause ARG, and TABORT of its number ends its word. TABORT of another task waits in a speculative task. That the running task's own
number acts as 0 while it is speculative, and else only ends its word, is log entry 40, the model's reading. -/
def Obligations.TaskWordsReadAndAdjust : Prop :=
  (∀ (s : State) (d a : BitVec 5),
    ∃ t, exec (.tbudget d a) s = .next t ∧
      let b := min (s.core.sys.budget.toNat + (s.x a).toNat) (2 ^ 32 - 1)
      WroteX (s.setSys fun r => { r with budget := BitVec.ofNat 32 b }) t d (BitVec.ofNat 64 b) 1) ∧
  (∀ (s : State) (d : BitVec 5) (k : BitVec 4), (s.context s.ctx).timelines.getLsbD k.toNat = true →
    CompletesX (.tfrontTs d k) s d (s.unit.frontier[k.toNat]'(by omega)).1 1 ∧ CompletesX (.tfrontWid d k) s d (s.unit.frontier[k.toNat]'(by omega)).2 1) ∧
  (∀ (s : State) (d : BitVec 5) (k : BitVec 4), (s.context s.ctx).timelines.getLsbD k.toNat = false →
    ∃ c, TrapsAt (.tfrontTs d k) s 0x76 c ∧ TrapsAt (.tfrontWid d k) s 0x76 c ∧ c.code = 0x05 ∧ c.sub = 0) ∧
  (∀ (s : State) (d a : BitVec 5),
    (s.namedTask (s.x a) = none → CompletesX (.tstat d a) s d 0 1) ∧
    ∀ u, s.namedTask (s.x a) = some u → ∃ v : Word, CompletesX (.tstat d a) s d v 1 ∧
      v.extractLsb' 0 3 = (match u.state with | .ready => 1 | .running => 2 | .parked => 3 | .ended => 4) ∧
      v.getLsbD 3 = (!s.taskNonspec u) ∧ v.getLsbD 4 = u.spec ∧ v.getLsbD 5 = u.dep ∧
      v.extractLsb' 6 8 = (if u.state = .parked then u.trap else 0) ∧ v.extractLsb' 16 16 = u.aborts ∧
      v.extractLsb' 32 6 = (if u.state = .ready then 0 else BitVec.ofNat 6 u.core) ∧ v.extractLsb' 38 2 = BitVec.ofNat 2 u.die) ∧
  (∀ (s : State) (a : BitVec 5),
    (s.x a = 0 → s.specNow = false → TrapsAt (.tabort a) s 0x73 ⟨0x01, 0x13, 0⟩) ∧
    (s.specNow = true → s.x a ≠ 0 → (∀ r ∈ s.runTask, r.num ≠ s.x a) → WaitsAt (.tabort a) s .spec) ∧
    ∀ r, s.runTask = some r →
      (s.x a = 0 ∨ s.x a = r.num → s.specNow = true → exec (.tabort a) s = .next ((s.abort r.num).tick 1)) ∧
      (s.x a ≠ 0 → s.x a = r.num → s.specNow = false → CompletesAs (.tabort a) s s)) ∧
  ∀ (s : State) (a : BitVec 5) (u : Task), s.specNow = false → s.x a ≠ 0 → (∀ r ∈ s.runTask, r.num ≠ s.x a) →
    (s.namedTask (s.x a) = some u → s.taskNonspec u = false → CompletesAs (.tabort a) s (s.abort (s.x a))) ∧
    (s.namedTask (s.x a) = some u → s.taskNonspec u = true → CompletesAs (.tabort a) s s) ∧
    (s.namedTask (s.x a) = none → CompletesAs (.tabort a) s s)

/-- R406, R407, R408, R409. CSTART on an idle communicator of the context with a sound argument block starts a collective under the next sequence number and
gives index and number; CABORT notes the abort; CSTAT gives the status word. A value that names no communicator of the context raises ARG, and so do an argument
block with a bad field and a partition of fewer than two chunks on the wire. That a speculative task waits before these checks is log entry 39, the model's
reading. -/
def Obligations.CollectiveWordsActOnACommunicator : Prop :=
  ∀ (s : State) (d a b : BitVec 5),
    (∀ c, s.namedComm (s.x a) = some c →
      CompletesX (.cstat d a) s d c.status 1 ∧
      (s.specNow = false →
        CompletesAs (.cabort a) s (s.setComm (c.flag .abort 0)) ∧
        ((s.x b).toNat % 64 ≠ 0 → TrapsAt (.cstart d a b) s 0x78 (.align (s.x b))) ∧
        ((s.x b).toNat % 64 = 0 → ∀ bs u, scalarLoad s true (s.x b) 64 = .ok (bs, u) →
          (collOf (BitVec.ofNat 512 (leNat bs)) s.core.sys.bbase = none → TrapsAt (.cstart d a b) s 0x78 ⟨0x01, 0x13, 0⟩) ∧
          (∀ r, collOf (BitVec.ofNat 512 (leNat bs)) s.core.sys.bbase = some r →
            c.entry.slen.toNat < 2 * (if c.entry.mode = false ∧ r.op = 0 then 16 else if r.fmt = .bf16 then 2 else 4) →
            exec (.cstart d a b) s = .next ((u.trapOrPark (Cause.toRec ⟨0x01, 0x13, 0⟩ 0x78 0) u.core.pc).tick 1)) ∧
          ∀ r, collOf (BitVec.ofNat 512 (leNat bs)) s.core.sys.bbase = some r → 2 * wireSize c.entry.mode r.op r.fmt ≤ c.entry.slen.toNat →
            (c.run.isSome = true → ∃ t, exec (.cstart d a b) s = .next t ∧ Waited u t .none) ∧
            (c.run = none → ∃ t c', exec (.cstart d a b) s = .next t ∧ c'.seq = c.seq + 1 ∧ c'.run.isSome = true ∧ c'.idx = c.idx ∧ c'.entry = c.entry ∧
              Retired ((u.setComm c').setX d ((c'.seq ++ c.idx : BitVec 22).setWidth 64)) t)))) ∧
    (s.namedComm (s.x a) = none →
      TrapsAt (.cstat d a) s 0x7A ⟨0x01, 0x13, 0⟩ ∧
      (s.specNow = false → TrapsAt (.cabort a) s 0x79 ⟨0x01, 0x13, 0⟩ ∧ TrapsAt (.cstart d a b) s 0x78 ⟨0x01, 0x13, 0⟩)) ∧
    (s.specNow = true → WaitsAt (.cabort a) s .spec ∧ WaitsAt (.cstart d a b) s .spec)

/-! ## Engine words at the splitter -/

/-- R13, R14, R17, R21, R22, R54. Every VEC word enters the VEC queue, and every MTX word the MTX queue, with the register values it names; every LDQ and
STQ word its copy engine's queue, every PRT and KVC word its queue; PPACE, PGRP and KVBFT only in supervisor mode.
That PERM of the engine mask carries the word's address is log entry 11, the model's choice. -/
def Obligations.EngineQueuesTakeTheirWords : Prop :=
  (∀ (i : Instr) (s : State) (w : IWord) (e : Eng), queueOf i = some e → encodeWord i = some w →
     Enters i s e (entryOf s i 0 (w.extractLsb' 22 7) (scalarRegs i)) 1) ∧
  ∀ i : Instr, supervisorOnly i = true ↔ (∃ d, i = .ppace d) ∨ (∃ d, i = .pgrp d) ∨ ∃ d, i = .kvbft d

/-- R40, R41, R430. A well-formed X form enters its base command's queue as one entry of form 1 with the five registers it names; a long form of an
engine as one of form 2 whose X4 is the zero-extended immediate. Both move the program counter by two words. That PERM of the engine mask carries
the word's address is log entry 11, the model's choice. -/
def Obligations.PairsEnterAsOneEntry : Prop :=
  (∀ (base : Instr) (x : XRegs) (s : State) (w : IWord) (e : Eng), (Instr.xForm base x).wellFormed = true → encodeWord base = some w →
    Eng.ofCode (w.extractLsb' 29 3) = some e → Enters (.xForm base x) s e (entryOf s base 1 (w.extractLsb' 22 7) x) 2) ∧
  ∀ (s : State) (v : BitVec 5) (d1 d2 : BitVec 6) (n : BitVec 3) (sl : BitVec 4) (q : BitVec 3) (imm : BitVec 32),
    ∀ p ∈ [(Instr.vsplatL v imm, Eng.vec, (1 : BitVec 7), Instr.vsplatL v imm), (.cpinNL d1 d2 n sl q imm, .ldq, 1, .cpinN d1 d2 n sl q),
        (.cpfillWL d1 n sl imm, .ldq, 2, .cpfillW d1 n sl), (.cpfillNL d1 n sl imm, .ldq, 3, .cpfillN d1 n sl),
        (.cpoutNL d1 d2 n sl imm, .stq, 1, .cpoutN d1 d2 n sl), (.noteL d1 d2 sl imm, .prt, 1, .note d1 d2 sl), (.landL d1 sl imm, .prt, 2, .land d1 sl),
        (.unlandL imm, .prt, 3, .unland), (.declL imm, .prt, 4, .decl), (.nwaitL d1 imm, .prt, 5, .nwaitTag d1), (.retendL imm, .prt, 6, .retend),
        (.kvpolL imm, .kvc, 1, .kvpol), (.kvtrimL d1 imm, .kvc, 2, .kvtrim d1)],
      Enters p.1 s p.2.1
        { entryOf s p.2.2.2 2 p.2.2.1 ⟨0, 0, 0, 0, 0⟩ with x0 := 0, x1 := 0, x2 := 0, x3 := 0, x4 := imm.setWidth 64 } 2

/-! ## Engines at work -/

/-- R15, R21, R23, R166 to R178. At the head of an idle VEC queue that is not held, a word that reads and writes registers only, with its sources FULL,
runs in one move: it leaves the queue, its result is in place, each vector or predicate that it writes is FULL again unless a later word writes it, every
other FULL bit stays, and nothing else changes but the order of accesses that its registers hand on (R254; log entry 75). -/
def Obligations.VectorRegisterWordsRunInOrder : Prop :=
  ∀ (s : State) (en : Entry) (rest : List Entry), s.q.vec = { Queue.empty with entries := en :: rest } →
    queueOf en.instr = some .vec ∨ (∃ d imm, en.instr = .vsplatL d imm) → vecMem en.instr = none → tokenWord en.instr = none →
    (∀ c a x, en.instr ≠ .vconfGap c a x) → (∀ c a b x, en.instr ≠ .vconfDrift c a b x) → s.pkg.throttle = 0 →
    (∀ x ∈ srcs en.instr, (if x.pred then (s.emptyFor .vec).p.getLsbD x.idx else (s.emptyFor .vec).v.getLsbD x.idx) = false) →
    ∃ t r, s.engineStep .vec = some t ∧ r.entry = en ∧ r.seed = s.core.sys.seed ∧ t.q.vec = { s.q.vec with entries := rest } ∧
      (∀ e, e ≠ Eng.vec → t.q.get e = s.q.get e) ∧ t.core.v = (vecRegs r s).core.v ∧ t.core.p = (vecRegs r s).core.p ∧
      (∀ k < 32, t.core.vfull.getLsbD k =
        (s.core.vfull.getLsbD k || ((dests s.core.sys.resp en.instr).v.getLsbD k && !(t.writesIn Eng.all).v.getLsbD k))) ∧
      (∀ k < 8, t.core.pfull.getLsbD k =
        (s.core.pfull.getLsbD k || ((dests s.core.sys.resp en.instr).p.getLsbD k && !(t.writesIn Eng.all).p.getLsbD k))) ∧
      t = { s with
        q := t.q, recent := t.recent
        core := { s.core with v := t.core.v, p := t.core.p, vfull := t.core.vfull, pfull := t.core.pfull } }

/-- R118, R120 to R123, R137, R162, R163, R166 to R189. What the VEC commands compute, element by element. Integer and float lanes: each result element depends on
the elements of the same place alone (and on the immediate, or the old destination, of a word that has one); a float lane gives its first NaN operand quieted, else the
exact value rounded once. Compares and masks give their bits to every byte of an element; conversions round once; reductions and scans run down their
tree; the permutations name the element each place takes. A loaded vector holds its parts in order and a stored one is spread over them, the coordinates
being those of the word; a confidence test sets one predicate bit and writes its record. VEXP2 and VLOG2 are stated where their result is exact or
special; the exponent of VSCALE counts up to 1,000 either way, beyond which every result is the same. No other vector or predicate register changes. What VSCAN does with
its first element and the lane of an empty VCONF.gap are log entry 77, the model's choices. -/
def Obligations.VectorCommandsComputeTheirResults : Prop :=
  (∀ (s : State) (r : Running) (ty : ElemType) (d a b : BitVec 5) (ta tb : Bool) (k : Nat), ty.isFloat = false → k < 2048 / ty.bits →
    let w := ty.bits
    let el (v : Vec) : Nat := (v.extractLsb' (w * k) w).toNat
    let val (n : Nat) : Int := if ty.isSigned then (BitVec.ofNat w n).toInt else n
    let enc (i : Int) : Nat := (i % 2 ^ w).toNat
    let sat (i : Int) : Nat := enc (if ty.isSigned then max (-2 ^ (w - 1)) (min (2 ^ (w - 1) - 1) i) else max 0 (min (2 ^ w - 1) i))
    let least (m n : Nat) : Nat := if val m ≤ val n then m else n
    let most (m n : Nat) : Nat := if val m ≥ val n then m else n
    let x := el (s.v a)
    let y := el (s.v b)
    let z := el (s.v d)
    ∀ (i : BitVec 5), ∀ p ∈ [(Instr.vadd ⟨d, a, b, ta, tb, 0, ty⟩, (x + y) % 2 ^ w), (.vsub ⟨d, a, b, ta, tb, 0, ty⟩, (x + 2 ^ w - y) % 2 ^ w),
        (.vaddSat ⟨d, a, b, ta, tb, ty⟩, sat (val x + val y)), (.vsubSat ⟨d, a, b, ta, tb, ty⟩, sat (val x - val y)),
        (.vmul ⟨d, a, b, ta, tb, 0, ty⟩, x * y % 2 ^ w), (.vmulHi ⟨d, a, b, ta, tb, ty⟩, enc (val x * val y / 2 ^ w)),
        (.vfma ⟨d, a, b, ta, tb, 0, ty⟩, enc (x * y + z)), (.vfmaNp ⟨d, a, b, ta, tb, 0, ty⟩, enc (-(x * y : Int) + z)),
        (.vfmaNa ⟨d, a, b, ta, tb, 0, ty⟩, enc (x * y - z)), (.vfmaNn ⟨d, a, b, ta, tb, 0, ty⟩, enc (-(x * y : Int) - z)),
        (.vmin ⟨d, a, b, ta, tb, 0, ty⟩, least x y), (.vmax ⟨d, a, b, ta, tb, 0, ty⟩, most x y),
        (.vclamp ⟨d, a, b, ta, tb, 0, ty⟩, least (most x y) z), (.vabs ⟨d, a, ta, 0, ty⟩, enc (val x).natAbs),
        (.vabd ⟨d, a, b, ta, tb, 0, ty⟩, enc (val x - val y).natAbs), (.vneg ⟨d, a, ta, 0, ty⟩, enc (-(x : Int))),
        (.vsign ⟨d, a, b, ta, tb, 0, ty⟩, if val x = 0 then 0 else if val x < 0 then enc (-(y : Int)) else y),
        (.vavg ⟨d, a, b, ta, tb, 0, ty⟩, enc ((val x + val y + 1) / 2)),
        (.vclz ⟨d, a, ta, ty⟩, ((List.range w).takeWhile fun j => x / 2 ^ (w - 1 - j) % 2 == 0).length),
        (.vpopc ⟨d, a, ta, ty⟩, ((List.range w).filter fun j => x / 2 ^ j % 2 == 1).length),
        (.vaddI ⟨d, a, i, ta, ty⟩, enc (x + i.toInt)), (.vminI ⟨d, a, i, ta, ty⟩, least x (enc i.toInt)),
        (.vmaxI ⟨d, a, i, ta, ty⟩, most x (enc i.toInt)), (.vshlI ⟨d, a, i, ta, ty⟩, if i.toNat < w then x * 2 ^ i.toNat % 2 ^ w else 0),
        (.vshrI ⟨d, a, i, ta, ty⟩, if i.toNat < w then x / 2 ^ i.toNat else 0),
        (.vsraI ⟨d, a, i, ta, ty⟩, enc ((BitVec.ofNat w x).toInt / 2 ^ min i.toNat (w - 1))),
        (.vsra ⟨d, a, b, ta, tb, ty⟩, enc ((BitVec.ofNat w x).toInt / 2 ^ min y (w - 1))), (.vand ⟨d, a, b, ta, tb, ty⟩, x &&& y), (.vor ⟨d, a, b, ta, tb, ty⟩, x ||| y),
        (.vxor ⟨d, a, b, ta, tb, ty⟩, x ^^^ y), (.vnot ⟨d, a, ta, ty⟩, 2 ^ w - 1 - x), (.vmov ⟨d, a, ta, 0, ty⟩, x),
        (.vshl ⟨d, a, b, ta, tb, ty⟩, if y < w then x * 2 ^ y % 2 ^ w else 0), (.vshr ⟨d, a, b, ta, tb, ty⟩, if y < w then x / 2 ^ y else 0)],
      r.entry.instr = p.1 →
        el ((vecRegs r s).v d) = p.2 ∧ (∀ q, q ≠ d → (vecRegs r s).v q = s.v q) ∧ (vecRegs r s).core.p = s.core.p ∧ (vecRegs r s).mem = s.mem ∧
          (vecRegs r s).spad = s.spad ∧ (vecRegs r s).gran = s.gran ∧ (vecRegs r s).core.x = s.core.x) ∧
  (∀ (s : State) (r : Running) (ty : ElemType) (d a b : BitVec 5) (ta tb : Bool) (rm : BitVec 2) (k : Nat), ty.isFloat = true → k < 2048 / ty.bits →
    let w := ty.bits
    let top := 2 ^ (w - 1)
    let el (v : Vec) : Nat := (v.extractLsb' (w * k) w).toNat
    let f := floatVal ty
    let quiet (n : Nat) : Nat := n ||| (if ty = .bf16 then 0x40 else 0x400000)
    let inf (m : Bool) : Nat := (if ty = .bf16 then 0x7F80 else 0x7F800000) + if m then top else 0
    let none_ : Nat := if ty = .bf16 then 0x7FC0 else 0x7FC00000
    let nan (n : Nat) : Bool := f n == .nan
    let first (l : List Nat) (v : Nat) : Nat := match l.find? nan with | some n => quiet n | none => v
    let out (v : FV) : Nat := roundFloat ty rm.toNat 0 v
    let near (v : FV) : Nat := roundFloat ty 0 0 v
    let plus (u v : FV) : FV := u.add (rm == 2) v
    let less (m n : Nat) : Bool := (f m).cmp (f n) == some .lt || ((f m).cmp (f n) == some .eq && decide (top ≤ m) && decide (n < top))
    let pick (better : Nat → Nat → Bool) (m n : Nat) : Nat := if nan m then (if nan n then quiet m else n) else if nan n then m else if better n m then n else m
    let least := pick less
    let most := pick fun m n => less n m
    let x := el (s.v a)
    let y := el (s.v b)
    let z := el (s.v d)
    let gives (v : Nat) : Prop := el ((vecRegs r s).v d) = v ∧ (∀ q, q ≠ d → (vecRegs r s).v q = s.v q) ∧
      vecRegs r s = { s with core := { s.core with v := (vecRegs r s).core.v } }
    (∀ p ∈ [(Instr.vadd ⟨d, a, b, ta, tb, rm, ty⟩, first [x, y] (out (plus (f x) (f y)))), (.vsub ⟨d, a, b, ta, tb, rm, ty⟩, first [x, y] (out (plus (f x) (f y).neg))),
        (.vmul ⟨d, a, b, ta, tb, rm, ty⟩, first [x, y] (out ((f x).mul (f y)))),
        (.vfma ⟨d, a, b, ta, tb, rm, ty⟩, first [x, y, z] (out (plus ((f x).mul (f y)) (f z)))),
        (.vfmaNp ⟨d, a, b, ta, tb, rm, ty⟩, first [x, y, z] (out (plus ((f x).mul (f y)).neg (f z)))),
        (.vfmaNa ⟨d, a, b, ta, tb, rm, ty⟩, first [x, y, z] (out (plus ((f x).mul (f y)) (f z).neg))),
        (.vfmaNn ⟨d, a, b, ta, tb, rm, ty⟩, first [x, y, z] (out (plus ((f x).mul (f y)).neg (f z).neg))),
        (.vmin ⟨d, a, b, ta, tb, rm, ty⟩, least x y), (.vmax ⟨d, a, b, ta, tb, rm, ty⟩, most x y),
        (.vminNan ⟨d, a, b, ta, tb, rm, ty⟩, first [x, y] (least x y)), (.vmaxNan ⟨d, a, b, ta, tb, rm, ty⟩, first [x, y] (most x y)),
        (.vclamp ⟨d, a, b, ta, tb, rm, ty⟩, first [x, y, z] (least (most x y) z)),
        (.vabs ⟨d, a, ta, rm, ty⟩, if nan x then quiet (x % top) else x % top), (.vneg ⟨d, a, ta, rm, ty⟩, if nan x then quiet (x ^^^ top) else x ^^^ top),
        (.vabd ⟨d, a, b, ta, tb, rm, ty⟩, first [x, y] (out (plus (f x) (f y).neg).abs)),
        (.vsign ⟨d, a, b, ta, tb, rm, ty⟩, first [x, y] (if (f x).isZero then 0 else if top ≤ x then y ^^^ top else y)),
        (.vavg ⟨d, a, b, ta, tb, rm, ty⟩, first [x, y] (out (match plus (f x) (f y) with | .fin m n e => .fin m n (2 * e) | v => v))),
        (.vscale ⟨d, a, b, ta, tb, rm, ty⟩, match f x with
          | .nan => quiet x
          | .inf _ => x
          | .fin m n e => if n = 0 then x else
              let j := max (-1000) (min 1000 (BitVec.ofNat w y).toInt)
              out (if 0 ≤ j then .fin m (n * 2 ^ j.toNat) e else .fin m n (e * 2 ^ (-j).toNat))),
        (.vgete ⟨d, a, ta, rm, ty⟩, match f x with
          | .fin _ n e => if n = 0 then top else (Int.log 2 ((n : ℚ) / e) % 2 ^ w).toNat
          | _ => top - 1),
        (.vmov ⟨d, a, ta, rm, ty⟩, x),
        (.vrcp ⟨d, a, ta, ty⟩, match f x with | .nan => quiet x | .inf m => if m then top else 0 | .fin m n e => if n = 0 then inf m else near (.fin m e n)),
        (.vrsq ⟨d, a, ta, ty⟩, match f x with
          | .nan => quiet x
          | .inf m => if m then none_ else 0
          | .fin m n e => if n = 0 then inf m else if m then none_ else near (.scaled false (sqrtRat e n).1 (sqrtRat e n).2))],
      r.entry.instr = p.1 → gives p.2) ∧
    (r.entry.instr = .vexp2 ⟨d, a, ta, ty⟩ →
      (nan x = true → gives (quiet x)) ∧ (∀ m, f x = .inf m → gives (if m then 0 else inf false)) ∧
      ∀ m n e, f x = .fin m n e →
        (1000 * e ≤ n → gives (if m then 0 else inf false)) ∧
        (∀ j : Nat, n = j * e → j < 1000 → gives (near (.scaled false 1 (if m then -(j : Int) else j)))) ∧
        (0 < n → n * 2 ^ 40 < e → gives (near (.ofInt 1)))) ∧
    (r.entry.instr = .vlog2 ⟨d, a, ta, ty⟩ →
      (nan x = true → gives (quiet x)) ∧ (∀ m, f x = .inf m → gives (if m then none_ else inf false)) ∧
      ∀ m n e, f x = .fin m n e →
        (n = 0 → gives (inf true)) ∧ (0 < n → m = true → gives none_) ∧
        ∀ j : Int, m = false → (n : ℚ) / e = (2 : ℚ) ^ j → gives (near (.ofInt j)))) ∧
  (∀ n d : Nat, 0 < n → 0 < d → let (m, e) := sqrtRat n d
    ((m / 2 : Nat) : ℚ) ^ 2 * 4 ^ (e + 1) ≤ (n : ℚ) / d ∧ (n : ℚ) / d < ((m / 2 + 1 : Nat) : ℚ) ^ 2 * 4 ^ (e + 1) ∧ 2 ^ 40 ≤ m ∧
      (m % 2 = 0 ↔ ((m / 2 : Nat) : ℚ) ^ 2 * 4 ^ (e + 1) = (n : ℚ) / d)) ∧
  (∀ (ty : ElemType) (n d : Nat), ty.isFloat = true → 0 < n → 0 < d →
    let x : ℚ := n / d
    let p : Nat := if ty = .bf16 then 8 else 24
    let largest : ℚ := (2 ^ p - 1) * 2 ^ (128 - p)
    let at_ (bits : Nat) (q : ℚ) : Prop := bits < 2 ^ (ty.bits - 1) ∧ ∃ u v, 0 < v ∧ floatVal ty bits = .fin false u v ∧ q = (u : ℚ) / v
    let out (mode : Nat) : Nat := roundFloat ty mode 0 (.fin false n d)
    (x ≤ largest → ∃ q₀ q₁ q₃ : ℚ, at_ (out 0) q₀ ∧ at_ (out 1) q₁ ∧ out 2 = out 1 ∧ at_ (out 3) q₃ ∧ q₁ ≤ x ∧ x ≤ q₃ ∧
      ∀ bits y, at_ bits y → |x - q₀| ≤ |x - y| ∧ (|x - y| = |x - q₀| → y ≠ q₀ → out 0 % 2 = 0) ∧ (y ≤ x → y ≤ q₁) ∧ (x ≤ y → q₃ ≤ y)) ∧
    (largest < x → at_ (out 1) largest ∧ out 2 = out 1 ∧ floatVal ty (out 3) = .inf false ∧
      (x < largest + 2 ^ (127 - p) → out 0 = out 1) ∧ (largest + 2 ^ (127 - p) ≤ x → floatVal ty (out 0) = .inf false)) ∧
    ∀ mode, mode < 4 → roundFloat ty mode 0 (.fin true n d) = 2 ^ (ty.bits - 1) + out (if mode = 2 then 3 else if mode = 3 then 2 else mode)) ∧
  (∀ (m : Bool) (n d : Nat), 0 < d →
    let x : ℚ := if m then -((n : ℚ) / d) else (n : ℚ) / d
    roundInt 1 0 m n d = (if m then -⌊(n : ℚ) / d⌋ else ⌊(n : ℚ) / d⌋) ∧ roundInt 2 0 m n d = ⌊x⌋ ∧ roundInt 3 0 m n d = ⌈x⌉ ∧
      |x - roundInt 0 0 m n d| ≤ 1 / 2 ∧ (|x - roundInt 0 0 m n d| = 1 / 2 → roundInt 0 0 m n d % 2 = 0)) ∧
  (∀ (s : State) (r : Running) (ty : ElemType) (c : BitVec 3) (cc : BitVec 4) (d a b : BitVec 5) (ta tb : Bool) (p : BitVec 3) (i : Nat), i < 256 →
    let w := ty.bits
    let k := i / ty.bytes
    let el (v : Vec) : Nat := (v.extractLsb' (w * k) w).toNat
    let x := el (s.v a)
    let y := el (s.v b)
    let val (n : Nat) : Int := if ty.isSigned then (BitVec.ofNat w n).toInt else n
    let whole (m n : Nat) : Bool := match cc.toNat with
      | 0 => val m == val n | 1 => val m != val n | 2 => decide (val m < val n) | 3 => decide (val m ≥ val n) | 4 => decide (val m ≤ val n)
      | 5 => decide (val m > val n) | 10 => m &&& n != 0 | 11 => m &&& n == 0 | _ => false
    let float (o : Option Ordering) : Bool := match cc.toNat with
      | 0 => o == some .eq | 1 => o != some .eq | 2 => o == some .lt | 3 => o == some .gt || o == some .eq | 4 => o == some .lt || o == some .eq
      | 5 => o == some .gt | 10 => o == none | 11 => o != none | _ => false
    let bit (q : BitVec 3) (v : Bool) : Prop := ((vecRegs r s).p q).getLsbD i = v ∧ (∀ q', q' ≠ q → (vecRegs r s).p q' = s.p q') ∧
      vecRegs r s = { s with core := { s.core with p := (vecRegs r s).core.p } }
    let byte (q : BitVec 5) (v : BitVec 8) : Prop := ((vecRegs r s).v q).extractLsb' (8 * i) 8 = v ∧ (∀ q', q' ≠ q → (vecRegs r s).v q' = s.v q') ∧
      vecRegs r s = { s with core := { s.core with v := (vecRegs r s).core.v } }
    (c ≠ 0 →
      (r.entry.instr = .vcmp c cc a b ty → bit c (if ty.isFloat then float ((floatVal ty x).cmp (floatVal ty y)) else whole x y)) ∧
      (∀ imm : BitVec 5, r.entry.instr = .vcmpI c cc a imm ty →
        bit c (if ty.isFloat then float ((floatVal ty x).cmp (.ofInt imm.toInt)) else whole x (imm.toInt % 2 ^ w).toNat)) ∧
      (∀ (mode : BitVec 2) (q l : BitVec 5), r.entry.instr = .vmaskw c mode a q l →
        let from_ := r.entry.x0.toInt
        let len := r.entry.x1.toInt
        let n := ((s.v a).extractLsb' (32 * (i / 4)) 32).toInt
        bit c (decide (0 ≤ n) && match mode.toNat with
          | 0 => decide (from_ - len < n ∧ n ≤ from_) | 1 => decide (n ≤ from_) | 2 => decide (from_ - len < n ∧ n < from_ + len)
          | _ => decide (from_ ≤ n ∧ n < from_ + len))) ∧
      ∀ u v : BitVec 3,
        (r.entry.instr = .pand c u v ta tb → bit c ((s.p u).getLsbD i && (s.p v).getLsbD i)) ∧
        (r.entry.instr = .por c u v ta tb → bit c ((s.p u).getLsbD i || (s.p v).getLsbD i)) ∧
        (r.entry.instr = .pxor c u v ta tb → bit c ((s.p u).getLsbD i != (s.p v).getLsbD i)) ∧
        (r.entry.instr = .pnot c u ta → bit c !(s.p u).getLsbD i)) ∧
    (r.entry.instr = .vsel d a b ta tb p → byte d (if (s.p p).getLsbD i then (s.v a).extractLsb' (8 * i) 8 else (s.v b).extractLsb' (8 * i) 8)) ∧
    (r.entry.instr = .vmask d p → byte d (if (s.p p).getLsbD i then 0xFF else 0))) ∧
  (∀ (s : State) (r : Running) (src ty : ElemType) (d a b : BitVec 5) (ta tb : Bool) (rm : BitVec 2) (k : Nat), k < 2048 / ty.bits →
    let w := ty.bits
    let n := 2048 / w
    let el (v : Vec) (k : Nat) : Nat := (v.extractLsb' (w * k) w).toNat
    let x (k : Nat) : Nat := el (s.v a) k
    let y (k : Nat) : Nat := el (s.v b) k
    let gives (v : Nat) : Prop := el ((vecRegs r s).v d) k = v ∧ (∀ q, q ≠ d → (vecRegs r s).v q = s.v q) ∧
      vecRegs r s = { s with core := { s.core with v := (vecRegs r s).core.v } }
    let add (m n : Nat) : Nat := opAdd ty rm.toNat m n
    let larger (m n : Nat) : Nat := opMax ty m n
    (∀ q ∈ [(Instr.vcvtRne d a ta src ty, 0), (.vcvtRz d a ta src ty, 1), (.vcvtRd d a ta src ty, 2), (.vcvtRu d a ta src ty, 3), (.vcvtSr d a ta src ty, 4)],
      r.entry.instr = q.1 →
        let e := ((s.v a).extractLsb' (src.bits * k) src.bits).toNat
        gives (if 2048 / src.bits ≤ k then 0
          else if src.isFloat = true ∧ floatVal src e = .nan ∧ ty.isFloat = true then
            (if src = .f32 ∧ ty = .bf16 then e / 2 ^ 16 ||| 0x40 else if src = .bf16 ∧ ty = .f32 then e * 2 ^ 16 ||| 0x400000
              else e ||| (if ty = .bf16 then 0x40 else 0x400000))
          else roundTo ty q.2 (srBits r.seed 2 k) (if src.isFloat then floatVal src e else .ofInt (intVal src e)))) ∧
    (∀ q ∈ [(Instr.vredSum ⟨d, a, ta, rm, ty⟩, add, fun m : Nat => m), (.vredMax ⟨d, a, ta, rm, ty⟩, larger, fun m => m),
        (.vredMin ⟨d, a, ta, rm, ty⟩, fun m n => opMin ty m n, fun m => m), (.vredSsq ⟨d, a, ta, rm, ty⟩, add, fun m => opMul ty rm.toNat m m),
        (.vredAmax ⟨d, a, ta, rm, ty⟩, fun m n => if ty.isFloat then opMax ty m n else max m n, fun m => opAbs ty m)],
      r.entry.instr = q.1 → ∀ g : Nat → Nat → Nat, (∀ i, g 0 i = q.2.2 (x i)) → (∀ j i, g (j + 1) i = q.2.1 (g j i) (g j (i + n / 2 ^ (j + 1)))) →
        gives (if k = 0 then g (Nat.log2 n) 0 % 2 ^ w else 0)) ∧
    (∀ op : Nat → Nat → Nat, ∀ g : Nat → Nat → Nat, (∀ i, g 0 i = x i) → (∀ j i, g (j + 1) i = if i < 2 ^ j then g j i else op (g j (i - 2 ^ j)) (g j i)) →
      (r.entry.instr = .vscanSum ⟨d, a, ta, rm, ty⟩ → op = add → gives (g (Nat.log2 n) k % 2 ^ w)) ∧
      (r.entry.instr = .vscanMax ⟨d, a, ta, rm, ty⟩ → op = larger →
        gives (if k = 0 ∧ ty.isFloat = true ∧ floatVal ty (x 0) = .nan then x 0 ||| (if ty = .bf16 then 0x40 else 0x400000) else g (Nat.log2 n) k % 2 ^ w))) ∧
    ∀ (j : BitVec 5) (i17 : BitVec 17) (i32 : BitVec 32),
      ∀ q ∈ [(Instr.vperm ⟨d, a, b, ta, tb, ty⟩, if y k < n then x (y k) else 0), (.vpermRot ⟨d, a, j, ta, ty⟩, x ((k + r.entry.x0.toInt) % n).toNat),
          (.vpermRev ⟨d, a, ta, ty⟩, x (n - 1 - k)), (.vpermZip ⟨d, a, b, ta, tb, ty⟩, if k % 2 = 0 then x (k / 2) else y (k / 2)),
          (.vpermUnz ⟨d, a, b, ta, tb, ty⟩, if k < n / 2 then x (2 * k) else y (2 * k - n)),
          (.vbcast ⟨d, a, j, ta, ty⟩, if r.entry.x0.toNat < n then x r.entry.x0.toNat else 0), (.vsplat d j ty, r.entry.x0.toNat % 2 ^ w), (.viota d ty, k)],
        (r.entry.instr = q.1 → gives q.2) ∧
        (ty = .s32 → (r.entry.instr = .vsplatI d i17 → gives (i17.signExtend 32).toNat) ∧ (r.entry.instr = .vsplatL d i32 → gives i32.toNat))) ∧
  (∀ (s : State) (r : Running) (o : VM) (g : VG) (pn : BitVec 3) (dn : BitVec 6) (x0 x1 : BitVec 5), isPlane (descFmt r.d1) = false →
    let i := r.entry.instr
    let sz := fmtSize (descFmt r.d1)
    let one (c : List Int) (p : Part) : Prop := elemPart (r.view s) (r.by_ permVec) r.d1 c = .ok p ∨
      ((∃ va, elemPart (r.view s) (r.by_ permVec) r.d1 c = .error (.absent va)) ∧ p = .lit 0 sz ∧ r.resp ≠ 0 ∧ i ≠ .pld pn dn x0 x1 ∧
        ∀ m, vecMem i = some m → m.load = true)
    let there (c : List Int) : Prop := ∃ p, elemPart (r.view s) (r.by_ permVec) r.d1 c = .ok p
    let idx (j o : Nat) : Int := (((s.v g.vi).extractLsb' (32 * j + o) 16).toNat : Nat)
    let row (bytes : Nat) (ps : List Part) : Prop := ps.length = bytes / sz ∧
      ∀ (k : Nat) (p : Part), ps[k]? = some p → one [r.entry.x0.toInt + (k : Int), r.entry.x1.toInt, 0, 0] p
    let lanes (ps : List Part) : Prop := ∃ l : Nat → List Part, ps = (List.range 64).flatMap l ∧ ∀ j < 64,
      if (s.p g.p).getLsbD (4 * j) then (l j).length = 4 / sz ∧ ∀ (k : Nat) (p : Part), (l j)[k]? = some p → one [idx j 0 + (k : Int), idx j 16, 0, 0] p
      else l j = [.lit 0 4]
    let before (ps : List Part) (k : Nat) : Nat := ((ps.take k).map Part.size).sum
    let spread (ps : List Part) (v : Nat) (l : List (Part × Nat)) : Prop := l.map Prod.fst = ps ∧
      ∀ (k : Nat) (p : Part × Nat), l[k]? = some p → p.2 = v / 256 ^ before ps k % 256 ^ p.1.size
    let holds (v : Nat) : Prop := ∀ (k : Nat) (p : Part), r.src[k]? = some p → v / 256 ^ before r.src k % 256 ^ p.size = partVal r.got p % 256 ^ p.size
    let whole (n : Nat) : Prop := (r.src.map Part.size).sum = n
    (∀ q ∈ [(Instr.vldW o, Qual.loadW), (.vldC o, .loadC), (.vldN o, .loadN)], i = q.1 →
      (∀ reads src dst aux t, planOf .vec r s = .go reads src dst aux t → row 256 src ∧ dst = [] ∧ (∀ v ∈ reads, v.qual = q.2) ∧ sameMemory s t ∧
        ∀ b < 256, (aux.getLsbD b = true ↔ there [r.entry.x0.toInt + ((b / sz : Nat) : Int), r.entry.x1.toInt, 0, 0])) ∧
      (whole 256 → ∃ t, actOf .vec r s = ⟨t, [], 0⟩ ∧ holds (t.v o.v).toNat ∧ (∀ q, q ≠ o.v → t.v q = s.v q) ∧
        ∀ q, t.p q = if q = r.resp ∧ q ≠ 0 then r.aux else s.p q)) ∧
    (∀ q ∈ [(Instr.vgthW g, Qual.loadW), (.vgthC g, .loadC), (.vgthN g, .loadN)], i = q.1 →
      (∀ reads src dst aux t, planOf .vec r s = .go reads src dst aux t → lanes src ∧ dst = [] ∧ (∀ v ∈ reads, v.qual = q.2) ∧ sameMemory s t ∧
        ∀ j < 64, ∀ b < 4, (aux.getLsbD (4 * j + b) = true ↔ ((s.p g.p).getLsbD (4 * j) = true → there [idx j 0 + ((b / sz : Nat) : Int), idx j 16, 0, 0]))) ∧
      (whole 256 → ∃ t, actOf .vec r s = ⟨t, [], 0⟩ ∧ holds (t.v g.v).toNat ∧ (∀ q, q ≠ g.v → t.v q = s.v q) ∧
        ∀ q, t.p q = if q = r.resp ∧ q ≠ 0 then r.aux else s.p q)) ∧
    (i = .pld pn dn x0 x1 → pn ≠ 0 →
      (∀ reads src dst aux t, planOf .vec r s = .go reads src dst aux t → row 32 src ∧ dst = [] ∧ (∀ v ∈ reads, v.qual = .loadW) ∧ sameMemory s t) ∧
      (whole 32 → ∃ t, actOf .vec r s = ⟨t, [], 0⟩ ∧ holds (t.p pn).toNat ∧ (∀ q, q ≠ pn → t.p q = s.p q) ∧ t.core.v = s.core.v)) ∧
    (∀ q ∈ [(Instr.vstW o, Qual.storeW), (.vstN o, .storeN)], i = q.1 →
      (∀ reads src dst aux t, planOf .vec r s = .go reads src dst aux t → row 256 dst ∧ reads = [] ∧ sameMemory s t) ∧
      ∃ l, actOf .vec r s = ⟨s, writeVisits q.2 l, 0⟩ ∧ spread r.dst (s.v o.v).toNat l) ∧
    (∀ q ∈ [(Instr.vsctW g, Qual.storeW), (.vsctN g, .storeN)], i = q.1 →
      (∀ reads src dst aux t, planOf .vec r s = .go reads src dst aux t → lanes dst ∧ reads = [] ∧ sameMemory s t) ∧
      ∃ l, actOf .vec r s = ⟨s, writeVisits q.2 l, 0⟩ ∧ spread r.dst (s.v g.v).toNat l) ∧
    (i = .pst pn dn x0 x1 →
      (∀ reads src dst aux t, planOf .vec r s = .go reads src dst aux t → row 32 dst ∧ reads = [] ∧ sameMemory s t) ∧
      ∃ l, actOf .vec r s = ⟨s, writeVisits .storeN l, 0⟩ ∧ spread r.dst (s.p pn).toNat l)) ∧
  ∀ (s : State) (r : Running) (c : BitVec 3) (a b xn : BitVec 5), c ≠ 0 →
    let f := floatVal .f32
    let el (v : Vec) (k : Nat) : Nat := (v.extractLsb' (32 * k) 32).toNat
    let x (k : Nat) : Nat := el (s.v a) k
    let y (k : Nat) : Nat := el (s.v b) k
    let nan (n : Nat) : Bool := f n == .nan
    let rowNo := (r.entry.x0.extractLsb' 32 8).toNat
    let rec_ := s.selfRank * 262144 + (r.confrec.toNat + 16 * rowNo) / 16
    let tested (score v1 v2 lane : Nat) (drift : Bool) : Prop :=
      let exit := match (f score).cmp (f (r.entry.x0.extractLsb' 0 32).toNat) with | some .lt => false | none => false | _ => true
      ∃ t, actOf .vec r s = ⟨t, [⟨rec_, .spad rec_, .engine, BitVec.allOnes 16, BitVec.ofNat 128
          (score + 2 ^ 32 * v1 + 2 ^ 64 * v2 + 2 ^ 96 * lane + 2 ^ 104 * rowNo + 2 ^ 112 * exit.toNat + 2 ^ 113 * drift.toNat)⟩], 0⟩ ∧
        (∀ j < 256, (t.p c).getLsbD j = if j = rowNo then exit else (s.p c).getLsbD j) ∧ (∀ q, q ≠ c → t.p q = s.p q) ∧
        t = { s with core := { s.core with p := t.core.p } }
    (r.entry.instr = .vconfGap c a xn →
      let less (m n : Nat) : Bool := (f m).cmp (f n) == some .lt || ((f m).cmp (f n) == some .eq && decide (2 ^ 31 ≤ m) && decide (n < 2 ^ 31))
      let topOf (i : Nat) (l : Nat → Prop) : Prop := i < 64 ∧ l i ∧ nan (x i) = false ∧
        ∀ j < 64, l j → nan (x j) = false → j ≠ i → less (x i) (x j) = false ∧ (less (x j) (x i) = true ∨ i < j)
      ((∀ j < 64, nan (x j) = true) → tested 0x7FC00000 0x7FC00000 0x7FC00000 0 false) ∧
      ∀ i, topOf i (fun _ => True) →
        ((∀ j < 64, j ≠ i → nan (x j) = true) → tested 0x7FC00000 (x i) 0x7FC00000 i false) ∧
        ∀ j, topOf j (· ≠ i) → tested (roundFloat .f32 0 0 ((f (x i)).add false (f (x j)).neg)) (x i) (x j) i false) ∧
    (r.entry.instr = .vconfDrift c a b xn →
      let sum (u v : Nat → Nat) : FV := (List.range 64).foldl (fun acc k => acc.add false ((f (u k)).mul (f (v k)))) (.fin false 0 1)
      let norm (u : Nat → Nat) : Nat := if (List.range 64).any fun k => nan (u k) then 0x7FC00000 else if (List.range 64).any fun k => !(f (u k)).isFin then 0x7F800000
        else roundFloat .f32 0 0 (sum u u)
      let cosine : Nat := if (List.range 64).any fun k => !(f (x k)).isFin || !(f (y k)).isFin then 0x7FC00000
        else match sum x y, sum x x, sum y y with
          | .fin m n e, .fin _ na ea, .fin _ nb eb => if na = 0 ∨ nb = 0 then 0x7FC00000 else roundFloat .f32 0 0 (FV.sqrt m (n * n * ea * eb) (e * e * na * nb))
          | _, _, _ => 0x7FC00000
      tested cosine (norm x) (norm y) 0 true)

/-- R24 to R26, R104, R190, R201, R209, R224, R245. Token and barrier-wait words at work in an engine: a signal adds 1 and completes; a wait takes 1,
or goes on waiting where the count is 0, where a signal waits at a full token, or where as many agents that are served before it wait as the token
counts; a barrier wait compares the object's phase with the one noted at its start, inverts its own record and completes. How R26's one cycle is read,
signals before waits and waits in R26's order, is log entry 66's choice; what comes before what by them (R254, R259) is as the strand's words have it. MZERO and MZERO.all at the head of an idle MTX queue that is not held run in one move: G and NF of every element of the tile, or of all sixteen, are 0, RANGE is
clear, the anchor stays, and no other tile, register or byte of memory changes. -/
def Obligations.EngineWordsAtTheHeadOfAQueue : Prop :=
  (∀ (s : State) (e : Eng) (hent : Bool) (r : Running) (k : BitVec 4),
     (∀ i ∈ [Instr.vsig k, .msig k, .lsig k, .ssig k, .psig k], r.entry.instr = i → (s.token k).toNat < 65535 →
       s.advance e hent r = some (((s.handToken (.eng e r.entry.no) k).setToken k (s.token k + 1)).completeRun e hent r)) ∧
     (∀ i ∈ [Instr.vwaitk k, .mwaitk k, .lwaitk k, .swaitk k, .pwaitk k], r.entry.instr = i →
       let u := s.performSignalled k
       s.advance e hent r =
         if s.token k = 0 ∨ u.token k = 0 ∨ (s.token k = 65535 ∧ s.signalDue k = true) ∨ (s.token k).toNat ≤ s.waitersBefore k e then none
         else some (((u.takeCount (.eng e r.entry.no) k).setToken k (u.token k - 1)).completeRun e hent r)) ∧
     ∀ p ∈ [(Instr.lbwait k, 16), (.sbwait k, 32), (.pbwait k, 48)], r.entry.instr = p.1 →
       let o := s.selfRank * 0x400000 + (r.bbase.toNat + 16 * k.toNat) % 0x400000
       s.advance e hent r =
         if (s.spad.get (o + 8)).getLsbD 0 = r.aux.getLsbD 0 then none
         else some (((s.observePhase (.eng e r.entry.no) o).setSys fun x => { x with bphase := x.bphase ^^^ (1#64 <<< (p.2 + k.toNat)) }).completeRun e hent r)) ∧
  (∀ (s : State) (en : Entry) (rest : List Entry), s.q.mtx = { Queue.empty with entries := en :: rest } → s.pkg.throttle = 0 →
     (∀ k : BitVec 4, en.instr = .mzero k → ∃ t, s.engineStep .mtx = some t ∧ t.q.mtx = { Queue.empty with entries := rest } ∧
       (∀ j (h : j < 16), t.core.a[j]'h = if j = k.toNat then ⟨Vector.replicate 1024 ⟨0, 0⟩, (s.core.a[j]'h).anchor, false⟩ else s.core.a[j]'h) ∧
       t.core.v = s.core.v ∧ t.core.p = s.core.p ∧ t.core.x = s.core.x ∧ t.core.tk = s.core.tk ∧ sameMemory s t) ∧
     (en.instr = .mzeroAll → ∃ t, s.engineStep .mtx = some t ∧ t.q.mtx = { Queue.empty with entries := rest } ∧
       (∀ j (h : j < 16), t.core.a[j]'h = ⟨Vector.replicate 1024 ⟨0, 0⟩, (s.core.a[j]'h).anchor, false⟩) ∧
       t.core.v = s.core.v ∧ t.core.p = s.core.p ∧ t.core.x = s.core.x ∧ t.core.tk = s.core.tk ∧ sameMemory s t))

/-- R140, R142, R143, R146, R148, R149, R151. An element of a tensor in the core's own scratchpad lies at the address that the descriptor's base, strides and swizzle
give its coordinates, each taken modulo its wrap: a coordinate outside its extent is refused by its dimension, an address beyond the scratchpad as SPAD. The words
of a plane group follow one another from the address of its group. An engine's access to one granule tests its state and changes it in one action, by its
qualifier, and waits where the test fails; a load gives the granule's 16 bytes and changes no byte, a store replaces the bytes of its mask, and no other granule
changes. That the words of a plane group keep together under a swizzle is log entry 22, the model's reading. -/
def Obligations.ElementsAndGranulesAreAddressedAndTested : Prop :=
  (∀ (s : State) (b : AccessBy) (d : BitVec 256) (c : Fin 4 → Int),
    let f (lo w : Nat) : Nat := (d.extractLsb' lo w).toNat
    let fmt := f 50 6
    let plane := decide (10 ≤ fmt) && decide (fmt ≤ 47)
    let w (k : Fin 4) : Int := if f (194 + 5 * k.val) 5 = 0 then c k else c k % (2 : Int) ^ f (194 + 5 * k.val) 5
    let inside (k : Fin 4) : Prop := 0 ≤ w k ∧ w k ≤ f (64 + 16 * k.val) 16
    let size := ([1, 2, 4, 1, 2, 4, 4, 2, 1, 2][fmt]?).getD 4
    let planesOf := if fmt ≤ 31 then fmt - 9 + (if d.getLsbD 56 then 0 else 1) + (if d.getLsbD 57 then 0 else 1) else fmt - 31
    let off := if plane then (w 0).toNat / 32 * 4 * planesOf else (w 0).toNat * size
    let a₀ := 16 * f 0 48 + off + 16 * (f 128 22 * (w 1).toNat + f 150 22 * (w 2).toNat + f 172 22 * (w 3).toNat)
    let a := if f 59 3 = 0 then a₀ else a₀ ^^^ (16 * ((w 1).toNat % 2 ^ f 59 3))
    let cs := [c 0, c 1, c 2, c 3]
    let place (x n : Nat) : Part := .piece (.spad ((s.selfRank * 0x400000 + x) / 16)) ((s.selfRank * 0x400000 + x) / 16) ((s.selfRank * 0x400000 + x) % 16) n
    (∀ k : Fin 4, ¬inside k → (∀ j < k, inside j) → elemPart s b d cs = .error (.trap ⟨0x04, 0x01, BitVec.ofNat 64 k.val⟩) ∧
      groupParts s b d cs = .error (.trap ⟨0x04, 0x01, BitVec.ofNat 64 k.val⟩)) ∧
    ((∀ k, inside k) → f 48 2 = 0 → a < 2 ^ 64 →
      (plane = false → elemPart s b d cs = if a < 0x400000 then .ok (place a size) else .error (.trap ⟨0x04, 0x02, BitVec.ofNat 64 a⟩)) ∧
      (plane = true → a + 4 * planesOf ≤ 0x400000 → groupParts s b d cs = .ok ((List.range planesOf).map fun p => place (a + 4 * p) 4)))) ∧
  ∀ (s : State) (g : Nat), s.canonical → let st := s.gran.get g
    (∀ p ∈ [(Qual.loadW, decide (st ≠ .empty), st), (.loadC, decide (st ≠ .empty), if st = .full then .empty else st), (.loadN, true, st)],
      ∀ (v : RVisit) (tracked : Bool), v.loc = .spad g → v.qual = p.1 →
        (p.2.1 = false → s.visitRead tracked v = .wait) ∧
        (p.2.1 = true → ∃ t ecc, s.visitRead tracked v = .ok t (BitVec.ofNat 128 (leNat (s.spad.getN (16 * g) 16))) ecc ∧
          t = { s with gran := t.gran } ∧ t.gran.get g = p.2.2 ∧ (∀ h, h ≠ g → t.gran.get h = s.gran.get h))) ∧
    ∀ p ∈ [(Qual.storeW, decide (st = .empty)), (.storeN, decide (st ≠ .moored)), (.engine, decide (st ≠ .moored))],
      ∀ v : WVisit, v.loc = .spad g → v.qual = p.1 →
        (p.2 = false → s.visitWrite v = none) ∧
        (p.2 = true → ∃ t, s.visitWrite v = some t ∧
            t = { s with spad := t.spad, gran := t.gran, poison := t.poison, recent := t.recent } ∧ t.gran.get g = .full ∧
          (∀ i < 16, t.spad.get (16 * g + i) = if v.mask.getLsbD i then v.data.extractLsb' (8 * i) 8 else s.spad.get (16 * g + i)) ∧
          (∀ a, ¬(16 * g ≤ a ∧ a < 16 * g + 16) → t.spad.get a = s.spad.get a) ∧
          (∀ h, h ≠ g → t.gran.get h = s.gran.get h))

/-- R33, R260. An engine's fault keeps the command at the head of its queue at its iteration, holds all six queues, sets held, and leaves a trap record
that names the engine, the command and the iteration vector; no register file, no memory and no other queue's entries change. -/
def Obligations.EngineFaultHoldsEveryQueue : Prop :=
  ∀ (s : State) (e : Eng) (r : Running) (c : Cause),
    let t := s.engineFault e false r c
    let f : TrapRec := ⟨c.code, e.code, c.sub, false, r.entry.op, r.entry.form, c.info, packIter (iterIdx r.bounds r.iter), 0⟩
    (∀ g : Eng, (t.q.get g).held = true ∧ (t.q.get g).entries = (s.q.get g).entries) ∧
    (∃ r', (t.q.get e).run = some r' ∧ r'.entry = r.entry ∧ r'.iter = r.iter ∧ r'.stage = .fresh ∧ r'.bounds = r.bounds) ∧
    (t.q.get e).faults = (s.q.get e).faults ++ [f] ∧ (t.q.get e).stuck = true ∧ (∀ g : Eng, g ≠ e → (t.q.get g).run = (s.q.get g).run) ∧
    t.core.sys.held = true ∧ t.core.pc = s.core.pc ∧ t.core.x = s.core.x ∧ t.core.v = s.core.v ∧ t.core.p = s.core.p ∧ t.core.a = s.core.a ∧
    t.core.tk = s.core.tk ∧ sameMemory s t ∧
    f.causelo.extractLsb' 0 8 = c.code ∧ f.causelo.extractLsb' 8 3 = e.code ∧ f.causelo.extractLsb' 12 8 = c.sub ∧
    f.causelo.extractLsb' 22 7 = r.entry.op ∧ f.causelo.extractLsb' 29 2 = r.entry.form

/-! ## Events of the package -/

/-- R390, R391, R396. A freeze stops the clocks and leaves the ports' lanes idle, with a pause sent on every channel of every port that is up. The
scan network reads state elements of a frozen package and never writes. The thermal trip freezes too and drives THERMTRIP_N, and throttling and the
removal of power leave their marks alone. While the package is frozen no move but a reset, a thermal trip, the removal of power, the scan network and the
board's fabric configuration has an effect; while neither firmware slot has verified, the training of the host link has one as well; without power
the part stops until a reset. Which of these act on a stopped or held package is log entry 50, and that HBM keeps its bytes over a reset and loses them
with the power is log entry 49: both are the model's choices. -/
def Obligations.FreezeAndPowerEvents : Prop :=
  (∀ (s : State) (ns cycles : Nat),
    let froze (u t : State) : Prop :=
      t = { u with pkg := { u.pkg with frozen := true, idle := true, pausing := t.pkg.pausing } } ∧
      ∀ x, x ∈ t.pkg.pausing ↔ x.1 < 16 ∧ x.2 < 8 ∧ u.portUp (BitVec.ofNat 4 x.1) = true
    (s.pkg.frozen = false → 10 ≤ ns → ∃ t, exec (.freezeN ns) s = .next t ∧ froze s t) ∧
    (s.pkg.frozen = true ∨ ns < 10 → exec (.freezeN ns) s = .next s) ∧
    (s.pkg.frozen = false → s.pkg.unlocked = true → ∃ t, exec .tapFreeze s = .next t ∧ froze s t) ∧
    (s.pkg.frozen = true ∨ s.pkg.unlocked = false → exec .tapFreeze s = .next s) ∧
    (s.pkg.frozen = false → ∃ t, exec .thermalTrip s = .next t ∧ froze { s with pkg := { s.pkg with thermtrip := true } } t) ∧
    (s.pkg.frozen = true → exec .thermalTrip s = .next { s with pkg := { s.pkg with thermtrip := true } }) ∧
    exec .corePowerRemoved s = .next { s with pkg := { s.pkg with off := true } } ∧
    exec (.powerThrottle cycles) s = .next { s with pkg := { s.pkg with throttle := cycles } } ∧
    (∀ (at_ : ScanAt) (w : Bool), (w = true ∨ s.pkg.frozen = false → exec (.scanRead ⟨at_, w⟩) s = .next s) ∧
      (w = false → s.pkg.frozen = true → exec (.scanRead ⟨at_, w⟩) s = .next { s with pkg := { s.pkg with scanOut := s.pkg.scanOut ++ [s.scan at_] } })) ∧
    s.scan .pc = .word 64 s.core.pc.toNat ∧ (∀ sel, s.scan (.sys sel) = .word 64 (s.sysGet sel).toNat) ∧ (∀ e, s.scan (.queue e) = .queue (s.q.get e)) ∧
    (∀ rank off n, s.scan (.spad rank off n) = .bytes (s.spad.getN (spadAddr rank off) n)) ∧ ∀ pa n, s.scan (.hbm pa n) = .bytes (s.mem.getN pa n)) ∧
  (∀ (s : State) (m : Move) (rest : List Move), s.agenda = m :: rest →
    let u : State := { s with agenda := rest }
    let still : Prop :=
      (∀ i, m = .event i → i = .reset ∨ i = .thermalTrip ∨ i = .corePowerRemoved ∨ (∃ a, i = .scanRead a) → step s = exec i u) ∧
      (∀ n, m = .fabric n → step s = .next { u with pkg := { u.pkg with fabric := n } }) ∧
      ((∀ n, m ≠ .fabric n) → (∀ a, m ≠ .event (.scanRead a)) → m ≠ .event .reset → m ≠ .event .thermalTrip → m ≠ .event .corePowerRemoved →
        (s.pkg.frozen = true ∨ ∀ r w c, m ≠ .event (.hostLinkTraining r w c)) → step s = .next u)
    (s.pkg.off = false → s.pkg.frozen = true → still) ∧
    (s.pkg.off = false → s.pkg.frozen = false → s.pkg.bootHeld = true →
      (∀ r w c, m = .event (.hostLinkTraining r w c) → step s = exec (.hostLinkTraining r w c) u) ∧ ((∀ ns, m ≠ .event (.freezeN ns)) → still)) ∧
    (s.pkg.off = true → (∀ n, m = .fabric n → step s = .next { u with pkg := { u.pkg with fabric := n } }) ∧
      (m ≠ .event .reset → (∀ n, m ≠ .fabric n) → step s = .fault .powerOff)) ∧
    (m = .event .reset → ∃ t, step s = .next t ∧ t.pkg.frozen = false ∧ t.pkg.idle = false ∧ t.pkg.off = false ∧ t.core.phase = .idle ∧
      t.mem = if s.pkg.off then [] else s.mem)) ∧
  ∀ s : State, s.agenda = [] → (s.pkg.off = true → step s = .fault .powerOff) ∧
    (s.pkg.off = false → s.pkg.frozen = true ∨ s.pkg.bootHeld = true → step s = .next s)

/-- R386, R387, R392, R399, R400, R402. A failing lane takes a spare, else the boundary loses it, and below 48 lanes the boundary fails: both dies' bind
records are cleared. Links and ports train at the highest common rate and with the lanes there are; retraining changes no state; a route entry is
replaced whole, but refused where it is valid with a distance class of 0 or 1; pause is kept for each port and virtual channel. A port that goes down
is down, and one of a device without a number never comes up. That the host link stays untrained without a common rate, or with neither width, and has
CXL by the host's offer is log entry 51; that a port's frames and pauses are lost with it is log entry 73: both are the model's choices. -/
def Obligations.LinksTrainAndFail : Prop :=
  (∀ (s : State) (b : Nat) (h : b < 4),
    let spare := s.pkg.spares[b]'h
    let lanes := s.pkg.lanes[b]'h
    (0 < spare → exec (.laneFailure b) s = .next { s with pkg := { s.pkg with spares := s.pkg.spares.set b (spare - 1) h } }) ∧
    (spare = 0 → 49 ≤ lanes → exec (.laneFailure b) s = .next { s with pkg := { s.pkg with lanes := s.pkg.lanes.set b (lanes - 1) h } }) ∧
    (spare = 0 → lanes < 49 → ∃ t, exec (.laneFailure b) s = .next t ∧
      (∀ d (hd : d < 4), (b, d) ∈ [(0, 0), (0, 1), (1, 0), (1, 2), (2, 1), (2, 3), (3, 2), (3, 3)] →
        (s.unit.dies[d]'hd).mgmtFailed = false → ∀ r ∈ (t.unit.dies[d]'hd).binds.toList, r.mask = 0) ∧
      t = { s with
        pkg := { s.pkg with lanes := s.pkg.lanes.set b (lanes - 1) h, degraded := true }
        unit := { s.unit with dies := t.unit.dies, tasks := t.unit.tasks }
        quay := { s.quay with lapsed := t.quay.lapsed } })) ∧
  (∀ (s : State) (rates widths cxl : List Nat),
    (s.pkg.hubFailed = true → exec (.hostLinkTraining rates widths cxl) s = .next s) ∧
    (s.pkg.hubFailed = false → ∃ t, exec (.hostLinkTraining rates widths cxl) s = .next t ∧
      (let up := decide (t.pkg.linkRate ≠ 0)
       t = { s with pkg := { s.pkg with linkRate := t.pkg.linkRate, linkX16 := up && widths.contains 16, cxl := up && cxl.contains 1 } }) ∧
      (16 ∉ widths → 8 ∉ widths → t.pkg.linkRate = 0) ∧
      (16 ∈ widths ∨ 8 ∈ widths →
        (t.pkg.linkRate ∈ [640, 320, 160, 80, 50, 25] ∧ t.pkg.linkRate ∈ rates ∨ t.pkg.linkRate = 0) ∧
        ∀ r ∈ [640, 320, 160, 80, 50, 25], r ∈ rates → r ≤ t.pkg.linkRate))) ∧
  (∀ (s : State) (b k c : Nat), exec (.laneRecalibrate b) s = .next s ∧ exec (.hbmChannelRetrain k c) s = .next s) ∧
  (∀ (s : State) (p n : Nat) (h : p < 16),
    let lost (x : Sent) : Bool := x.port == some (BitVec.ofNat 4 p)
    let down : State := { s with pkg := { s.pkg with
      portLanes := s.pkg.portLanes.set p 0 h, wire := s.pkg.wire.filter fun x => !lost x, rx := s.pkg.rx.filter fun x => !lost x,
      paused := s.pkg.paused.filter fun x => x.1 != p, pausing := s.pkg.pausing.filter fun x => x.1 != p } }
    exec (.portDown p) s = .next down ∧
    (s.pkg.hubFailed = true ∨ s.pkg.devNo = none → exec (.portUp p n) s = .next s) ∧
    (s.pkg.hubFailed = false → s.pkg.devNo ≠ none →
      (n < 2 → exec (.portUp p n) s = .next down) ∧
      (2 ≤ n → exec (.portUp p n) s = .next { s with pkg := { s.pkg with portLanes := s.pkg.portLanes.set p (min n 4) h } }))) ∧
  (∀ (s : State) (p v : Nat) (on : Bool), p < 16 → v < 8 → ∃ t, exec (.pause p v on) s = .next t ∧
    t = { s with pkg := { s.pkg with paused := t.pkg.paused } } ∧ ((p, v) ∈ t.pkg.paused ↔ on = true) ∧
    ∀ x, x ≠ (p, v) → (x ∈ t.pkg.paused ↔ x ∈ s.pkg.paused)) ∧
  ∀ (s : State) (dev : Nat) (e : RouteEntry), dev < 4096 →
    (e.valid = true → e.dclass.toNat < 2 → exec (.routeEntryWrite dev e) s = .next s) ∧
    (e.valid = false ∨ 2 ≤ e.dclass.toNat → ∃ t, exec (.routeEntryWrite dev e) s = .next t ∧ t = { s with pkg := { s.pkg with routes := t.pkg.routes } } ∧
      (t.pkg.routes.find? fun r => r.1 == dev) = some (dev, e) ∧
      ∀ d, d ≠ dev → (t.pkg.routes.find? fun r => r.1 == d) = s.pkg.routes.find? fun r => r.1 == d)

/-- R2, R317, R319, R392, R397. Harbourmaster takes one part at a time out of service: its cores leave every bind record of their die, unless the die's
management core has failed, and the part is out once they have nothing left. A failed core leaves the records too, no record names it again, and
the contexts that use it end; a failed management core, hub or HBM channel leaves its marks. A bind record is replaced whole, without the cores that
are out of the records for good or leaving them (log entry 82, the model's reading), but not on a die whose management core has failed. That a second part is
refused without effect while one leaves is log entry 52, and that a record which would overlap one of its timeline on another die is refused is log entry 38:
both are the model's choices. -/
def Obligations.UnitsLeaveServiceAndFail : Prop :=
  (∀ (s : State) (d c : Nat) (h : d < 4), c < 64 →
    let free (t : State) := (s.unit.dies[d]'h).mgmtFailed = false → ∀ r ∈ (t.unit.dies[d]'h).binds.toList, r.mask.getLsbD c = false
    (s.pkg.service.isSome = true ∨ (d, c) ∈ s.unit.outOfService → exec (.coreOutOfService d c) s = .next s) ∧
    (s.pkg.service = none → (d, c) ∉ s.unit.outOfService → ∃ t, exec (.coreOutOfService d c) s = .next t ∧ free t ∧
      (s.coreLeft d c = true → t.unit.outOfService = s.unit.outOfService ++ [(d, c)] ∧ t.pkg.service = none) ∧
      (s.coreLeft d c = false → t.unit.outOfService = s.unit.outOfService ∧ t.pkg.service = some (.core d c)) ∧
      t = { s with
        unit := { s.unit with dies := t.unit.dies, tasks := t.unit.tasks, outOfService := t.unit.outOfService }
        quay := { s.quay with lapsed := t.quay.lapsed }
        pkg := { s.pkg with service := t.pkg.service } }) ∧
    (s.pkg.service = some (.core d c) → s.serviceStep = if s.coreLeft d c = true then
        some { s with unit := { s.unit with outOfService := s.unit.outOfService ++ [(d, c)] }, pkg := { s.pkg with service := none } }
      else none) ∧
    ((d, c) ∈ s.unit.failed → exec (.coreFailure d c) s = .next s) ∧
    ((d, c) ∉ s.unit.failed → ∃ t, exec (.coreFailure d c) s = .next t ∧ free t ∧ (d, c) ∈ t.unit.failed ∧
      ((d, c) = (s.selfDie, s.selfCore) → t.core.phase = .stopped) ∧ ∀ k ∈ s.coreContexts d c, (t.context k).ended = true)) ∧
  (∀ (s : State) (d : Nat) (h : d < 4),
    let left := ∀ c < 64, s.coreLeft d c = true
    (s.pkg.service.isSome = true ∨ (s.unit.dies[d]'h).drained = true → exec (.dieDrain d) s = .next s) ∧
    (s.pkg.service = none → (s.unit.dies[d]'h).drained = false → ∃ t, exec (.dieDrain d) s = .next t ∧
      ((s.unit.dies[d]'h).mgmtFailed = false → ∀ r ∈ (t.unit.dies[d]'h).binds.toList, r.mask = 0) ∧
      (left → (t.unit.dies[d]'h).drained = true ∧ t.pkg.service = none) ∧
      (¬left → (t.unit.dies[d]'h).drained = false ∧ t.pkg.service = some (.drain d)) ∧
      t = { s with
        unit := { s.unit with dies := t.unit.dies, tasks := t.unit.tasks }
        quay := { s.quay with lapsed := t.quay.lapsed }
        pkg := { s.pkg with service := t.pkg.service } }) ∧
    exec (.managementCoreFailure d) s =
      .next { s with unit := { s.unit with dies := s.unit.dies.set d { s.unit.dies[d]'h with mgmtFailed := true } h } }) ∧
  (∀ (s : State) (d i : Nat) (h : d < 4) (hi : i < 64) (r : BindRecord),
    let clear := disjointDies ((s.setBind d i r).bindsWith []) = true
    ((s.unit.dies[d]'h).mgmtFailed = true ∨ ¬clear → exec (.bindRecordReplace d i r) s = .next s) ∧
    ((s.unit.dies[d]'h).mgmtFailed = false → clear → ∃ t, exec (.bindRecordReplace d i r) s = .next t ∧
      (let n := (t.unit.dies[d]'h).binds[i]'hi
       n = { r with mask := n.mask } ∧ ∀ c < 64, n.mask.getLsbD c = true ↔ r.mask.getLsbD c = true ∧ s.barred d c = false) ∧
      (∀ c < 64, s.barred d c = true ↔ (d, c) ∈ s.unit.failed ∨ (d, c) ∈ s.unit.outOfService ∨ (s.unit.dies[d]'h).drained = true ∨
        s.dieCut d = true ∨ s.pkg.service = some (.core d c) ∨ s.pkg.service = some (.drain d)) ∧
      (∀ (e j : Nat) (he : e < 4) (hj : j < 64), (e, j) ≠ (d, i) → (t.unit.dies[e]'he).binds[j]'hj = (s.unit.dies[e]'he).binds[j]'hj) ∧
      t = { s with
        unit := { s.unit with dies := t.unit.dies, tasks := t.unit.tasks }
        quay := { s.quay with lapsed := t.quay.lapsed } })) ∧
  (∀ s : State, ∃ t, exec .hubFailure s = .next t ∧ t = { s with pkg := { s.pkg with
    frozen := true, idle := t.pkg.idle, pausing := t.pkg.pausing, hubFailed := true, linkRate := 0, cxl := false,
    portLanes := Vector.replicate 16 0, wire := s.pkg.wire.filter fun x => x.port.isNone, rx := [] } } ∧
    (s.pkg.frozen = false → t.pkg.idle = true)) ∧
  ∀ (s : State) (k c : Nat), k < 8 → c < 32 → (k, c) ∉ s.pkg.deadChannels → ∃ t, exec (.hbmChannelFailure k c) s = .next t ∧
    t = { s with pkg := { s.pkg with deadChannels := t.pkg.deadChannels, rewritten := t.pkg.rewritten } } ∧
    ∀ p, 16 * p < 0x6000000000 → channelOf (16 * p) = (k, c) → t.poisoned (.glob p) = true

/-- R392 to R395, R419 to R421. Keys, reports, the debug unlock, the firmware slots, and the compartments' assignments, epochs and revocations. A report
carries the nonce, both measurements, the serial and the attestation key's ECDSA signature of them. The byte order of a compartment in the nonce and the
number of a new image are log entry 8, a firmware update's refusal while a part leaves is log entry 52, and where COMPART is posted is log entry 53: all
the model's choices. -/
def Obligations.KeysReportsAndCompartments : Prop :=
  (∀ (s : State) (slot : Nat) (key : List Byte),
    (32 ≤ slot → exec (.keyEnrol slot key) s = .next s) ∧
    (slot < 32 → ∃ t, exec (.keyEnrol slot key) s = .next t ∧ t = { s with pkg := { s.pkg with keys := t.pkg.keys } } ∧
      ((∀ k ∈ s.pkg.keys, keyId k.2 ≠ keyId key) → (slot, key) ∈ t.pkg.keys ∧ ∀ k ∈ s.pkg.keys, k.1 ≠ slot → k ∈ t.pkg.keys) ∧
      ((∃ k ∈ s.pkg.keys, keyId k.2 = keyId key) → ∃ k ∈ s.pkg.keys, keyId k.2 = keyId key ∧ (k.1, key) ∈ t.pkg.keys))) ∧
  (∀ (s : State) (nonce : List Byte) (cmp : Option (BitVec 16)),
    let image := if s.pkg.slotB then s.pkg.images[1] else s.pkg.images[0]
    (nonce.length ≠ 48 → exec (.attestationReport ⟨nonce, cmp⟩) s = .next s) ∧
    (nonce.length = 48 → ∃ r, exec (.attestationReport ⟨nonce, cmp⟩) s =
        .next { s with freeNo := s.freeNo + 1, pkg := { s.pkg with reports := s.pkg.reports ++ [r] } } ∧
      r.length = 256 ∧ r.take 2 = (match cmp with | none => nonce.take 2 | some c => [c.setWidth 8, c.extractLsb' 8 8]) ∧
      (r.drop 2).take 46 = nonce.drop 2 ∧ (r.drop 48).take 96 = sha384 (Config.firmwareImage image 0) ++ sha384 (Config.firmwareImage image 1) ∧
      r.drop 160 = signBy s.attestKey (Config.reportNonce s.freeNo) (r.take 160) ∧
      s.attestKey = Config.attestKeyOf (sha384 (Config.firmwareImage s.pkg.bootImage 0)) (sha384 (Config.firmwareImage s.pkg.bootImage 1)) ∧
      (s.pkg.unlocked = true → (r[159]?).map (·.getLsbD 0) = some true))) ∧
  (∀ (s : State) (sig : List Byte), ∃ t, exec (.debugUnlock sig) s = .next t ∧
    t = { s with freeNo := s.freeNo + 1, pkg := { s.pkg with unlocked := t.pkg.unlocked } } ∧
    ((∀ k ∈ s.pkg.keys, k.1 ≠ 0) → t.pkg.unlocked = s.pkg.unlocked) ∧
    ∀ key, (s.pkg.keys.find? fun k => k.1 == 0) = some (0, key) →
      t.pkg.unlocked = (s.pkg.unlocked || verifySig key (Config.challenge s.freeNo).toList sig)) ∧
  (∀ s : State, let n := s.freeNo + 2
    (firmwareGood n = true ↔ ∀ k < 2, verifySig Config.firmwareKey (Config.firmwareImage n k) (Config.firmwareSig n k) = true) ∧
    (s.pkg.service.isSome = true → exec .firmwareUpdate s = .next s) ∧
    (s.pkg.service = none → ∃ t, exec .firmwareUpdate s = .next t ∧
      t = { s with freeNo := s.freeNo + 1, pkg := { s.pkg with images := t.pkg.images, slotB := t.pkg.slotB } } ∧
      t.pkg.images = (if s.pkg.slotB then s.pkg.images.set 0 n else s.pkg.images.set 1 n) ∧
      t.pkg.slotB = if firmwareGood n then !s.pkg.slotB else s.pkg.slotB)) ∧
  (∀ (s : State) (k : BitVec 4) (cmp : BitVec 16), cmp ≠ 0 → ∃ t, exec (.compartmentAssign k cmp) s = .next t ∧ t = { s with ctxs := t.ctxs } ∧
    ∀ j, t.context j = if j = k then { s.context k with cmp := cmp } else s.context j) ∧
  (∀ (s : State) (cmp : BitVec 16) (n : BitVec 8) (key : BitVec 256) (gone : Option (BitVec 12)),
    let find (u : State) (c : BitVec 16) := u.pkg.epochs.find? fun e => e.cmp == c
    (∃ t, exec (.epochInstall cmp ⟨n, key⟩ gone) s = .next t ∧
      find t cmp = some ⟨cmp, n, key, (match find s cmp with | some e => (e.epoch, e.key, s.now) :: e.prev | none => []), (match find s cmp with | some e => e.revoked | none => []) ++ gone.toList⟩ ∧
      (∀ c, c ≠ cmp → find t c = find s c) ∧ (gone = none → t = { s with pkg := { s.pkg with epochs := t.pkg.epochs } })) ∧
    ∃ t, exec (.epochExpiry cmp) s = .next t ∧ t = { s with pkg := { s.pkg with epochs := t.pkg.epochs } } ∧
      ∀ c, find t c = (find s c).map fun e => if c = cmp then
          { e with prev := e.prev.filter fun x => decide ((s.now - x.2.2).toNat < 2500000) } else e) ∧
  ∀ (s : State) (cmp : BitVec 16), ∃ t, exec (.participantRevoke cmp) s = .next t ∧
    (∀ m < 256, t.moor m = if (s.moor m).valid = true ∧ s.cmpOf (s.moor m).ctx = cmp
      then { s.moor m with valid := false, expired := false, gen := (s.moor m).gen + 1 } else s.moor m) ∧
    (cmp ≠ 0 → s.cmpOf s.ctx = cmp → s.core.phase ≠ .halted → t.posted = s.posted ++ [.compart cmp]) ∧
    (cmp = 0 ∨ s.cmpOf s.ctx ≠ cmp ∨ s.core.phase = .halted → t.posted = s.posted) ∧
    t = { s with
      recent := t.recent
      spad := t.spad, gran := t.gran, quay := { s.quay with moor := t.quay.moor }, coll := t.coll, posted := t.posted }

/-! ## Events of launches and tasks -/

/-- R75, R264, R311, R313 to R315, R318, R321, R323, R389. A write of the host to a doorbell of a function's BAR0 queues an aligned address while fewer than
64 wait, else it sets its bit of the context's status word. A launch that the loader refuses leaves the doorbell queue, and the code of the first failed
check goes to the runtime; one whose cores are not free, or whose records clash with another die's, waits (the clash by the model's choice: log entry 38), and no
record is written with the cores that have failed or left service (log entry 82); one that passes every check starts: its launch
record, its timeline, its bind records, and the registers of a named core as a launch leaves them. A launch completes when its three conditions hold,
and ending a context completes its launches, drops its tasks and stops the strand that runs one of them. That the ended context's tasks leave the task
units is log entry 37; that a header of another context is FORMAT, and that the code goes to the list of the context's codes, is log entry 33; that a
header or section which the hub cannot read is FORMAT is log entry 84: all the model's choices. Where the strand has retired accesses still to be performed
(R16), ending its context performs those first (log entry 76). -/
def Obligations.LaunchesStartAndComplete : Prop :=
  (∀ (s : State) (f : Option (BitVec 4)) (off : Nat) (addr : BitVec 64),
    let none_ := ∀ k : BitVec 4, ¬((f = none ∧ off = 0x1000 * k.toNat) ∨ (f = some k ∧ off = 0))
    (none_ → exec (.doorbell ⟨f, off⟩ addr) s = .next s) ∧
    ∀ k : BitVec 4, (f = none ∧ off = 0x1000 * k.toNat) ∨ (f = some k ∧ off = 0) →
      ∃ t, exec (.doorbell ⟨f, off⟩ addr) s = .next t ∧ t = { s with ctxs := t.ctxs } ∧ (∀ j, j ≠ k → t.context j = s.context j) ∧
      (addr.toNat % 16 ≠ 0 → t.context k = { s.context k with status := (s.context k).status ||| 1 }) ∧
      (addr.toNat % 16 = 0 → 64 ≤ (s.context k).doorbell.length → t.context k = { s.context k with status := (s.context k).status ||| 2 }) ∧
      (addr.toNat % 16 = 0 → (s.context k).doorbell.length < 64 → t.context k = { s.context k with doorbell := (s.context k).doorbell ++ [addr] })) ∧
  [LoadCode.format, .signature, .decode, .tokens, .safedist, .cmdbound, .resource].map LoadCode.code = [1, 2, 3, 4, 5, 6, 7] ∧
  (∀ (s : State) (x : BitVec 4) (a : LaunchArgs),
    ((s.context x).doorbell = [] → exec (.launchStart x a) s = .next s) ∧
    ∀ (addr : BitVec 64) (rest : List (BitVec 64)), (s.context x).doorbell = addr :: rest →
      let hb := s.mem.getN addr.toNat 272
      let h := headerOf hb
      let checks := loaderChecks s.pkg.keys (s.context x) a
      let refused (code : BitVec 8) : Prop := exec (.launchStart x a) s =
        .next (s.setContext x { s.context x with doorbell := rest, codes := (s.context x).codes ++ [code] })
      let read := s.hubReads addr.toNat 272 = true ∧ s.sectionsRead h = true
      (¬read ∨ headerBad hb = true ∨ h.ctx ≠ x → refused 1) ∧
      (∀ e : LoadCode, read → headerBad hb = false → h.ctx = x → checks = .error e → refused e.code) ∧
      ∀ k, checks = .ok k → read → headerBad hb = false → h.ctx = x →
        (s.resources h a = false → refused 7) ∧
        (s.resources h a = true →
          (s.recordsClash a.binds = true ∨ (∃ c ∈ namedCores a.binds, s.coreAvailable c = false) → exec (.launchStart x a) s = .next s) ∧
          (s.recordsClash a.binds = false → (∀ c ∈ namedCores a.binds, s.coreAvailable c = true) → ∃ t l, exec (.launchStart x a) s = .next t ∧
            t.unit.launches = s.unit.launches ++ [l] ∧ t.unit.nextLaunch = s.unit.nextLaunch + 1 ∧ l.id = s.unit.nextLaunch ∧ l.ctx = x ∧
            l.entry = h.entry ∧ l.args = h.args ∧ l.tsbase = h.tsbase ∧ l.done = h.done ∧ l.doneval = h.doneval ∧ l.budget = h.budget ∧
            l.timeline = h.timeline ∧ l.prio = h.prio ∧ l.spec = h.spec ∧ l.safedist = BitVec.ofNat 32 k.dist ∧
            l.group = h.items ∧ l.made = [] ∧ l.binds = (a.binds.map fun b => (b.1, b.2.1)) ∧ l.complete = false ∧
            t.unit.tasks = (s.unit.tasks.map fun u => if u.state = .ready then { u with die := (t.bindingDie u).getD u.die } else u) ∧
            (∀ b ∈ a.binds, (∀ c ∈ a.binds, (c.1, c.2.1) = (b.1, b.2.1) → c = b) → (t.die b.1).binds[b.2.1]? = some b.2.2) ∧
            (∀ d < 4, ∀ i, (∀ b ∈ a.binds, (b.1, b.2.1) ≠ (d, i)) → (t.die d).binds[i]? = (s.die d).binds[i]?) ∧
            (t.context x).doorbell = rest ∧ (t.context x).ended = false ∧ (t.context x).timelines.getLsbD h.timeline.toNat = true ∧ t.mem = s.mem ∧
            ((s.selfDie, s.selfCore) ∉ namedCores a.binds → t.core = s.core ∧ t.q = s.q) ∧
            ((s.selfDie, s.selfCore) ∈ namedCores a.binds → t.q = Queues.empty ∧ t.core.x = Vector.replicate 32 0 ∧ t.core.c = 1 ∧
              t.core.v = Vector.replicate 32 0 ∧ t.core.vfull = BitVec.allOnes 32 ∧ t.core.phase = .idle ∧
              (∀ i (hi : i < 64), t.core.d[i]'hi = BitVec.ofNat 256 (leNat (s.mem.getN (h.tdtptr.toNat + 32 * i) 32))) ∧
              (∀ i (hi : i < 8), t.core.n[i]'hi = BitVec.ofNat 1024 (leNat (s.mem.getN (h.lndptr.toNat + 128 * i) 128))) ∧
              t.core.sys = { SysRegs.reset with self := s.core.sys.self, ctx := (s.context x).tenant ++ x })))) ∧
  (∀ (s : State) (n : Nat),
    (s.findLaunch n = none → exec (.launchCompletion n) s = .next s) ∧
    ∀ l, s.findLaunch n = some l →
      (s.launchDone l = false → exec (.launchCompletion n) s = .next s) ∧
      (s.launchDone l = true → ∃ t, exec (.launchCompletion n) s = .next t ∧ (∀ m ∈ t.unit.launches, m.id = n → m.complete = true) ∧
        (s.pkg.hubFailed = true → t.mem = s.mem ∧ t.ctxs = s.ctxs) ∧
        (s.pkg.hubFailed = false → (∀ u, s.doneWrite l l.doneval = some u → t.mem = u.mem) ∧
          (s.doneWrite l l.doneval = none → t.mem = s.mem ∧ (t.context l.ctx).status = (s.context l.ctx).status ||| 4)))) ∧
  ∀ (s : State) (x : BitVec 4) (why : BitVec 8), ∃ t, exec (.contextEnd x why) s = .next t ∧
    (∀ u ∈ t.unit.tasks, u.ctx ≠ x) ∧ (t.context x).ended = true ∧
    ((s.core.pending = [] ∨ ∀ u ∈ s.runTask, u.ctx ≠ x) →
    let open_ := s.unit.launches.filter fun l => l.ctx == x && !l.complete
    (∀ l ∈ t.unit.launches, l.ctx = x → l.complete = true) ∧ (∀ j, j ≠ x → t.context j = s.context j) ∧
    (∀ l, open_ = [l] → s.pkg.hubFailed = false →
      (∀ u, s.doneWrite l (BitVec.ofNat 64 (2 ^ 63 + why.toNat)) = some u → t.mem = u.mem) ∧
      (s.doneWrite l (BitVec.ofNat 64 (2 ^ 63 + why.toNat)) = none → t.mem = s.mem ∧ (t.context x).status = (s.context x).status ||| 4)) ∧
    (s.pkg.hubFailed = true ∨ open_ = [] →
      t.unit.tasks = (s.unit.tasks.filter fun u => u.ctx != x) ∧ t.context x = { s.context x with ended := true } ∧
      ((∃ u ∈ s.runTask, u.ctx = x) → s.core.phase ≠ .halted → t.core = { s.core with phase := .stopped }) ∧
      ((∀ u ∈ s.runTask, u.ctx ≠ x) → t.core = s.core) ∧ t.mem = s.mem ∧ t.spad = s.spad ∧ t.q = s.q))

/-- R244, R314, R316, R320, R321, R333, R334, R336, R349. A die's task unit creates the next task of a launch while it holds fewer than 4,096; a dispatch
gives a free core the ready task that the pattern and the order of tasks choose, with the registers that a dispatch sets and no other general register
changed, and the granules of its frame that are not MOORED empty; where a task of the frontier group finds no core free, a victim is aborted for it first
(R337). The decision examines the slots of the pattern from the pointer on, takes the first whose band has a ready task with a free core, of those the one
lowest in timestamp, work identifier, priority and timeline, and leaves the pointer behind that slot; the core is the lowest free one of the task's mask; the
victim is the highest in timestamp, work identifier, timeline and core. A task of the frontier group becomes non-speculative, its balloon becomes memory, and
it commits by leaving the uncommitted set. That TASK_COMMIT of this core's own task has no effect is log entry 55, the task's field `shut` is log entry 28,
that a victim's abort and the dispatch are one move is log entry 35, that a dispatch starts with no handler entered and nothing kept is log entry 80, and
the ECC of a flush that meets a failed boundary is log entry 85: all the model's choices. -/
def Obligations.TasksAreCreatedDispatchedAndCommitted : Prop :=
  (∀ (s : State) (d : Nat),
    (4096 ≤ s.tasksOn d ∨ s.launchWithItem d = none → exec (.taskCreate d) s = .next s) ∧
    ∀ l i, s.tasksOn d < 4096 → s.launchWithItem d = some (l, i) → ∃ t u, exec (.taskCreate d) s = .next t ∧ u ∈ t.unit.tasks ∧
      ((∀ v ∈ s.unit.tasks, v.timeline = l.timeline → v.nonspec = true ∨ s.inFrontier v = false) →
        t = { s with unit := t.unit } ∧ t.unit.tasks = s.unit.tasks ++ [u]) ∧ t.unit.nextNum = s.unit.nextNum + 1 ∧ u.num = s.unit.nextNum ∧ u.state = .ready ∧ u.entry = l.entry ∧
      u.args = l.args ∧ u.ts = l.tsbase ∧ u.wid = l.wid i ∧ u.budget = l.budget ∧ u.prio = l.prio ∧ u.spec = l.spec ∧ u.timeline = l.timeline ∧
      u.launch = l.id ∧ u.ctx = l.ctx ∧ u.parent = 0 ∧ u.pmask = 0x3F ∧ u.die = d ∧ u.nonspec = false ∧
      ∀ m ∈ t.unit.launches, m.id = l.id → i ∈ m.made) ∧
  (∀ (s : State) (d : Nat),
    let free (u : Task) (c : Nat) : Prop := (∀ v ∈ s.unit.tasks, v.state ≠ .ready → ¬(v.die = u.die ∧ v.core = c)) ∧
      (u.die, c, u.launch) ∉ s.unit.halted ∧ s.barred u.die c = false ∧
      ((u.die, c) = (s.selfDie, s.selfCore) → s.core.phase = .idle ∨ s.core.phase = .halted)
    let inMask (u : Task) (c : Nat) : Prop := c < 64 ∧ ∃ r, s.recordOn u.die u = some r ∧ r.mask.getLsbD c = true
    let ready (u : Task) : Prop := u ∈ s.unit.tasks ∧ u.die = d ∧ u.state = .ready ∧ (u.spec = true ∨ s.inFrontier u = true) ∧
      (s.context u.ctx).ended = false
    let eligible (u : Task) : Prop := ready u ∧ ∃ c, inMask u c ∧ free u c
    let band (j : Nat) : Nat := (((s.die d).pattern[j % 256]'(Nat.mod_lt _ (by decide))).extractLsb' 0 3).toNat
    let blocked (u : Task) : Prop := ready u ∧ s.inFrontier u = true ∧ ∀ c, inMask u c → ¬free u c
    let prey (u v : Task) : Prop := v ∈ s.unit.tasks ∧ v.die = u.die ∧ inMask u v.core ∧ s.barred u.die v.core = false ∧ v.state ≠ .ready ∧
      s.taskNonspec v = false
    (∀ u, (s.freeCore u = none ↔ ∀ c, inMask u c → ¬free u c) ∧
      ∀ c, s.freeCore u = some c ↔ inMask u c ∧ free u c ∧ ∀ b, b < c → inMask u b → ¬free u b) ∧
    (s.decide_ d = none ↔ ∀ u k, eligible u → k < 256 → u.prio.toNat / 8 ≠ band k) ∧
    (∀ u p, s.decide_ d = some (u, p) → ∃ k, k < 256 ∧ eligible u ∧ u.prio.toNat / 8 = band ((s.die d).ptr + k) ∧
      p = ((s.die d).ptr + k + 1) % 256 ∧
      (∀ v j, eligible v → j < k → v.prio.toNat / 8 ≠ band ((s.die d).ptr + j)) ∧
      ∀ v, eligible v → v.prio.toNat / 8 = band ((s.die d).ptr + k) →
        ¬[v.ts.toNat, v.wid.toNat, v.prio.toNat, v.timeline.toNat] < [u.ts.toNat, u.wid.toNat, u.prio.toNat, u.timeline.toNat]) ∧
    (s.blocked d = none ↔ ∀ u v, blocked u → ¬prey u v) ∧
    (∀ u v, s.blocked d = some (u, v) → blocked u ∧ prey u v ∧
      ∀ w, prey u w → ¬[v.ts.toNat, v.wid.toNat, v.timeline.toNat, v.core] < [w.ts.toNat, w.wid.toNat, w.timeline.toNat, w.core]) ∧
    ∀ u v, s.blocked d = some (u, v) → exec (.dispatch d) s = .next ((s.abort v.num).dispatchTo u v.core).occupied) ∧
  (∀ (s : State) (d : Nat), s.blocked d = none →
    (s.decide_ d = none → exec (.dispatch d) s = .next s) ∧
    ∀ u p, s.decide_ d = some (u, p) → ∃ t, exec (.dispatch d) s = .next t ∧ u ∈ s.unit.tasks ∧ s.taskReady u = true ∧ (t.die d).ptr = p ∧
      (∀ c, s.freeCore u = some c →
        { u with
          state := .running, core := c, saveTk := s.core.tk, saveBphase := s.core.sys.bphase, nonspec := s.taskNonspec u,
          shut := decide (d = s.selfDie ∧ c = s.selfCore) && s.quay.absent } ∈ t.unit.tasks ∧
        (s.canonical → d = s.selfDie → c / 8 = s.selfCluster → ∀ g, t.gran.get g =
          if 0x40000 * (c % 8) + 0x40000 - 256 * u.frame.toNat ≤ g ∧ g < 0x40000 * (c % 8) + 0x40000 ∧ s.gran.get g = .full then .empty
          else s.gran.get g) ∧
        (¬(d = s.selfDie ∧ c / 8 = s.selfCluster) → t.gran = s.gran)) ∧
      (d = s.selfDie → s.freeCore u = some s.selfCore →
        t.core.pc = u.entry ∧ t.core.x = s.core.x.set 31 u.args ∧ t.core.phase = .running ∧ t.core.region = none ∧ t.core.sys.wid = u.wid ∧
        t.core.sys.ts = u.ts ∧ t.core.sys.task = u.num ∧ t.core.sys.budget = u.budget ∧
        t.core.sys.status = setBit s.core.sys.status 7 (!s.taskNonspec u) ∧ t.core.sys.ctx = (s.context u.ctx).tenant ++ u.ctx ∧
        t.core.v = s.core.v ∧ t.core.p = s.core.p ∧ t.core.a = s.core.a ∧ t.core.b = s.core.b ∧ t.core.c = s.core.c ∧ t.core.tk = s.core.tk ∧
        t.core.depth = 0 ∧ t.core.kept = [] ∧ t.core.pending = [] ∧ t.mem = s.mem ∧ t.spad = s.spad) ∧
      (∀ c, s.freeCore u = some c → (d, c) ≠ (s.selfDie, s.selfCore) → t.core = s.core)) ∧
  (∀ (s : State) (d : Nat) (h : d < 4) (pat : List Byte),
    let new : Die := { s.unit.dies[d]'h with pattern := Vector.ofFn fun i => (pat[i.val]?).getD 0 }
    (pat.length = 256 → (∀ b ∈ pat, b.toNat < 8) → (∀ k < 8, ∃ b ∈ pat, b.toNat = k) → exec (.dispatchPatternLoad d pat) s =
      .next { s with unit := { s.unit with dies := s.unit.dies.set d new h } }) ∧
    (pat.length ≠ 256 ∨ (∃ b ∈ pat, 8 ≤ b.toNat) ∨ (∃ k < 8, ∀ b ∈ pat, b.toNat ≠ k) → exec (.dispatchPatternLoad d pat) s = .next s)) ∧
  (∀ (s : State) (n : BitVec 64),
    (s.task n = none → exec (.taskBecomesNonspeculative n) s = .next s ∧ ∀ h, exec (.taskCommit ⟨n, h⟩) s = .next s) ∧
    ∀ u, s.task n = some u →
      (s.inFrontier u = false → exec (.taskBecomesNonspeculative n) s = .next s) ∧
      (u.nonspec = false → s.inFrontier u = true → ∃ t, exec (.taskBecomesNonspeculative n) s = .next t ∧
        (∀ v ∈ t.unit.versions, v.task ≠ n) ∧ (∀ r ∈ t.unit.reads, r.task ≠ n) ∧
        (∀ v, s.pkg.refusing = [] → s.pkg.degraded = false → s.unit.reads = [] → s.unit.versions = [v] → v.task = n → s.canonical → ∀ a,
          t.mem.get a = if a / 64 = v.line ∧ v.mask.getLsbD (a % 64) = true then v.data.extractLsb' (8 * (a % 64)) 8 else s.mem.get a) ∧
        (s.unit.reads = [] → (∀ r ∈ s.runTask, r.num ≠ n) → t.core.sys = s.core.sys ∧ t.core.x = s.core.x ∧ t.core.pc = s.core.pc) ∧
        (s.pkg.degraded = false → s.unit.reads = [] → s.core.saved = none ∨ s.core.phase ≠ .parked → (∃ r ∈ s.runTask, r.num = n) →
          t.specNow = false ∧ t.core.x = s.core.x ∧ t.core.pc = s.core.pc) ∧
        (∀ v a, s.pkg.refusing = [] → s.unit.reads = [] → s.unit.versions = [v] → v.task = n → (∃ r ∈ s.runTask, r.num = n) →
          s.core.phase = .running → s.core.sys.sact = false →
          let cut (b : Nat) : Prop := b / 64 = v.line ∧ v.mask.getLsbD (b % 64) = true ∧ s.cutFrom u.die (.glob (b / 16)) = true
          cut a → (∀ b, b < a → ¬cut b) →
            t.core.pc = s.core.sys.tvec ∧ t.core.sys.causelo.extractLsb' 0 8 = 0x10 ∧ t.core.sys.causehi = BitVec.ofNat 64 a ∧
            t.core.sys.epc = s.core.pc ∧ t.core.sys.sup = true ∧ t.core.sys.sact = true ∧ t.specNow = false ∧
            (s.canonical → ∀ b, cut b → t.mem.get b = s.mem.get b))) ∧
      ((∃ r ∈ s.runTask, r.num = n) → ∀ h, exec (.taskCommit ⟨n, h⟩) s = .next s) ∧
      (s.taskNonspec u = true → u.state ≠ .ready → (∀ r ∈ s.runTask, r.num ≠ n) →
        (∀ h, ∃ t, exec (.taskCommit ⟨n, h⟩) s = .next t ∧ ∀ v ∈ t.unit.tasks, v.num ≠ n) ∧
        (∃ t, exec (.taskCommit ⟨n, true⟩) s = .next t ∧ t.unit.halted = s.unit.halted ++ [(u.die, u.core, u.launch)]) ∧
        ∃ t, exec (.taskCommit ⟨n, false⟩) s = .next t ∧ t.unit.halted = s.unit.halted))

/-! ## Events of memory tables and of the cluster -/

/-- R155 to R157, R304 to R306, R312, R342, R388. A range entry is replaced whole; a leaf's cached copies are dropped; the host's write leaves its bytes; the
flag unit is assigned with every cell zero, and an update that arrives changes its own cells. -/
def Obligations.MemoryTablesTheHostAndTheFlagUnit : Prop :=
  (∀ (s : State) (k : BitVec 4) (i : Nat) (h : i < 128) (e : RangeEntry) (va : BitVec 52),
    exec (.rangeEntryReplace k i e) s = .next (s.setContext k { s.context k with ranges := (s.context k).ranges.set i e h }) ∧
    ∃ t, exec (.pageInvalidate k va) s = .next t ∧ t = { s with tlb := t.tlb } ∧
      ∀ x, x ∈ t.tlb ↔ x ∈ s.tlb ∧ ¬(x.ctx = k ∧ x.vbase ≤ va.toNat ∧ va.toNat < x.vbase + (if x.big = true then 0x200000 else 0x10000))) ∧
  (∀ (s : State) (pa : BitVec 64) (d : List Byte), d ≠ [] → s.canonical → s.unit.reads = [] → s.pkg.degraded = false →
    (physExists pa.toNat = false ∨ physExists (pa.toNat + d.length - 1) = false → exec (.hostWrite pa d) s = .next s) ∧
    (physExists pa.toNat = true → physExists (pa.toNat + d.length - 1) = true → ∃ t, exec (.hostWrite pa d) s = .next t ∧
      (∀ i, i < d.length → some (t.mem.get (pa.toNat + i)) = d[i]?) ∧
      (∀ a, a < pa.toNat ∨ pa.toNat + d.length ≤ a → t.mem.get a = s.mem.get a) ∧
      t = { s with
        mem := t.mem, poison := t.poison
        pkg := { s.pkg with rewritten := t.pkg.rewritten }
        recent := t.recent
        core := { s.core with monitor := t.core.monitor } })) ∧
  (∀ (s : State) (n : Nat),
    let held := ∃ o ∈ s.unit.flagOwner, ∃ l ∈ s.unit.launches, l.id = o ∧ l.complete = false
    let fits := ∃ l ∈ s.unit.launches, l.id = n ∧ l.complete = false ∧ s.bound s.selfDie (8 * s.selfCluster) (some (l.timeline, l.ctx)) = true
    (held ∨ ¬fits → exec (.flagUnitAssign n) s = .next s) ∧
    (¬held → fits → exec (.flagUnitAssign n) s =
      .next { s with unit := { s.unit with flagOwner := some n, flags := Vector.replicate 2048 0, flagPoison := [], flagErrs := [] } })) ∧
  ∀ (s : State) (rank r j : BitVec 3) (f g : BitVec 8) (mask : BitVec 8) (v : BitVec 32), s.unit.flagOwner.isSome = true →
    (∃ t, exec (.flagUpdateApply rank (.add f r v)) s = .next t ∧
      t = { s with unit := { s.unit with flags := t.unit.flags, flagPoison := t.unit.flagPoison, flagErrs := t.unit.flagErrs } } ∧
      (flagCell f r ∈ s.unit.flagErrs → flagCell f r ∈ t.unit.flagPoison) ∧
      (flagCell f r ∉ s.unit.flagErrs → t.unit.flagPoison = s.unit.flagPoison ∧ t.unit.flagErrs = s.unit.flagErrs) ∧
      t.flag g j = if g = f ∧ j = r then s.flag f r + v else s.flag g j) ∧
    ∃ t, exec (.flagUpdateApply rank (.set f mask v)) s = .next t ∧
      t = { s with unit := { s.unit with flags := t.unit.flags, flagPoison := t.unit.flagPoison, flagErrs := t.unit.flagErrs } } ∧
      (mask.getLsbD j.toNat = true → flagCell f j ∉ t.unit.flagPoison) ∧
      t.flag g j = if g = f ∧ mask.getLsbD j.toNat = true then v else s.flag g j

/-! ## Events of traps, pre-emption and restore -/

/-- R32, R33, R54, R155, R242, R262 to R264, R346, R417, R421. A fetch that the translation refuses traps at the word's address. The strand takes the first
engine fault that waits for no handler before its next control word, or at an engine word that finds no room, once every other engine has stopped; where no
engine trap is due, it takes, of the posted traps that wait for nothing and are still good, the first in the order COMPART, COLLFAIL, BUDGET, RECLAIM, PULLFAIL and the
lowest index among those of one kind, where one may be taken; what is no longer good is dropped, and what cannot be taken stays. The traps that remain wait for the ERET of the
handler that is entered. That op and form of such records are 0 is log entry 11, that an engine word without room is a point for an engine trap is log
entry 12, and which waits a posted trap is taken out of is log entry 13: all the model's choices. -/
def Obligations.FetchEngineAndPostedTrapsAreTaken : Prop :=
  (∀ s : State, let va := s.core.pc.toNat
    (∀ c, s.fetchWord va = .error c → exec .fetchFault s = .next ((s.trapOrPark (c.toRec 0 0) s.core.pc).tick 1)) ∧
    (s.translate s.ctx permCtlRead va = .range → s.fetchWord va = .error ⟨0x04, 0, BitVec.ofNat 64 va⟩) ∧
    (∀ k, s.translate s.ctx permCtlRead va = .perm k → s.fetchWord va = .error ⟨0x05, k, BitVec.ofNat 64 va⟩) ∧
    (s.translate s.ctx permCtlRead va = .nres → s.fetchWord va = .error ⟨0x06, 0, BitVec.ofNat 64 va⟩) ∧
    (∀ x, s.translate s.ctx permCtlRead va = .ecc x → s.fetchWord va = .error ⟨0x10, 0, BitVec.ofNat 64 x⟩) ∧
    (∀ pa, s.translate s.ctx permCtlRead va = .ok pa →
      (s.poisoned (.glob (pa / 16)) = true → s.fetchWord va = .error ⟨0x10, 0, BitVec.ofNat 64 va⟩) ∧
      (s.poisoned (.glob (pa / 16)) = false → ∃ w : IWord, s.fetchWord va = .ok w ∧
        w.toNat = (s.mem.get pa).toNat + 2 ^ 8 * (s.mem.get (pa + 1)).toNat + 2 ^ 16 * (s.mem.get (pa + 2)).toNat + 2 ^ 24 * (s.mem.get (pa + 3)).toNat))) ∧
  (∀ (s : State) (e : Eng) (f : TrapRec) (fs : List TrapRec), s.core.phase = .running → (s.q.get e).faults = f :: fs → f.eng = e.code →
    (∀ g : Eng, g.code.toNat < e.code.toNat → (s.q.get g).faults = []) → s.core.sys.sact = false →
    f.kept = 0 ∨ s.core.depth < f.kept →
    ((∀ w, s.peekWord s.core.pc.toNat = some w → fEng w = 0 ∨ (fEng w = 7 ∧ fTgt w = 0)) ∨
      (∃ w g, s.peekWord s.core.pc.toNat = some w ∧ Eng.ofCode (if fEng w = 7 then fTgt w else fEng w) = some g ∧ s.hasRoom g = false) ∨
      ∃ g v p a, s.core.wait = .regs g v p a ∧ s.hazard g ⟨v, p, a⟩ = true) →
    (∀ g : Eng, s.engineAtRest g = true) →
    (s.core.sys.uvec = 0 ∨ s.core.sys.uact = true ∨ f.code ≠ 0x07) → f.code ∉ [(0x08 : BitVec 8), 0x09, 0x0A, 0x11] → s.specNow = false →
    ∃ t, exec .engineTrapDelivery s = .next t ∧ t.q.get e = Queue.keepFaults { s.q.get e with faults := fs } (s.core.depth + 1) ∧
      (∀ g, g ≠ e → t.q.get g = (s.q.get g).keepFaults (s.core.depth + 1)) ∧ t.core.pc = s.core.sys.tvec ∧
      t.core.sys.causelo = f.causelo ∧ t.core.sys.causehi = f.info ∧ t.core.sys.epc = s.core.pc ∧ t.core.sys.sup = true ∧ t.core.sys.sact = true ∧
      t.core.sys.iterhi ++ t.core.sys.iterlo = f.iter ∧ t.core.x = s.core.x ∧ sameMemory s t) ∧
  (∀ (s : State) (c : BitVec 16) (k : BitVec 6) (n : Word) (m g lg : BitVec 8) (l : BitVec 6) (r : BitVec 4), ∀ p ∈ [
      (Posted.compart c, Instr.compart, (0x13 : BitVec 8), c.setWidth 64), (.collfail k, .collfail, 0x0F, k.setWidth 64), (.budget n, .budget, 0x08, n),
      (.reclaim m g, .reclaim, 0x09, (g ++ m).setWidth 64), (.pullfail l lg r, .pullfail, 0x0A, (r ++ 0#2 ++ l).setWidth 64)],
    let rank : Posted → List Nat := fun
      | .compart c => [0, c.toNat] | .collfail k => [1, k.toNat] | .budget _ => [2] | .reclaim m _ => [3, m.toNat] | .pullfail l _ _ => [4, l.toNat]
    let stays (q : Posted) : Bool := s.postedWaits q || s.postedValid q
    ∀ before after, s.core.phase = .running → s.engineDue s.fetch = false → s.posted = before ++ p.1 :: after → s.postedWaits p.1 = false →
    s.postedValid p.1 = true → (∀ q ∈ before, s.postedWaits q = false → s.postedValid q = true → rank p.1 < rank q) →
    (∀ q ∈ after, s.postedWaits q = false → s.postedValid q = true → ¬rank q < rank p.1) → s.postedOpen s.fetch = true →
    exec p.2.1 s = .next ((State.takeTrap (State.unmarkEnded { s with posted := before.filter stays ++ after.filter stays }) ⟨p.2.2.1, 0, 0, false, 0, 0, p.2.2.2, 0, 0⟩ s.core.pc).tick 1)) ∧
  ∀ s : State, ∀ i ∈ [Instr.engineTrapDelivery, .compart, .collfail, .budget, .reclaim, .pullfail],
    s.core.phase ≠ .running ∨ (s.engineDue s.fetch = true ∧ ∃ g : Eng, s.engineAtRest g = false) ∨
      (s.engineDue s.fetch = false ∧ ((∀ p ∈ s.posted, s.postedWaits p = true) ∨ s.postedOpen s.fetch = false)) → exec i s = .next s

/-- R29, R31, R141, R244, R271, R346, R347. A pre-emption request sets preq; a speculative task that is parked or waits is aborted and PREEMPT is taken with
SPECABORT; a drain that does not end takes it with DIRTY at its limit, discarding what has not started, and queues that have emptied leave it to the
SAFEPT. Restoring a strand reads its save area. The budget's end posts BUDGET, or parks a speculative task. That a restore leaves the program counter and
the phase is log entry 29, that TEND's wait while speculative and the metadata waits of R341 count as waiting for R347 is log entry 13, that the Counts which collectives owe are performed at the quay's return is log entry 71, and that the cycles of a budget pass
at once is log entry 5: all the model's choices. -/
def Obligations.PreemptionRestoreAndBudget : Prop :=
  (∀ s : State,
    let late := s.specNow = true ∧ (s.core.phase = .parked ∨ (s.core.phase = .running ∧ s.core.wait = .spec))
    (¬late → ∃ t, exec .preemptRequest s = .next t ∧ t.core.sys.preq = true ∧ (∀ i, i ≠ 5 → t.core.sys.status.getLsbD i = s.core.sys.status.getLsbD i) ∧
      t = { s with core := { s.core with sys := { s.core.sys with status := t.core.sys.status } } }) ∧
    ∀ u, late → s.runTask = some u → ∃ t, exec .preemptRequest s = .next t ∧ t.core.pc = s.core.sys.tvec ∧ t.core.phase = .running ∧
      t.core.sys.causelo.extractLsb' 0 8 = 0x12 ∧ t.core.sys.causehi = 2 ∧ t.core.sys.sup = true ∧ t.core.sys.sact = true ∧ t.core.sys.preq = false ∧
      t.core.budgetStopped = true ∧ t.quay.absent = true ∧ t.q = Queues.empty ∧ t.specNow = false ∧ t.core.x = s.core.x ∧
      t.core.tk = u.saveTk) ∧
  (∀ (s : State) (start : BitVec 64), s.core.drainFrom = some start → s.core.sys.preq = true → s.core.sys.uact = false → s.core.sys.sact = false →
    s.specNow = false → s.core.region = none → s.atSafept = true →
    (s.allDrained = true → exec .drainLimitExpiry s = .next s) ∧
    (s.allDrained = false → ∃ t, exec .drainLimitExpiry s = .next t ∧ t.core.pc = s.core.sys.tvec ∧ t.core.sys.causelo.extractLsb' 0 8 = 0x12 ∧ t.core.sys.causehi = 1 ∧
      t.core.sys.epc = s.core.pc + 4 ∧ t.core.sys.sup = true ∧ t.core.sys.sact = true ∧ t.core.sys.preq = false ∧ t.quay.absent = true ∧
      (∀ e : Eng, (t.q.get e).entries = [] ∧ (t.q.get e).run = (s.q.get e).run) ∧ t.core.x = s.core.x ∧ sameMemory s t)) ∧
  (∀ s : State, s.core.drainFrom = none → exec .drainLimitExpiry s = .next s) ∧
  (∀ (s : State) (pa : BitVec 64), s.canonical → ∃ t, exec (.strandRestore pa) s = .next t ∧
    let at8 (a : Nat) : Word := BitVec.ofNat 64 (leNat (s.mem.getN (pa.toNat + a) 8))
    (∀ r : BitVec 5, t.x r = if r = 0 then 0 else at8 (0x452C00 + 8 * r.toNat)) ∧ (∀ r : BitVec 2, t.b r = at8 (0x452E40 + 8 * r.toNat)) ∧
    (s.quay.absent = false ∨ s.coll.owed = [] → ∀ i < 0x400000, t.spad.get (s.selfRank * 0x400000 + i) = s.mem.get (pa.toNat + i)) ∧
    (s.quay.absent = false ∨ s.coll.owed = [] → ∀ a, a < s.selfRank * 0x400000 ∨ (s.selfRank + 1) * 0x400000 ≤ a → t.spad.get a = s.spad.get a) ∧
    (∀ c, s.quay.absent = true → s.coll.owed = [c] →
      t.spad = (State.countAt { s with spad := replaceCells s.spad (movedCells s.mem pa.toNat 0x400000 (s.selfRank * 0x400000))
                                         (s.selfRank * 0x400000) 0x400000 } c.1 c.2).spad) ∧
    (∀ u, s.task (at8 0x452F20) = some u → t.core.sys.task = u.num ∧ t.core.sys.ts = u.ts ∧ t.core.sys.wid = u.wid ∧
      t.core.sys.budget = (at8 0x452F30).setWidth 32) ∧
    (∀ g < 262144, t.gran.get (s.selfRank * 262144 + g) =
      GState.ofCode ((s.mem.get (pa.toNat + 0x440000 + g / 4)).toNat / 4 ^ (g % 4) % 4)) ∧
    t.core.pc = s.core.pc ∧ t.core.phase = s.core.phase ∧ t.mem = s.mem ∧ t.q = s.q ∧ t.quay.absent = false ∧
    (s.quay.absent = true → t.coll.owed = [])) ∧
  ∀ (s : State) (u : Task), s.runTask = some u → s.core.budgetStopped = false → s.core.sys.budget ≠ 0 →
    ∃ t, exec .budgetExhausted s = .next t ∧ t.core.sys.budget = 0 ∧ t.now = s.now + s.core.sys.budget.setWidth 64 ∧ t.core.x = s.core.x ∧
      t.core.pc = s.core.pc ∧ (s.specNow = false → t.posted = s.posted ++ [.budget s.core.sys.task] ∧ t.core.phase = s.core.phase) ∧
      (s.specNow = true → t.posted = s.posted ∧ t.core.phase = .parked)

/-! ## Events of the quay -/

/-- R226, R227, R229 to R233, R242, R244, R419, R421. A notice that arrives is answered ABSENT, NO-ROUTE, ACCEPT or FULL and put into the inbox, where the
oldest landing of its tag takes it. Answers set and clear the marks of a consumer, and a notice whose latest answer was not ACCEPT is sent again while its pending bit is set, which release
leaves as it is. An acknowledgement or decline clears its consumer's pending bit, and
the last one releases the block; at a tick of the microsecond clock a timer that runs out expires the entry, or releases it on a halted core. An answer that
names another generation than that of the entry's latest notices marks nothing; a notice that nobody has had yet, of a block before the entry's latest, goes
on being sent. How answers, kept acknowledgements and such notices are matched and sent again is log entry 27, the model's choice. The manual does not say
what becomes of a notice of another compartment (log entry 26), nor when within its last microsecond an entry expires (log entry 43). -/
def Obligations.NoticesAndMoorings : Prop :=
  (∀ (s : State) (n : Notice),
    let about := Answered.notice n.moor.toNat n.gen n.cidx.toNat
    let replies (f : Frame) := exec (.notice ⟨n, none⟩) s = .next { s with outbox := s.outbox ++ [f] }
    let known := ∃ i ∈ s.quay.inbox, i.notice.src = n.src ∧ i.notice.moor = n.moor ∧ i.notice.gen = n.gen ∧ i.notice.cidx = n.cidx
    (s.quay.absent = true → replies (.absent n.src about)) ∧
    (s.quay.absent = false → s.quayBound = false → replies (.noRouteR n.src about)) ∧
    (s.quay.absent = false → s.quayBound = true →
      (n.cmp ≠ s.cmpOf s.ctx ∨ s.revokedDev n.cmp n.src = true → exec (.notice ⟨n, none⟩) s = .next s) ∧
      (n.cmp = s.cmpOf s.ctx → s.revokedDev n.cmp n.src = false →
        (known → replies (.accept n.src about)) ∧
        (¬known → 256 ≤ s.quay.inbox.length → replies (.fullR n.src about)) ∧
        (¬known → s.quay.inbox.length < 256 →
          ((∀ l < 64, (s.land l).tag = n.tag → (s.land l).state ≠ .posted ∧ (s.land l).state ≠ .standing) → exec (.notice ⟨n, none⟩) s =
            .next { s with outbox := s.outbox ++ [.accept n.src about], quay := { s.quay with inbox := s.quay.inbox ++ [⟨n, false, none⟩] } }) ∧
          ∀ l < 64, (s.land l).tag = n.tag → (s.land l).state = .posted → (s.land l).removing = false → n.size.toNat ≤ (s.land l).size.toNat →
            (∀ k < 64, k ≠ l → (s.land k).tag ≠ n.tag) → ∃ t, exec (.notice ⟨n, none⟩) s = .next t ∧ t.outbox = s.outbox ++ [.accept n.src about] ∧
              t.quay.inbox = s.quay.inbox ++ [⟨n, false, some l⟩] ∧ (t.land l).state = .pulling ∧ (t.land l).notice = some n ∧
              (t.land l).src = n.src ∧ (t.land l).landed = 0 ∧ (t.land l).segs.length = (16 * (n.size.toNat + 1) + 4095) / 4096 ∧
              (∀ k < 64, k ≠ l → t.land k = s.land k))))) ∧
  (∀ (s : State) (m i : Nat) (g : BitVec 8), m < 256 →
    let e := s.moor m
    let b : BitVec 63 := 1#63 <<< i
    let told := s.quay.untold.filter fun u => !(u.2.moor.toNat == m && u.2.gen == g && u.2.cidx.toNat == i)
    let becomes (ev : Instr) (e' : MoorEntry) (untold : List (QuayAddr × Notice)) :=
      ∃ t, exec ev s = .next t ∧ t.moor m = (if (if e.valid = true then e.gen else e.gen - 1) = g then e' else e) ∧ (∀ k < 256, k ≠ m → t.moor k = s.moor k) ∧
        t = { s with quay := { s.quay with moor := t.quay.moor, untold := untold } }
    becomes (.accept (.notice m g i)) { e with accepted := e.accepted ||| b, absent := e.absent &&& ~~~b } told ∧
    becomes (.absent (.notice m g i)) { e with accepted := e.accepted &&& ~~~b, absent := e.absent ||| b } told ∧
    becomes (.noRoute (.notice m g i)) { e with accepted := e.accepted &&& ~~~b } told ∧
    becomes (.full m (.quay g i)) { e with absent := e.absent &&& ~~~b, accepted := e.accepted &&& ~~~b } s.quay.untold ∧
    let n := s.noticeOf m i
    let due := i < 63 ∧ e.pending.getLsbD i = true ∧ e.accepted.getLsbD i = false
    let older := (s.quay.untold.filter fun u => u.2.moor.toNat == m && u.2.cidx.toNat == i && u.2.gen != n.gen).map fun u => Frame.notice u.1 u.2
    n = { tag := e.tag, size := e.size, cls := e.cls, prio := e.prio, src := s.self, moor := BitVec.ofNat 8 m,
          gen := if e.valid = true then e.gen else e.gen - 1, cidx := BitVec.ofNat 6 i, grp := e.grp, off := e.off, cmp := s.cmpOf e.ctx, ctx := e.ctx } ∧
    (∀ dst, due → e.consumers[i]? = some dst → s.revokedDev n.cmp dst = false →
      exec (.noticeResendTimeout m ⟨i, none⟩) s = .next { s with outbox := s.outbox ++ [.notice dst n] ++ older }) ∧
    (¬due ∨ e.consumers[i]? = none ∨ (∃ dst, e.consumers[i]? = some dst ∧ s.revokedDev n.cmp dst = true) →
      exec (.noticeResendTimeout m ⟨i, none⟩) s = .next { s with outbox := s.outbox ++ older })) ∧
  (∀ (s : State) (src : QuayAddr) (mo g lg : BitVec 8) (c : BitVec 6) (l k : Nat),
    (∃ t, exec (.accept (.ack src mo g c)) s = .next t ∧ t = { s with quay := { s.quay with kept := t.quay.kept } } ∧
      ∀ x, x ∈ t.quay.kept ↔ x ∈ s.quay.kept ∧ ¬(x.dst = src ∧ x.moor = mo ∧ x.gen = g ∧ x.cidx = c)) ∧
    exec (.absent (.ack src mo g c)) s = .next s ∧ exec (.noRoute (.ack src mo g c)) s = .next s ∧
    exec (.accept (.request l lg k)) s = .next s ∧
    (∀ a, s.quay.kept[k]? = some a → exec (.ackResendTimeout ⟨k, none⟩) s = .next { s with outbox := s.outbox ++
      [if a.ack = true then .ack a.dst s.self a.moor a.gen a.cidx else .decline a.dst s.self a.moor a.gen a.cidx] }) ∧
    (s.quay.kept[k]? = none → exec (.ackResendTimeout ⟨k, none⟩) s = .next s) ∧
    ∃ t, exec (.present src) s = .next t ∧ (∀ m < 256, ∀ i < 63,
        (t.moor m).absent.getLsbD i = true ↔ (s.moor m).absent.getLsbD i = true ∧ (s.moor m).consumers[i]? ≠ some src) ∧
      t.outbox = s.outbox ++ (s.quay.kept.filter fun a => a.dst == src).map s.keptFrame ++
        s.coll.comms.flatMap (fun c => (c.acks.filter fun a => a.dst == src).map fun a =>
          .coll ⟨src, c.idx⟩ c.entry.vc c.entry.cmp (if a.ack = true then .ack c.member a.moor a.gen else .decline c.member a.moor a.gen)) ∧
      t = { s with outbox := t.outbox, quay := { s.quay with moor := t.quay.moor }, coll := t.coll }) ∧
  (∀ (s : State) (src : QuayAddr) (mo g : BitVec 8) (c : BitVec 6), s.canonical →
    let e := s.moor mo.toNat
    let b : BitVec 63 := 1#63 <<< c.toNat
    let out := s.outbox ++ [.accept src (.ack s.self mo g c)]
    let counts := e.valid = true ∧ e.gen = g ∧ c.toNat < 63 ∧ e.pending.getLsbD c.toNat = true
    let told := s.quay.untold.filter fun u => !(u.2.moor == mo && u.2.gen == g && u.2.cidx == c)
    ∀ p ∈ [(Instr.acknowledgement src mo g c none, e.pulled ||| b), (.decline src mo g c none, e.pulled)],
      (s.quay.absent = true → ∃ t, exec p.1 s = .next t ∧ src ∈ t.quay.owePresent ∧ t.outbox = s.outbox ++ [.absent src (.ack s.self mo g c)] ∧
        t = { s with outbox := t.outbox, quay := { s.quay with owePresent := t.quay.owePresent } }) ∧
      (s.quay.absent = false → s.quayBound = false →
        exec p.1 s = .next { s with outbox := s.outbox ++ [.noRouteR src (.ack s.self mo g c)] }) ∧
      (s.quay.absent = false → s.quayBound = true → s.revokedDev (s.cmpOf e.ctx) src = true → exec p.1 s = .next s) ∧
      (s.quay.absent = false → s.quayBound = true → s.revokedDev (s.cmpOf e.ctx) src = false →
        (¬counts → exec p.1 s = .next { s with outbox := out, quay := { s.quay with untold := told } }) ∧
        (counts → e.pending &&& ~~~b ≠ 0 → ∃ t, exec p.1 s = .next t ∧ t.moor mo.toNat = { e with pending := e.pending &&& ~~~b, pulled := p.2 } ∧
          t.outbox = out ∧ t.quay.untold = told ∧ (∀ k < 256, k ≠ mo.toNat → t.moor k = s.moor k) ∧ t.gran = s.gran ∧ t.spad = s.spad) ∧
        (counts → e.pending &&& ~~~b = 0 → ∃ t, exec p.1 s = .next t ∧
          t.moor mo.toNat = { e with pending := 0, pulled := p.2, valid := false, expired := false, gen := e.gen + 1 } ∧ t.outbox = out ∧ t.quay.untold = told ∧
          (∀ k < 256, k ≠ mo.toNat → t.moor k = s.moor k) ∧
          (∀ j, t.gran.get j = if s.selfRank * 262144 + e.off.toNat ≤ j ∧ j ≤ s.selfRank * 262144 + e.off.toNat + e.size.toNat then .empty
            else s.gran.get j) ∧
          (∀ a, a < e.baddr + 4 ∨ e.baddr + 16 ≤ a → t.spad.get a = s.spad.get a) ∧ t.mem = s.mem ∧
          t.core = s.core))) ∧
  ∀ (s : State), let runs (m : Nat) := (s.moor m).valid = true ∧ (s.moor m).pending ≠ 0 ∧ (s.moor m).expired = false ∧ (s.moor m).pending &&& (s.moor m).absent = 0
    (s.now.toNat % 2500 ≠ 0 → exec .microsecondTick s = .next s ∧ ∀ m, exec (.mooringTimeout m) s = .next s) ∧
    (s.now.toNat % 2500 = 0 →
      (∀ m < 256, exec (.mooringTimeout m) s = if runs m ∧ (s.moor m).remain.toNat ≤ 1 then exec .microsecondTick s else .next s) ∧
      ∃ t, exec .microsecondTick s = .next t ∧ t.quay.issued = Vector.replicate 16 0 ∧
        t.core = s.core ∧ t.mem = s.mem ∧
        (s.core.phase = .halted → t.posted = s.posted) ∧
        ∀ m < 256, (¬runs m → t.moor m = s.moor m) ∧
          (runs m → 1 < (s.moor m).remain.toNat → t.moor m = { s.moor m with remain := (s.moor m).remain - 1 }) ∧
          (runs m → (s.moor m).remain.toNat ≤ 1 → s.core.phase ≠ .halted →
            t.moor m = { s.moor m with remain := 0, expired := true } ∧ .reclaim (BitVec.ofNat 8 m) (s.moor m).gen ∈ t.posted) ∧
          (runs m → (s.moor m).remain.toNat ≤ 1 → s.core.phase = .halted →
            t.moor m = { s.moor m with remain := 0, valid := false, expired := false, gen := (s.moor m).gen + 1 } ∧
            ∀ j, s.selfRank * 262144 + (s.moor m).off.toNat ≤ j → j ≤ s.selfRank * 262144 + (s.moor m).off.toNat + (s.moor m).size.toNat →
              t.gran.get j = .empty))

/-- R234 to R241, R243, R244, R251, R271, R419. The scheduler requests the best segment whose granules are EMPTY, within the limits of its class and of the
distance of its source: lowest in its priority with the class's offset, then a landing with nothing FULL or MOORED ahead, then the oldest notice. A request is answered by the state of its
mooring. Accepted data land granule by granule, each of which waits while it is MOORED and then becomes FULL, and the last segment frees the landing
and is acknowledged; DONE posts the landing again; the other answers, an exhausted retry and a missing route fail it, and the granules of a segment that is
not counted get back what they held; what is not accepted is dropped. A failure waits for the responses that came before it to land (R251). That a revoked source's answer fails the landing with reason 5 follows log entry 26;
the granules given back, DONE posting again and the removal of a failed landing follow log entry 27, REFUSED under the requester's compartment log entry 53,
and the repetitions that a pre-emption keeps log entry 88. -/
def Obligations.PullsRequestLandAndFail : Prop :=
  (∀ s : State,
    let bytes (n : Notice) (k : Nat) : Nat := min (16 * (n.size.toNat + 1)) (4096 * (k + 1)) - 4096 * k
    let inFlight (p : Notice → Bool) : Nat := (s.quay.inFlight.map fun x => ((s.land x.1).notice.map fun m => if p m then bytes m x.2 else 0).getD 0).sum
    let cand (b : Berth) : Prop := b.land < 64 ∧ ∃ n g, (s.land b.land).notice = some n ∧
      (s.land b.land).segs.find? (fun g => !g.requested) = some g ∧ b.seg = g.seg ∧ (s.land b.land).state = .pulling ∧
      (s.land b.land).removing = false ∧ (s.land b.land).failing = none ∧ (∀ x ∈ s.segGranules b.land b.seg, s.gran.get x = .empty) ∧
      let c := s.classOf n
      let pol := s.quay.policy[c.toNat]'(by omega)
      let share := (pol.extractLsb' 8 8).toNat
      let win := (pol.extractLsb' 16 16).toNat
      let ofClass := inFlight fun m => s.classOf m == c
      (share = 0 ∨ s.quay.issued[c.toNat]'(by omega) < 625 * share) ∧ (win = 0 ∨ ofClass = 0 ∨ ofClass + bytes n b.seg ≤ 256 * win) ∧
      (∀ d, s.distance n.src = some d →
        let near := inFlight fun m => s.distance m.src == some d
        near = 0 ∨ near + bytes n b.seg ≤ 64 * ((s.quay.pace[d % 8]'(Nat.mod_lt _ (by decide))).extractLsb' 0 24).toNat) ∧
      (b.prio : Int) = min (max ((n.prio.toNat : Int) + (pol.extractLsb' 0 6).toInt) 0) 63 ∧
      (b.dirty = 0 ∨ b.dirty = 1) ∧
      (b.dirty = 0 ↔ ∀ j, j ≤ (s.land b.land).size.toNat →
        (16 * j < 16 * (n.size.toNat + 1) ∧ ∃ h ∈ (s.land b.land).segs, h.seg = j / 256 ∧ h.landed = true) ∨
          s.gran.get (s.selfRank * 262144 + ((s.land b.land).off.toNat + j)) = .empty) ∧
      b.arrival = (s.quay.inbox.findIdx? fun i => sameNotice i.notice n).getD 0
    (s.bestBerth = none ↔ ∀ b, ¬cand b) ∧
    (∀ b, s.bestBerth = some b → cand b ∧ ∀ c, cand c → ¬[c.prio, c.dirty, c.arrival] < [b.prio, b.dirty, b.arrival]) ∧
    (s.quay.absent = true ∨ s.bestBerth = none → exec .segmentRequestIssue s = .next s) ∧
    ∀ b, s.quay.absent = false → s.bestBerth = some b → ∃ t n, exec .segmentRequestIssue s = .next t ∧ (s.land b.land).notice = some n ∧
      (s.land b.land).state = .pulling ∧ (∀ x ∈ s.segGranules b.land b.seg, s.gran.get x = .empty) ∧
      t.outbox = s.outbox ++ [.request n.src { src := s.self, moor := n.moor, gen := n.gen, cidx := n.cidx, seg := b.seg, land := BitVec.ofNat 6 b.land,
                                               lgen := (s.land b.land).lgen, cmp := s.cmpOf s.ctx, coll := none }] ∧
      t.quay.inFlight = s.quay.inFlight ++ [(b.land, b.seg)] ∧ (∀ g ∈ (t.land b.land).segs, g.seg = b.seg → g.requested = true) ∧
      t.spad = s.spad ∧ t.gran = s.gran) ∧
  (∀ (s : State) (r : SegRequest), r.coll = none →
    let e := s.moor r.moor.toNat
    let n := min (16 * (e.size.toNat + 1)) (4096 * (r.seg + 1)) - 4096 * r.seg
    let a := s.selfRank * 0x400000 + (16 * e.off.toNat + 4096 * r.seg)
    let replies (f : Frame) := exec (.segmentRequest r) s = .next { s with outbox := s.outbox ++ [f] }
    (s.quay.absent = true → replies (.absent r.src (.request r.land.toNat r.lgen r.seg))) ∧
    (s.quay.absent = false → s.quayBound = false → replies (.noRouteR r.src (.request r.land.toNat r.lgen r.seg))) ∧
    (s.quay.absent = false → s.quayBound = true →
      (r.cmp ≠ s.cmpOf (if e.valid = true then e.ctx else s.ctx) ∨ s.revokedDev r.cmp r.src = true → replies (.refusedR r.src r.land r.lgen r.seg r.cmp)) ∧
      (r.cmp = s.cmpOf (if e.valid = true then e.ctx else s.ctx) → s.revokedDev r.cmp r.src = false →
        (e.valid = false ∨ e.gen ≠ r.gen → replies (.staleR r.src r.land r.lgen r.seg)) ∧
        (e.valid = true → e.gen = r.gen →
          (e.pending.getLsbD r.cidx.toNat = false → replies (.doneR r.src r.land r.lgen r.seg)) ∧
          (r.cidx.toNat < 63 → e.pending.getLsbD r.cidx.toNat = true →
            ((∀ j < (n + 15) / 16, s.poisoned (.spad (a / 16 + j)) = false) →
              replies (.data r.src r.land r.lgen r.seg (s.cmpOf e.ctx) (s.spad.getN a n))) ∧
            ((∃ j < (n + 15) / 16, s.poisoned (.spad (a / 16 + j)) = true) → replies (.eccerrR r.src r.land r.lgen r.seg))))))) ∧
  (∀ (s : State) (l k : Nat) (g : BitVec 8), l < 64 → s.canonical →
    let e := s.land l
    let still := ∀ a ∈ s.quay.arrived, a.land = l → s.landing a = false
    let fails (ev : Instr) (why : BitVec 4) (declined : Bool) :=
      (¬still → ∃ t, exec ev s = .next t ∧ t.land l = { e with failing := some (why, declined) } ∧ (∀ j < 64, j ≠ l → t.land j = s.land j) ∧
        t = { s with quay := { s.quay with land := t.quay.land } }) ∧
      (still → ∃ t, exec ev s = .next t ∧
        (e.removing = false → (t.land l).state = .failed ∧ (t.land l).reason = why ∧ (t.land l).lgen = e.lgen ∧ (t.land l).notice = none) ∧
        (e.removing = true → t.land l = { LandEntry.free with lgen := e.lgen }) ∧
        (∀ j < 64, j ≠ l → t.land j = s.land j) ∧ (∀ p ∈ t.quay.inFlight, p.1 ≠ l) ∧
        (s.core.phase ≠ .halted → t.posted = s.posted ++ [.pullfail (BitVec.ofNat 6 l) e.lgen why]) ∧ (s.core.phase = .halted → t.posted = s.posted) ∧
        (∀ x, e.segs = [x] → x.counted = false → (x.undo.map fun u => u.1).Nodup → ∀ u ∈ x.undo, u.2.2.length = 16 → s.gran.get u.1 ≠ .moored →
          t.gran.get u.1 = u.2.1 ∧ ∀ j < 16, some (t.spad.get (16 * u.1 + j)) = u.2.2[j]?) ∧
        ∀ n, e.notice = some n → (∀ i ∈ t.quay.inbox, sameNotice i.notice n = false) ∧
          t.outbox = s.outbox ++ if declined then [.decline n.src s.self n.moor n.gen n.cidx] else [])
    let due := e.state = .pulling ∧ e.lgen = g ∧ e.failing = none ∧ ∃ x, e.seg k = some x ∧ x.requested = true ∧ x.answered = false
    let revoked := s.revokedDev (s.cmpOf s.quayCtx) e.src = true
    (∀ (cmp : BitVec 16) (bs : List Byte),
      (¬due → exec (.dataResponse l g k cmp bs) s = .next s ∧ exec (.doneResponse l g k) s = .next s ∧
        exec (.staleResponse l g k) s = .next s ∧ exec (.eccerrResponse l g k) s = .next s ∧ exec (.refused l g k) s = .next s) ∧
      (due → revoked → fails (.staleResponse l g k) 5 false ∧ fails (.eccerrResponse l g k) 5 false ∧ fails (.refused l g k) 5 false ∧
        fails (.doneResponse l g k) 5 false) ∧
      (due → ¬revoked → fails (.staleResponse l g k) 1 false ∧ fails (.eccerrResponse l g k) 6 true ∧ fails (.refused l g k) 5 false) ∧
      (due → cmp ≠ s.cmpOf s.quayCtx ∨ s.revokedDev cmp e.src = true → fails (.dataResponse l g k cmp bs) 5 false) ∧
      (due → cmp = s.cmpOf s.quayCtx → s.revokedDev cmp e.src = false → ∃ t, exec (.dataResponse l g k cmp bs) s = .next t ∧
        t.quay.arrived = s.quay.arrived ++ [⟨l, g, k, bs, 0⟩] ∧ (∀ x ∈ (t.land l).segs, x.seg = k → x.answered = true) ∧
        (∀ j < 64, j ≠ l → t.land j = s.land j) ∧
        t = { s with quay := { s.quay with arrived := t.quay.arrived, land := t.quay.land } }) ∧
      (due → ¬revoked → ∀ n, e.notice = some n → e.removing = false →
        (∀ i ∈ s.quay.inbox, i.notice.tag = e.tag → i.land = none → sameNotice i.notice n = true) →
          ∃ t, exec (.doneResponse l g k) s = .next t ∧ t.land l = { e with state := .posted, landed := 0, notice := none, segs := [], src := 0 } ∧
            (∀ i ∈ t.quay.inbox, sameNotice i.notice n = false) ∧ t.outbox = s.outbox ∧ ∀ p ∈ t.quay.inFlight, p.1 ≠ l)) ∧
    (due → fails (.noRoute (.request l g k)) 3 true) ∧
    (¬due → exec (.noRoute (.request l g k)) s = .next s ∧ exec (.absent (.request l g k)) s = .next s) ∧
    (due → ∃ t, exec (.absent (.request l g k)) s = .next t ∧ (t.land l).state = .pulling ∧
      ∀ x ∈ (t.land l).segs, x.seg = k → x.absentWait = true) ∧
    (∀ x n, e.seg k = some x → e.notice = some n → s.quay.absent = false → due →
      let again : Frame := .request n.src { src := s.self, moor := n.moor, gen := n.gen, cidx := n.cidx, seg := k, land := BitVec.ofNat 6 l, lgen := e.lgen,
                                            cmp := s.cmpOf s.ctx, coll := none }
      (x.absentWait = false → x.tries < 6 → ∃ t, exec (.requestRetryTimeout l k) s = .next t ∧ t.outbox = s.outbox ++ [again] ∧
        (t.land l).seg k = some { x with tries := x.tries + 1 }) ∧
      (x.absentWait = false → 6 ≤ x.tries → fails (.requestRetryTimeout l k) 2 true) ∧
      (x.absentWait = true → exec (.requestRetryTimeout l k) s = .next s ∧ ∃ t, exec (.absentWaitTimeout l k) s = .next t ∧
        t.outbox = s.outbox ++ [again] ∧ (t.land l).seg k = some { x with absentWait := false })) ∧
    (∀ x, e.seg k = some x → x.answered = true → exec (.requestRetryTimeout l k) s = .next s) ∧
    (s.quay.absent = false ∨ (l, k) ∉ s.quay.inFlight ∨ (∃ x, e.seg k = some x ∧ x.answered = true) → exec (.preemptRequestDrop l k) s = .next s) ∧
    (s.quay.absent = true → (l, k) ∈ s.quay.inFlight → (∀ x, e.seg k = some x → x.answered = false) → e.removing = false →
      ∃ t, exec (.preemptRequestDrop l k) s = .next t ∧
      (l, k) ∉ t.quay.inFlight ∧ ∀ x ∈ (t.land l).segs, x.seg = k → x.answered = false → x.requested = false)) ∧
  ∀ (s : State) (a : Arrived), a.land < 64 → a ∈ s.quay.arrived → s.canonical →
    let e := s.land a.land
    (s.landing a = true ↔ e.state = .pulling ∧ e.lgen = a.lgen ∧ ∃ x, e.seg a.seg = some x ∧ x.answered = true ∧ x.landed = false) ∧
    (∀ why declined, s.landing a = false → e.state = .pulling → e.failing = some (why, declined) →
      (∀ b ∈ s.quay.arrived, b ≠ a → b.land = a.land → s.landing b = false) →
      s.landNext a = some (State.failLanding { s with quay := { s.quay with arrived := s.quay.arrived.filter (· != a) } } a.land why declined)) ∧
    (s.landing a = false → e.failing = none ∨ e.state ≠ .pulling → ∃ t, s.landNext a = some t ∧ a ∉ t.quay.arrived ∧ t = { s with quay := { s.quay with arrived := t.quay.arrived } }) ∧
    ∀ x, s.landing a = true → (s.segGranules a.land a.seg)[a.next]? = some x →
      (s.gran.get x = .moored → s.landNext a = none) ∧
      (s.gran.get x ≠ .moored → ∃ t, s.landNext a = some t ∧ t.gran.get x = .full ∧ (∀ y, y ≠ x → t.gran.get y = s.gran.get y) ∧
        (a.next + 1 < (s.segGranules a.land a.seg).length →
          { a with next := a.next + 1 } ∈ t.quay.arrived ∧ t.outbox = s.outbox ∧ (∀ b, b / 16 ≠ x → t.spad.get b = s.spad.get b) ∧
          ∀ j < 16, ∀ v, a.bytes[16 * a.next + j]? = some v → t.spad.get (16 * x + j) = v) ∧
        (a.next + 1 = (s.segGranules a.land a.seg).length → ∀ g n, e.segs = [g] → g.counted = false → e.notice = some n → e.removing = false →
          t.land a.land = { LandEntry.free with lgen := e.lgen } ∧ t.outbox = s.outbox ++ [.ack n.src s.self n.moor n.gen n.cidx] ∧
          (∀ i ∈ t.quay.inbox, sameNotice i.notice n = false) ∧ a ∉ t.quay.arrived ∧
          ∀ j < 16, ∀ v, a.bytes[16 * a.next + j]? = some v → 16 * x + j < e.baddr + 4 ∨ e.baddr + 16 ≤ 16 * x + j → t.spad.get (16 * x + j) = v))

/-! ## Events of the collective engine -/

/-- R226, R229, R231, R234 to R238, R244, R401, R404, R405, R407, R410, R412 to R419, R421. Communicators are created in sound and free places of the die
that their own member lies on, and destroyed. The due communicator performs its ready unit: a wait, a copy, a note that moors a chunk and notifies its peer, or
a pull whose segments are requested, land and are acknowledged before the unit goes on with them; what fails a unit stops the collective. A collective
completes with its status record, or fails with its reason and COLLFAIL. A suspended context answers ABSENT, and its return announces itself to the
peers that were told so; the other frames to an engine are answered as a quay answers them. A notice that has had no answer but ACCEPT's goes on being sent,
after the collective has failed too. A failed pull's notice leaves the inbox, and R243's declines go to
its producer; nothing of another compartment or of a revoked device lands. The model's own readings here: the refusals at creation and the NO-ROUTE of an
absent communicator (log entry 48), a status record that cannot be written (log entry 47), the step events and the fields of frames (log entry 44), and
that a pull dropped by another failure sends no decline, nor a NOTE to a revoked device a mooring (log entry 83), that a notice of another compartment or of
a revoked device is dropped without an answer (log entry 26), and REFUSED under the requester's compartment (log entry 53). -/
def Obligations.CollectiveEngineEvents : Prop :=
  (∀ (s : State) (i : Nat) (e : CommEntry) (x : BitVec 4),
    let sound := i ≤ 63 ∧ e.rank.toNat ≤ e.sizem1.toNat ∧ e.pmap.toNat % 16 = 0 ∧ e.slen ≠ 0 ∧ e.sbase.toNat + e.slen.toNat ≤ 512 ∧ e.timeout ≠ 0
    let meets (o : Comm) := o.entry.sbase.toNat < e.sbase.toNat + e.slen.toNat ∧ e.sbase.toNat < o.entry.sbase.toNat + o.entry.slen.toNat
    (∀ why, s.peerAddr e e.rank.toNat = .error why → exec (.communicatorCreate i e) s = .next s) ∧
    (∀ own, s.peerAddr e e.rank.toNat = .ok own →
      let here := devOf own = devOf s.self ∧ dieOf own = s.selfDie
      let clash := ∃ o ∈ s.coll.comms, meets o ∨ (o.idx.toNat = i ∧ (o.entry.ctx = e.ctx ∨ o.member = own))
      (¬sound ∨ ¬here ∨ clash → exec (.communicatorCreate i e) s = .next s) ∧
      (sound → here → ¬clash → ∃ c, exec (.communicatorCreate i e) s = .next { s with coll := { s.coll with comms := s.coll.comms ++ [c] } } ∧
        c.idx.toNat = i ∧ c.entry = e ∧ c.member = own ∧ c.state = 0 ∧ c.seq = 0 ∧ c.inbox = [] ∧ c.acks = [] ∧ c.owing = [] ∧
        c.run = none)) ∧
    ∃ t, exec (.communicatorDestroy x i) s = .next t ∧ t = { s with coll := { s.coll with comms := t.coll.comms } } ∧
      ∀ c, c ∈ t.coll.comms ↔ c ∈ s.coll.comms ∧ ¬(c.entry.ctx = x ∧ c.idx.toNat = i)) ∧
  (∀ (s : State) (x : BitVec 4) (i : Nat),
    let units := [Instr.stepNote x i, .stepCopy x i, .stepWait x i]
    let pulls := [Instr.stepPull x i .start, .stepPrs x i .start]
    (s.unitDue x i = none → (∀ ev ∈ units, exec ev s = .next s) ∧ ∀ ev ∈ pulls, exec ev s = .next s) ∧
    (∀ c r e, s.unitDue x i = some (c, r, .error e) → (∀ ev ∈ units, exec ev s = .next (s.setComm (c.flag e 0))) ∧
      ∀ ev ∈ pulls, exec ev s = .next (s.setComm (c.flag e 0))) ∧
    (∀ c r, s.unitDue x i = some (c, r, .ok .wait) → r.moors = [] ∧ exec (.stepWait x i) s = .next (s.endUnit c r)) ∧
    ∀ c r u, s.unitDue x i = some (c, r, .ok (.data u)) →
      let wrote (n : Nat) : CollRun := { r with bytes := r.bytes + n, bitmap := (r.bitmap ++ [u.q * r.cpb + r.chunk]).eraseDups }
      (u.d.op = 4 → ∀ bs t, s.collRead c.entry.ctx (r.buf u.d.bs + u.off) u.len = .ok bs →
        s.collWrite c.entry.ctx (r.buf u.d.bd + u.off) bs = .ok t → exec (.stepCopy x i) s = .next (t.endUnit c (wrote bs.length))) ∧
      (u.d.op = 1 → s.revokedDev c.entry.cmp u.addr = true → exec (.stepNote x i) s = .next (s.endUnit c r)) ∧
      (u.d.op = 1 → s.revokedDev c.entry.cmp u.addr = false → ∃ k, r.freeSlot = some k ∧ ∃ t n c' r' m, exec (.stepNote x i) s = .next t ∧
        t.outbox = s.outbox ++ [.coll ⟨u.addr, c.idx⟩ c.entry.vc c.entry.cmp (.notice n (BitVec.ofNat 12 u.q))] ∧ n.tag = u.tag ∧ n.moor.toNat = k ∧
        n.src = c.member ∧ n.cmp = c.entry.cmp ∧ n.prio = c.entry.prio ∧ t.comm x i = some c' ∧ c'.run = some r' ∧ m ∈ r'.moors ∧ m.slot = n.moor ∧
        m.gen = n.gen ∧ m.addr = u.addr ∧ m.remain = c.entry.timeout.toNat ∧ m.accepted = false ∧ t.mem = s.mem ∧ t.spad = s.spad ∧ t.core = s.core) ∧
      ∀ q ∈ [((2 : BitVec 4), Instr.stepPull x i .start), (3, .stepPrs x i .start)], u.d.op = q.1 → ∃ n, c.awaited u = some n ∧
        (noticeBytes n ≠ u.wireLen r.fmt →
          let gone := ({ c with inbox := c.inbox.filter fun i => !sameNotice i.notice n, run := some { r with pull := none } } : Comm).flag .size
            (BitVec.ofNat 12 u.peer)
          exec q.2 s = .next { s.setComm { gone with acks := gone.acks ++ [⟨n.src, n.moor, n.gen, n.cidx, false⟩] } with
            outbox := s.outbox ++ [.coll ⟨n.src, c.idx⟩ c.entry.vc c.entry.cmp (.decline c.member n.moor n.gen)] }) ∧
        (noticeBytes n = u.wireLen r.fmt → ∃ t c' r' p, exec q.2 s = .next t ∧ t.comm x i = some c' ∧ c'.run = some r' ∧ r'.pull = some p ∧
          p.unit = u ∧ p.notice = n ∧ (∀ g ∈ p.segs, g.bytes = none ∧ g.tries = 0) ∧ t.mem = s.mem ∧ t.spad = s.spad ∧ t.core = s.core ∧
          t.outbox = s.outbox ++ (upTo (segCount (noticeBytes n))).map fun k => .coll ⟨n.src, c.idx⟩ c.entry.vc c.entry.cmp (.request
            { src := c.member, moor := n.moor, gen := n.gen, cidx := n.cidx, seg := k, land := 0, lgen := p.lgen, cmp := c.entry.cmp,
              coll := some ⟨n.src, c.idx⟩ }))) ∧
  (∀ (s : State) (x : BitVec 4) (i : Nat) (c : Comm) (r : CollRun) (p : CollPull), s.comm x i = some c → c.run = some r → r.failing = none →
    r.pull = some p → ∀ ev ∈ [((2 : BitVec 4), Instr.stepPull x i), (3, .stepPrs x i)], p.unit.d.op = ev.1 →
      let n := p.notice
      let u := p.unit
      let sends (t : State) (f : CollFrame) := t.outbox = s.outbox ++ [.coll ⟨n.src, c.idx⟩ c.entry.vc c.entry.cmp f]
      let stops (ans : PullAnswer) (why : CollReason) (declined : Bool) :=
        let gone := ({ c with inbox := c.inbox.filter fun i => !sameNotice i.notice n, run := some { r with pull := none } } : Comm).flag why
          (BitVec.ofNat 12 u.peer)
        exec (ev.2 ans) s = .next (if declined then { s.setComm { gone with acks := gone.acks ++ [⟨n.src, n.moor, n.gen, n.cidx, false⟩] } with
            outbox := s.outbox ++ [.coll ⟨n.src, c.idx⟩ c.entry.vc c.entry.cmp (.decline c.member n.moor n.gen)] }
          else s.setComm gone)
      let refuses (cmp : BitVec 16) := cmp ≠ c.entry.cmp ∨ s.revokedDev c.entry.cmp n.src = true
      let open_ (k : Nat) := ∃ g ∈ p.segs, g.seg = k ∧ g.bytes = none
      let sent (k : Nat) (f : CollSeg → CollSeg) (ans : PullAnswer) := ∃ t, exec (ev.2 ans) s = .next t ∧
        t = { s.setComm (c.setPull r (p.mapSeg k f)) with outbox := t.outbox } ∧
        sends t (.request { src := c.member, moor := n.moor, gen := n.gen, cidx := n.cidx, seg := k, land := 0, lgen := p.lgen, cmp := c.entry.cmp,
                            coll := some ⟨n.src, c.idx⟩ })
      exec (ev.2 .start) s = .next s ∧ stops .noRoute .noRoute true ∧ stops .refused .refused false ∧
      (∀ cmp, refuses cmp → stops (.stale cmp) .refused false ∧ stops (.ecc cmp) .refused false ∧ stops (.done cmp) .refused false) ∧
      (∀ cmp, ¬refuses cmp → stops (.stale cmp) .stale false ∧ stops (.ecc cmp) .ecc true ∧
        exec (ev.2 (.done cmp)) s = .next (s.setComm (c.endPull r p))) ∧
      (∀ k, open_ k → s.revokedDev c.entry.cmp n.src = true → stops (.absent k) .refused false) ∧
      (∀ k, open_ k → s.revokedDev c.entry.cmp n.src = false → exec (ev.2 (.absent k)) s = .next (s.setComm (c.setPull r (p.mapSeg k fun g => { g with absentWait := true })))) ∧
      (∀ k, (∃ g ∈ p.segs, g.seg = k ∧ g.bytes = none ∧ g.absentWait = false ∧ 6 ≤ g.tries) → stops (.retry k) .noRoute true) ∧
      (∀ k g, p.segs.filter (fun h => h.seg == k) = [g] → g.bytes = none →
        (g.absentWait = false → g.tries < 6 → sent k (fun g => { g with tries := g.tries + 1 }) (.retry k)) ∧
        (g.absentWait = true → exec (ev.2 (.retry k)) s = .next s ∧ sent k (fun g => { g with absentWait := false }) (.again k))) ∧
      ∀ (cmp : BitVec 16) (k : Nat) (bs : List Byte), let p' := p.mapSeg k fun g => { g with bytes := some bs, absentWait := false }
        (¬open_ k ∨ (¬refuses cmp ∧ bs.length ≠ segBytes (noticeBytes n) k) → exec (ev.2 (.data cmp k bs)) s = .next s) ∧
        (open_ k → refuses cmp → stops (.data cmp k bs) .refused false) ∧
        (open_ k → ¬refuses cmp → bs.length = segBytes (noticeBytes n) k →
          (p'.bytes = none → exec (ev.2 (.data cmp k bs)) s = .next (s.setComm (c.setPull r p'))) ∧
          ∀ whole, p'.bytes = some whole →
            let c' : Comm := { c.endPull r p with acks := c.acks ++ [⟨n.src, n.moor, n.gen, n.cidx, true⟩] }
            let v : State := { s.setComm c' with
              outbox := s.outbox ++ [.coll ⟨n.src, c.idx⟩ c.entry.vc c.entry.cmp (.ack c.member n.moor n.gen)] }
            let fmt (y : List Byte) := if u.wire = true then fromWire r.fmt c.entry.anchor.toInt y else y
            let wrote (k : Nat) : CollRun :=
              { r with pull := none, bytes := r.bytes + k, bitmap := (r.bitmap ++ [u.q * r.cpb + r.chunk]).eraseDups }
            (u.d.op = 2 → ∀ t, v.collWrite c.entry.ctx (r.buf u.d.bd + u.off) (fmt whole) = .ok t →
              exec (ev.2 (.data cmp k bs)) s = .next (t.endUnit c' (wrote (fmt whole).length))) ∧
            (u.d.op = 3 → u.d.wr = true → u.d.fw = false → c.entry.mode = false ∨ r.op ≠ 0 → ∀ own t,
              v.collRead c.entry.ctx (r.buf u.d.bs + u.off) u.len = .ok own →
              let y := fmt (if u.wire = true then addWire whole (toWire r.fmt c.entry.anchor.toInt own) else pickRaw r.fmt r.op whole own)
              v.collWrite c.entry.ctx (r.buf u.d.bd + u.off) y = .ok t → exec (ev.2 (.data cmp k bs)) s = .next (t.endUnit c' (wrote y.length))))) ∧
  (∀ (s : State) (x : BitVec 4) (i : Nat) (why : CollReason) (p : BitVec 12),
    (s.comm x i = none → exec (.collectiveCompletion x i) s = .next s ∧ exec (.collectiveFailure x i why p) s = .next s) ∧
    ∀ c, s.comm x i = some c →
      (c.run = none ∨ s.collAway c = true → exec (.collectiveCompletion x i) s = .next s ∧ exec (.collectiveFailure x i why p) s = .next s) ∧
      ∀ r₀, c.run = some r₀ → s.collAway c = false →
        let r := s.atStep c (r₀.cpb + 4) r₀
        let wr := s.collWrite x r.st.toNat (statusRecord { c with run := none, state := 2, reason := 0, step := BitVec.ofNat 12 r.stepAt, peer := 0 } r)
        (r.failing.isSome = true ∨ r.pull.isSome = true ∨ r.chunk < r.cpb ∨ r.moors ≠ [] → exec (.collectiveCompletion x i) s = .next s) ∧
        (r.failing = none → r.pull = none → r.cpb ≤ r.chunk → r.moors = [] →
          (∀ e, wr = .error e → exec (.collectiveCompletion x i) s = .next (s.setComm (c.flag e 0))) ∧
          ∀ u, wr = .ok u → ∃ t c', exec (.collectiveCompletion x i) s = .next t ∧ t.comm x i = some c' ∧ c'.run = none ∧ c'.state = 2 ∧ c'.reason = 0 ∧
            c'.seq = c.seq ∧ t.mem = u.mem ∧ t.posted = u.posted) ∧
        (r₀.failing = none → why ≠ CollReason.ecc → exec (.collectiveFailure x i why p) s = .next s) ∧
        ∀ e q, r₀.failing = some (e, q) ∨ (r₀.failing = none ∧ e = why ∧ q = p ∧ why = CollReason.ecc) →
          ∃ t c', exec (.collectiveFailure x i why p) s = .next t ∧ t.comm x i = some c' ∧ c'.run = none ∧ c'.state = 3 ∧ c'.reason = e.code ∧
            c'.peer = q ∧ (∀ m ∈ r₀.moors, m.accepted = false → m ∈ c'.owing) ∧ (∀ p, r₀.pull = some p → ∀ i ∈ c'.inbox, sameNotice i.notice p.notice = false) ∧ (e ≠ .abort → .collfail c.idx ∈ t.posted) ∧ (e = .abort → s.unit.reads = [] → t.posted = s.posted)) ∧
  (∀ (s : State) (x : BitVec 4),
    (∃ t, exec (.contextSuspend x) s = .next t ∧ t = { s with ctxs := t.ctxs } ∧
      ∀ j, t.context j = if j = x then { s.context x with suspended := true } else s.context j) ∧
    ∃ t, exec (.contextResume x) s = .next t ∧ t = { s with ctxs := t.ctxs, outbox := t.outbox, coll := { s.coll with comms := t.coll.comms } } ∧
      (∀ j, t.context j = if j = x then { s.context x with suspended := false } else s.context j) ∧ (∀ c ∈ t.coll.comms, c.entry.ctx = x → c.owe = []) ∧
      t.outbox = s.outbox ++ (s.coll.comms.filter fun c => c.entry.ctx == x).flatMap fun c =>
        c.owe.map fun a => .coll ⟨a, c.idx⟩ c.entry.vc c.entry.cmp (.present c.member)) ∧
  ∀ (s : State) (dest : CollEnd) (q : SegRequest) (src : QuayAddr) (mo g : BitVec 8) (k : BitVec 6) (n : Notice) (b : BitVec 12), q.coll = some dest →
    let aboutR : Answered := .collRequest ⟨q.src, dest.idx⟩ q.lgen q.seg
    let aboutA : Answered := .collAck ⟨src, dest.idx⟩ dest.member mo g
    let aboutN : Answered := .coll ⟨n.src, dest.idx⟩ n.moor n.gen
    let acks := [Instr.acknowledgement src mo g k (some dest), .decline src mo g k (some dest)]
    (s.commOf dest = none →
      exec (.segmentRequest q) s = .next { s with outbox := s.outbox ++ [.coll ⟨q.src, dest.idx⟩ 0 q.cmp (.noRoute aboutR)] } ∧
      exec (.notice ⟨n, some ⟨dest, b⟩⟩) s = .next { s with outbox := s.outbox ++ [.coll ⟨n.src, dest.idx⟩ 0 n.cmp (.noRoute aboutN)] } ∧
      (∀ ev ∈ acks, exec ev s = .next { s with outbox := s.outbox ++ [.coll ⟨src, dest.idx⟩ 0 0 (.noRoute aboutA)] }) ∧
      ∀ ev ∈ [Instr.accept (.coll dest mo g), .absent (.coll dest mo g), .noRoute (.coll dest mo g), .full mo.toNat (.coll dest g),
        .noticeResendTimeout mo.toNat ⟨k.toNat, some dest⟩, .ackResendTimeout ⟨k.toNat, some dest⟩], exec ev s = .next s) ∧
    ∀ c, s.commOf dest = some c →
      let frame (dst : QuayAddr) (f : CollFrame) : Frame := .coll ⟨dst, c.idx⟩ c.entry.vc c.entry.cmp f
      let replies (ev : Instr) (dst : QuayAddr) (f : CollFrame) := ∃ t, exec ev s = .next t ∧ t.outbox = s.outbox ++ [frame dst f] ∧
        t = { s with outbox := t.outbox, coll := { s.coll with comms := t.coll.comms } }
      let marks (ev : Instr) (f : CollMoor → CollMoor) :=
        let mark (m : CollMoor) : CollMoor := if m.slot = mo ∧ m.gen = g then f m else m
        exec ev s = .next (s.setComm { c.mapMoors mark with owing := (c.owing.map mark).filter fun m => !m.accepted })
      let owes (ev : Instr) (dst : QuayAddr) (about : Answered) := ∃ t, exec ev s = .next t ∧ t.outbox = s.outbox ++ [frame dst (.absent about)] ∧
        ∀ x i, s.comm x i = some c → ∃ c', t.comm x i = some c' ∧ dst ∈ c'.owe
      let holds (m : CollMoor) (sl gn : BitVec 8) := ∃ r, c.run = some r ∧ (r.moors.find? fun m => m.slot == sl && m.gen == gn) = some m
      marks (.accept (.coll dest mo g)) (fun m => { m with accepted := true, absent := false }) ∧
      marks (.absent (.coll dest mo g)) (fun m => { m with accepted := false, absent := true }) ∧
      marks (.full mo.toNat (.coll dest g)) (fun m => { m with accepted := false, absent := false }) ∧
      marks (.noRoute (.coll dest mo g)) (fun m => { m with accepted := false }) ∧
      exec (.accept (.collAck dest src mo g)) s =
        .next (s.setComm { c with acks := c.acks.filter fun a => !(a.dst == src && a.moor == mo && a.gen == g) }) ∧
      (∀ i, exec (.noticeResendTimeout mo.toNat ⟨i, some dest⟩) s = .next { s with outbox := s.outbox ++
        (((c.run.map fun r => r.moors).getD [] ++ c.owing).filter fun m => m.slot == mo && !m.accepted).map fun m => frame m.addr (.notice m.notice m.q) }) ∧
      (∀ j a, c.acks[j]? = some a → exec (.ackResendTimeout ⟨j, some dest⟩) s =
        .next { s with outbox := s.outbox ++ [frame a.dst (if a.ack = true then .ack c.member a.moor a.gen else .decline c.member a.moor a.gen)] }) ∧
      (s.collAway c = true → owes (.segmentRequest q) q.src aboutR ∧ owes (.notice ⟨n, some ⟨dest, b⟩⟩) n.src aboutN ∧ ∀ ev ∈ acks, owes ev src aboutA) ∧
      (s.collAway c = false →
        (q.cmp ≠ c.entry.cmp ∨ s.revokedDev c.entry.cmp q.src = true → exec (.segmentRequest q) s =
          .next { s with outbox := s.outbox ++ [.coll ⟨q.src, c.idx⟩ c.entry.vc q.cmp (.refused q)] }) ∧
        (q.cmp = c.entry.cmp → s.revokedDev c.entry.cmp q.src = false →
          ((∀ m, ¬holds m q.moor q.gen) → replies (.segmentRequest q) q.src (.stale q)) ∧
          ∀ r m bs, c.run = some r → holds m q.moor q.gen → s.moorData c r m = .ok bs →
            replies (.segmentRequest q) q.src (.data q ((bs.drop (4096 * q.seg)).take 4096))) ∧
        (s.revokedDev c.entry.cmp src = true → ∀ ev ∈ acks, exec ev s = .next s) ∧
        (s.revokedDev c.entry.cmp src = false → ∀ ev ∈ acks, replies ev src (.accept aboutA) ∧
          ∀ m x i, holds m mo g → s.comm x i = some c → ∃ t c' r', exec ev s = .next t ∧ t.comm x i = some c' ∧ c'.run = some r' ∧
            (∀ m' ∈ r'.moors, m'.slot ≠ mo) ∧ c'.gens[mo.toNat]? = some (g + 1)) ∧
        (n.cmp ≠ c.entry.cmp ∨ s.revokedDev c.entry.cmp n.src = true → exec (.notice ⟨n, some ⟨dest, b⟩⟩) s = .next s) ∧
        (n.cmp = c.entry.cmp → s.revokedDev c.entry.cmp n.src = false →
          let known := ∃ i ∈ c.inbox, sameNotice i.notice n = true
          (known → replies (.notice ⟨n, some ⟨dest, b⟩⟩) n.src (.accept aboutN)) ∧
          (¬known → 256 ≤ c.inbox.length → replies (.notice ⟨n, some ⟨dest, b⟩⟩) n.src (.full aboutN)) ∧
          (¬known → c.inbox.length < 256 → replies (.notice ⟨n, some ⟨dest, b⟩⟩) n.src (.accept aboutN) ∧
            ∀ x i, s.comm x i = some c → ∃ t c', exec (.notice ⟨n, some ⟨dest, b⟩⟩) s = .next t ∧ t.comm x i = some c' ∧
              c'.inbox = c.inbox ++ [⟨n, b⟩])))

/-! ## Reset, the step, and the encodings -/

/-- R19, R141, R228, R232, R240, R241, R257, R269, R317, R320, R333, R335, R398. What reset leaves. (sr.self is 0 by log entry 3, and unwritten memory reads 0
by log entry 2: the manual gives neither; nor does R269 give sr.now a value: the count starts at 0 by the model's choice, log entry 1.) A device reset from any
state leaves the same registers and tables and takes the device number from the fabric configuration; that it keeps what HBM holds, the count of task numbers and
the enrolled keys is the model's choice, log entry 49. -/
def Obligations.ResetLeavesTheStatedState : Prop :=
  let s := State.reset
  (s.hardwired ∧ s.canonical) ∧
  ((∀ r, s.x r = 0) ∧ (∀ b, s.b b = 0) ∧ s.core.c = 1 ∧ (∀ v : BitVec 5, s.core.v[v.toNat]'(by omega) = 0) ∧
    (∀ p : BitVec 3, s.p p = if p = 0 then BitVec.allOnes 256 else 0) ∧ (∀ k, s.token k = 0) ∧
    (∀ (i : Nat) (h : i < 16), (s.core.a[i]'h).anchor = 0 ∧ (s.core.a[i]'h).range = false ∧ (s.core.a[i]'h).elems = Vector.replicate 1024 ⟨0, 0⟩) ∧
    s.core.vfull = BitVec.allOnes 32 ∧ s.core.pfull = BitVec.allOnes 8 ∧ s.core.afull = BitVec.allOnes 16) ∧
  (∀ sel ∈ [(0x000 : BitVec 12), 0x001, 0x002, 0x003, 0x004, 0x005, 0x006, 0x007, 0x008, 0x010, 0x011, 0x012, 0x013, 0x014, 0x015, 0x016, 0x017, 0x020,
      0x021, 0x022, 0x023, 0x024, 0x025, 0x026, 0x030, 0x031, 0x032, 0x034, 0x040, 0x041], s.sysGet sel = 0) ∧ s.sysGet 0x033 = 7 ∧
  (∀ g, s.gran.get g = .empty) ∧ (∀ e : Eng, s.q.get e = Queue.empty) ∧ (∀ m < 256, (s.moor m).valid = false) ∧ (∀ l < 64, (s.land l).state = .free) ∧
  s.unit.nextNum = 1 ∧ s.unit.tasks = [] ∧ (∀ (d : Nat) (h : d < 4) (i : Nat) (hi : i < 256), (s.unit.dies[d]'h).pattern[i]'hi = BitVec.ofNat 8 (i % 8)) ∧
  (∀ (d : Nat) (h : d < 4), ∀ r ∈ (s.unit.dies[d]'h).binds.toList, r.valid = false) ∧
  ∀ u : State, ∃ t, exec .reset u = .next t ∧ t.core = { Core.reset with sys := { SysRegs.reset with self := t.core.sys.self } } ∧
    t.core.sys.self.extractLsb' 12 20 = u.core.sys.self.extractLsb' 12 20 ∧ t.core.sys.self.extractLsb' 0 12 = u.pkg.fabric.getD 0 ∧
    t.pkg.devNo = u.pkg.fabric ∧ t.q = s.q ∧ t.gran = s.gran ∧ t.quay = s.quay ∧ t.unit = { s.unit with nextNum := u.unit.nextNum } ∧ t.ctxs = s.ctxs ∧
    t.mem = u.mem ∧ t.spad = s.spad ∧ t.pkg.keys = u.pkg.keys ∧ (∀ p : BitVec 4, t.portUp p = false)

/-- R12, R13, R32, R34, R40, R53, R54. A strand's move runs the instruction that its word or pair decodes to, and takes the trap of a fetch that fails and of
a word that is rejected. By the model's choices the page TLB keeps every leaf of the fetch (log entry 6), the links that were open at the word are walked on (log
entry 63), the scalar accesses that the word depends on are performed first (log entry 76), a tick of the microsecond clock that the move crossed is applied after it (log
entries 1 and 5), and the occupancy vectors are brought up to date (log entry 69). -/
def Obligations.AStepRunsTheDecodedInstruction : Prop :=
  (∀ (s : State) (rest : List Move) (w : IWord), s.agenda = .strand :: rest → s.pkg.off = false → s.pkg.frozen = false → s.pkg.bootHeld = false →
    s.core.phase = .running → s.specPreempted = false → (∀ i n, s.core.wait ≠ .sc i n) → (∀ va, s.core.wait ≠ .page va) →
    let u : State := { s with agenda := rest }
    let at_ (wide : Bool) : State := (u.fetched wide).findLinks
    u.readyTrap u.fetch = none → u.engineDue u.fetch = false →
      (∀ c, u.fetch = .error c → step s = tickedOut u (.next (u.fetchTrap c))) ∧
      (u.fetchWord s.core.pc.toNat = .ok w → fEng w ≠ 7 →
        (∀ i, decode w 0 = .ok i → step s = tickedOut u (exec i ((at_ false).performFor i))) ∧
        (∀ c, decode w 0 = .error c → step s = tickedOut u (exec (.unassignedWord w 0 c.sub) (at_ false)))) ∧
      (u.fetchWord s.core.pc.toNat = .ok w → fEng w = 7 → ∀ w2, u.fetchWord (s.core.pc.toNat + 4) = .ok w2 →
        (∀ i, decode w w2 = .ok i → step s = tickedOut u (exec i ((at_ true).performFor i))) ∧
        (∀ c, decode w w2 = .error c → step s = tickedOut u (exec (.unassignedWord w w2 c.sub) (at_ true))))) ∧
  (∀ (s : State) (wide : Bool), s.fetched wide = { s with tlb := (s.fetched wide).tlb }) ∧
  (∀ s : State, ((∀ d ∈ s.core.linkDue, d.at_ ≠ s.core.pc.toNat) → s.findLinks = s) ∧
    s.findLinks = { s with core := { s.core with b := s.findLinks.core.b, linkDue := s.findLinks.core.linkDue } } ∧
    ∀ r : BitVec 2, (∀ d ∈ s.core.linkDue, d.reg ≠ r) → s.findLinks.b r = s.b r) ∧
  (∀ (s : State) (i : Instr), s.core.pending = [] → s.performFor i = s) ∧
  ∀ (s t : State), (t.now.toNat / 2500 = s.now.toNat / 2500 → tickedOut s (.next t) = .next t.occupied) ∧
    (t.now.toNat / 2500 = s.now.toNat / 2500 + 1 → tickedOut s (.next t) = .next t.microTick.occupied) ∧
    t.occupied = { t with unit := { t.unit with dies := t.occupied.unit.dies } } ∧
    ∀ (d : Nat) (h : d < 4), t.occupied.unit.dies[d]'h = { t.unit.dies[d]'h with occ := (t.occupied.unit.dies[d]'h).occ }

/-- R34 to R42, R49 to R52. Words written out from the encoding tables decode to the instructions that they stand for. -/
def Obligations.WrittenOutWordsDecode : Prop :=
  (∀ w2 : IWord,
    decode 0x00464280 w2 = .ok (.add 3 4 5) ∧ decode 0x05864282 w2 = .ok (.sel 3 4 5 2) ∧ decode 0x08C91010 w2 = .ok (.cmpi 1 2 4 16) ∧
    decode 0x12400000 w2 = .ok .safept ∧ decode 0x12800003 w2 = .ok (.fence 3) ∧ decode 0x1652D006 w2 = .ok (.flset 9 13 6) ∧
    decode 0x18064283 w2 = .ok (.amoAdd 3 4 5 true) ∧ decode 0x1A4A4008 w2 = .ok (.scst 5 4 8) ∧ decode 0x1C064000 w2 = .ok (.tspawn 3 4) ∧
    decode 0x1E064280 w2 = .ok (.cstart 3 4 5) ∧ decode 0x20422186 w2 = .ok (.vadd ⟨1, 2, 3, false, false, 0, .f32⟩) ∧
    decode 0x40400018 w2 = .ok (.mzero 3) ∧ decode 0x42010819 w2 = .ok (.mmaS8 1 2 0 3 1) ∧ decode 0x80C30408 w2 = .ok (.cpoutN 3 1 0 1) ∧
    decode 0xAE800018 w2 = .ok (.pbwait 3) ∧ decode 0xC8400000 w2 = .ok .kvfencePkg) ∧
  decode 0xE0440000 0x89ABCDEF = .ok (.limmL 4 0x89ABCDEF) ∧ decode 0xE4430000 0x3F800000 = .ok (.vsplatL 3 0x3F800000) ∧
  decode 0xEC070898 0x04001400 = .ok (.xForm (.cpinN 7 2 1 3 0) ⟨0, 0, 5, 0, 0⟩) ∧
  decode 0xF4041410 0x02000006 = .ok (.xForm (.note 4 5 2) ⟨0, 0, 0, 0, 6⟩) ∧
  decode 0xF8040000 0x0684A80B = .ok (.xForm (.kvexit 4) ⟨8, 9, 10, 0, 11⟩) ∧
  decode 0 0 = .error .op ∧ decode 0x12800006 0 = .error .code ∧ decode 0x00464281 0 = .error .reserved

/-- R34 to R53. Every well-formed instruction's words decode to it, with every operand as it was: a single word whatever follows it, a pair by both of its
words. -/
def Obligations.DecodingUndoesEncoding : Prop :=
  ∀ i : Instr, i.wellFormed = true → i.isWord = true →
    (∃ w, encode i = [w] ∧ ∀ w2, decode w w2 = .ok i) ∨ (∃ w w2, encode i = [w, w2] ∧ decode w w2 = .ok i)

/-- R34 to R53. Whatever words the decoder accepts are the words of the well-formed instruction that it gives: no bit of an accepted word is dropped. -/
def Obligations.AcceptedWordsAreTheInstructionsOwn : Prop :=
  ∀ (w w2 : IWord) (i : Instr), decode w w2 = .ok i →
    i.wellFormed = true ∧ i.isWord = true ∧ encode i = if fEng w = 7 then [w, w2] else [w]

/-! ## Invariants -/

/-- R19, R20. No move of any agent changes what x0, c0 and p0 read. -/
def Obligations.EveryStepKeepsTheConstantRegisters : Prop := ∀ s t : State, s.hardwired → step s = .next t → t.hardwired

/-- R138, R141, R324. Every move keeps global memory, the scratchpads and the granule states in canonical form: equal contents are equal data (the form is the
model's own, log entry 2). -/
def Obligations.EveryStepKeepsMemoryCanonical : Prop := ∀ s t : State, s.canonical → step s = .next t → t.canonical

/-! ## Engine commands at work -/

/-- R140, R142, R153, R181, R195, R219. A started command works through its current iteration piece by piece. Its checks come first: no bound above 65,536, no
iteration where a bound is 0, for a row read of the KV cache the policy that its context has then (R374), a trap with the iteration untouched, or its reads. With the last read, or where it reads nothing, it acts as the statements of its
engine say: it traps on what it has read, waits, faults on a piece that a failed boundary cuts off, or has its pieces to write. A read takes a granule's or an aligned global piece's bytes, or waits; a
write merges the bytes of its mask, or waits; the last write counts the iteration and the command goes on to the next one, or leaves its queue. The pieces to write
hold every byte of the values that the iteration writes, where its parts do not overlap, and no other byte. -/
def Obligations.EngineVisitsMoveTheirBytes : Prop :=
  (∀ (s : State) (e : Eng) (r : Running), (s.q.get e).run = some r → (s.q.get e).hrun = none → (s.q.get e).hentry = none → (s.q.get e).stuck = false →
    tokenWord r.entry.instr = none → s.canonical →
    let goesTo (r' : Running) (t : State) := s.engineStep e = some t ∧ (t.q.get e).run = some r' ∧ ∀ g : Eng, g ≠ e → t.q.get g = s.q.get g
    (r.stage = .fresh → r.ahead = [] → s.sources e false r.entry.instr = .go → startBad e r s = none →
      (∀ k b, r.bounds[k]? = some b → 65536 < b → (∀ j < k, ∀ x, r.bounds[j]? = some x → x ≤ 65536) →
        s.engineStep e = some (s.engineFault e false r (.bound k))) ∧
      ((∀ b ∈ r.bounds, b ≤ 65536) →
        (0 ∈ r.bounds → s.engineStep e = some ((s.countSlot e r 0).completeRun e false r)) ∧
        (0 ∉ r.bounds → readsKv r = true → r.policy = none → ∃ t, goesTo { r with policy := some (rowPolicy r s) } t ∧ t = { s with q := t.q }) ∧
        (0 ∉ r.bounds → readsKv r = false ∨ r.policy ≠ none →
          (∀ c, planOf e r s = .trap c → s.engineStep e = some (s.engineFault e false r c)) ∧
          (planOf e r s = .wait → s.engineStep e = none) ∧
          ∀ reads src dst aux u, planOf e r s = .go reads src dst aux u → u.q = s.q → u.cutPart dst = none → reads ≠ [] →
            ∃ t, goesTo { r with stage := .reading, reads := reads, src := src, dst := dst, aux := aux, got := [] } t ∧ sameMemory u t) ∧
          ∀ src dst aux u, planOf e r s = .go [] src dst aux u → u.cutPart dst = none →
            let r' : Running := { r with stage := .reading, reads := [], src := src, dst := dst, aux := aux, got := [] }
            s.engineStep e = some ((u.actRun e false r').getD (u.putRun e false (some r'))))) ∧
    (r.stage = .reading → r.reads = [] → s.engineStep e = s.actRun e false r ∧
      (∀ c, contentOf e r s = .trap c → s.engineStep e = some (s.engineFault e false r c)) ∧ (contentOf e r s = .wait → s.engineStep e = none) ∧
      (contentOf e r s = .go →
        let a := actOf e r s
        let r' : Running := { r with stage := .writing, writes := a.writes, count := a.count }
        (∀ before w after, a.writes = before ++ w :: after → (∀ v ∈ before, s.cutOff v.loc = false) → s.cutOff w.loc = true →
          s.engineStep e = some (s.engineFault e false r' (.ecc w.addr))) ∧
        ((∀ w ∈ a.writes, s.cutOff w.loc = false) →
          (a.writes ≠ [] → s.engineStep e = some (a.state.putRun e false (some r'))) ∧
          (a.writes = [] → s.engineStep e = some ((a.state.endIteration e false r').getD (a.state.putRun e false (some r'))))))) ∧
    (∀ v rest, r.stage = .reading → r.reads = v :: rest → s.poisoned v.loc = false → r.eccAt = none →
      let took (bs : BitVec 128) : Running := { r with reads := rest, got := r.got ++ [(v.loc, bs)] }
      (∀ g, v.loc = .spad g → v.qual = .loadW ∨ v.qual = .loadC ∨ v.qual = .loadN →
        (v.qual ≠ .loadN → s.gran.get g = .empty → s.engineStep e = none) ∧
        (v.qual = .loadN ∨ s.gran.get g ≠ .empty → ∃ t, goesTo (took (BitVec.ofNat 128 (leNat (s.spad.getN (16 * g) 16)))) t ∧
          t.gran.get g = (if v.qual = .loadC ∧ s.gran.get g = .full then .empty else s.gran.get g) ∧ (∀ h, h ≠ g → t.gran.get h = s.gran.get h) ∧
          t = { s with q := t.q, gran := t.gran, recent := t.recent })) ∧
      (∀ p, v.loc = .glob p → s.specNow = false → s.unit.versions = [] →
        ∃ t, goesTo (took (BitVec.ofNat 128 (leNat (s.mem.getN (16 * p) 16)))) t ∧ t = { s with q := t.q, recent := t.recent })) ∧
    (∀ v rest, r.stage = .writing → r.writes = v :: rest →
      let data : BitVec 128 := match r.entry.instr with | .mstat _ _ => s.now ++ v.data.extractLsb' 0 64 | _ => v.data
      let merged (old new : Memory) (k : Nat) := (∀ i < 16, new.get (16 * k + i) = if v.mask.getLsbD i then data.extractLsb' (8 * i) 8 else old.get (16 * k + i)) ∧
        ∀ a, ¬(16 * k ≤ a ∧ a < 16 * k + 16) → new.get a = old.get a
      (∀ g, v.loc = .spad g → v.qual = .storeW ∨ v.qual = .storeN ∨ v.qual = .engine ∨ v.qual = .moor →
        let free := if v.qual = .storeW then s.gran.get g = .empty else if v.qual = .moor then s.gran.get g = .full else s.gran.get g ≠ .moored
        (¬free → s.engineStep e = none) ∧
        (free → rest ≠ [] → ∃ t, goesTo { r with writes := rest } t ∧ merged s.spad t.spad g ∧
          t.gran.get g = (if v.qual = .moor then .moored else .full) ∧ (∀ h, h ≠ g → t.gran.get h = s.gran.get h) ∧
          t = { s with
            q := t.q, gran := t.gran, spad := t.spad, poison := t.poison, recent := t.recent }) ∧
        (free → rest = [] → e ≠ .prt → r.eccAt = none → ∃ u t, s.engineWrite (r.agent e) r.iter { v with data := data } = some u ∧ s.engineStep e = some t ∧
          merged s.spad u.spad g ∧ t.mem = s.mem ∧ t.core.x = s.core.x ∧
          t.spad = (match countedSlot e r.entry.instr with | some b => (u.countAt (s.slotAddr r.bbase b) r.count).spad | none => u.spad) ∧
          (iterCount r.bounds ≤ r.iter + 1 → (t.q.get e).run = none ∧ t.core.mtxDone = s.core.mtxDone + if e = .mtx then 1 else 0) ∧
          (r.iter + 1 < iterCount r.bounds → ∃ r', (t.q.get e).run = some r' ∧ r'.entry = r.entry ∧ r'.iter = r.iter + 1 ∧ r'.stage = .fresh))) ∧
      ∀ p, v.loc = .glob p → s.specNow = false → s.unit.reads = [] → s.pkg.refusing = [] → rest ≠ [] →
        ∃ t, goesTo { r with writes := rest } t ∧ merged s.mem t.mem p ∧ t.spad = s.spad ∧ t.gran = s.gran ∧ t.core.x = s.core.x ∧ t.core.v = s.core.v ∧
          t.core.tk = s.core.tk ∧ t.unit = s.unit)) ∧
  ∀ (q : Qual) (ps : List (Part × Nat)),
    let at_ (p : Part × Nat) (loc : Loc) (key off n : Nat) := p.1 = .piece loc key off n ∧ off + n ≤ 16
    (∀ p ∈ ps, ∃ loc key off n, at_ p loc key off n) →
    (∀ (i j : Nat) (p p' : Part × Nat) (loc loc' : Loc) (key off off' n n' : Nat), ps[i]? = some p → ps[j]? = some p' → i ≠ j → at_ p loc key off n → at_ p' loc' key off' n' →
      loc = loc' ∧ (off + n ≤ off' ∨ off' + n' ≤ off)) →
    (∀ p ∈ ps, ∀ loc key off n, at_ p loc key off n → ∃ v ∈ writeVisits q ps, v.loc = loc ∧ v.key = key ∧ v.qual = q ∧
      ∀ i < n, v.mask.getLsbD (off + i) = true ∧ v.data.extractLsb' (8 * (off + i)) 8 = BitVec.ofNat 8 (p.2 / 256 ^ i)) ∧
    ∀ v ∈ writeVisits q ps, ∀ i < 16, v.mask.getLsbD i = true → ∃ p ∈ ps, ∃ off n, at_ p v.loc v.key off n ∧ off ≤ i ∧ i < off + n

/-- R122, R129, R133, R135, R148, R151, R193, R196, R202 to R208, R213 to R218. What an iteration of a copy or of the matrix engine does once its pieces are read. A moved
row is its source's values in order, the planes of a group read at their coordinates after the source's wrap, a fill the scalar operand, with the
qualifiers of the form and the bytes counted; the checks of a moved row give element k of both operands at its coordinate. CPPLANE and MPACK write the planes
of their bytes and CPDEPL the bytes of its planes, with the headers or pairs of the rule; CPWB counts its row, and CPINV takes its lines from the caches. MMA and MGO add to
every element of their tile the products of a row and a column, on the tile's grid, to a cleared tile where .zf prepares it; MRD writes the rounded elements
of its tile and MRDV puts a row group of them into vectors, both setting RANGE where one is out of range; MSTA and MLDA write and read a tile's image, MSTAT its record, and
MANCH puts a tile on a new grid. That SR takes the coordinate before the descriptor's wrap is log entry 22, and that a moved row's planes are wrapped like any other and that the bytes
written twice count twice are log entries 78 and 87: the model's choices. -/
def Obligations.CopyAndMatrixCommandsAct : Prop :=
  (∀ (d1 d2 : BitVec 6) (n : BitVec 3) (b : BitVec 4) (q : BitVec 3),
    ∀ p ∈ [(Instr.cpinW d1 d2 n b q, CopyKind.move, Qual.loadW, Qual.storeW), (.cpinN d1 d2 n b q, .move, .loadW, .storeN),
        (.cpinWNt d1 d2 n b q, .move, .loadW, .storeW), (.cpinNNt d1 d2 n b q, .move, .loadW, .storeN),
        (.cpgathW d1 d2 n b q, .move, .loadW, .storeW), (.cpgathN d1 d2 n b q, .move, .loadW, .storeN),
        (.cpfillW d1 n b, .fill, .loadW, .storeW), (.cpfillN d1 n b, .fill, .loadW, .storeN),
        (.cpmovW d1 d2 n b, .move, .loadC, .storeW), (.cpmovN d1 d2 n b, .move, .loadC, .storeN),
        (.cpoutW d1 d2 n b, .move, .loadW, .engine), (.cpoutC d1 d2 n b, .move, .loadC, .engine), (.cpoutN d1 d2 n b, .move, .loadN, .engine),
        (.cpscatW d1 d2 n b, .move, .loadW, .engine), (.cpscatC d1 d2 n b, .move, .loadC, .engine), (.cpscatN d1 d2 n b, .move, .loadN, .engine)],
      ∃ op, copyOf p.1 = some op ∧ op.kind = p.2.1 ∧ op.sq = p.2.2.1 ∧ op.dq = p.2.2.2 ∧ op.slot = some b) ∧
  (∀ (s : State) (e : Eng) (r : Running) (op : CopyOp), e = .ldq ∨ e = .stq → copyOf r.entry.instr = some op →
    let n := (r.d1.extractLsb' 64 16).toNat + 1
    (op.kind = .move → op.index = none → descFmt r.d1 < 8 → descFmt r.d2 < 8 → descAffine r.d1 = false → descAffine r.d2 = false → descSpace r.d2 ≠ 3 →
      ∀ m reads src dst aux t, copyPlan m r s = .go reads src dst aux t → src.length = n ∧ dst.length = n ∧ sameMemory s t ∧
        ∀ k < n, (∃ p, dst[k]? = some p ∧ elemPart (r.view s) (copyBy r op) r.d1 (along (r.coords 0) k) = .ok p) ∧
          ∃ p, src[k]? = some p ∧ elemPart (r.view s) (copyBy r op) r.d2 (along (r.coords 1) k) = .ok p) ∧
    ((s.q.get e).run = some r → (s.q.get e).hrun = none → (s.q.get e).stuck = false → r.stage = .reading → r.reads = [] →
      let inPlanes (k : Nat) : Prop := isPlane (descFmt r.d2) = true ∧ k < (n + 31) / 32 * planes r.d2
      let moved (w v k : Nat) : Prop := (¬inPlanes k → v = w) ∧
        (inPlanes k → v < 2 ^ 32 ∧ ∀ e < 32, v.testBit e = w.testBit (if descWrap r.d2 0 = 0 then e else e % 2 ^ descWrap r.d2 0))
      ∀ vals : List Nat, (op.kind = .fill → vals = List.replicate n r.entry.x4.toNat) →
      (op.kind = .move → vals.length = r.src.length ∧ ∀ (k : Nat) (p : Part) (v : Nat), r.src[k]? = some p → vals[k]? = some v → moved (partVal r.got p) v k) →
      let ws := writeVisits op.dq (List.zip r.dst vals)
      op.kind = .move ∨ op.kind = .fill → ws ≠ [] → (∀ v ∈ ws, s.cutOff v.loc = false) →
        ∃ t, s.engineStep e = some t ∧ (t.q.get e).run = some { r with stage := .writing, writes := ws, count := (r.dst.map Part.size).sum } ∧
          t = { s with q := t.q })) ∧
  (∀ (s : State) (r : Running) (d1 d2 : BitVec 6) (n : BitVec 3) (b : BitVec 4),
    let i := r.entry.instr
    let m := descExt r.d1 0 + 1
    let src (k : Nat) : Nat := ((r.src[k]?).map (partVal r.got)).getD 0
    let sizes : Nat := (r.dst.map Part.size).sum
    let heads (pb : Bool) (from_ to_ : TDesc) (after count : Nat) (vals : List Nat) : Prop :=
      if pb = true ∨ (descAffine to_ = true ∧ descAffine from_ = true) then vals = (r.src.drop after).map (partVal r.got)
      else if descAffine to_ = true then vals = List.replicate count 0x0078 else vals = []
    let packed (plane byte : TDesc) (bits p : Nat) : Bool :=
      let w := planeWidth (descFmt plane)
      let f := descFmt byte
      if isPB (descFmt plane) then
        let ms := if f = 8 then 6 else if f = 9 then 14 else 22
        let sign := (!descNosign plane).toNat
        let lead := sign + (!descNosel plane).toNat
        if p < sign then bits.testBit (if f = 5 then 31 else ms + 1)
        else if p < lead then bits.testBit (if f = 5 then 30 else ms)
        else (min (roundInt 0 0 false (bits % 2 ^ ms) (2 ^ (ms - w))).toNat (2 ^ w - 1)).testBit (w - 1 - (p - lead))
      else
        let v := intVal (fmtType f) bits
        let lo : Int := if descNosign plane then 0 else -(2 ^ (w - 1))
        let hi : Int := if descNosign plane then 2 ^ w - 1 else 2 ^ (w - 1) - 1
        ((max lo (min hi v)) % 2 ^ w).toNat.testBit (w - 1 - p)
    let packs (plane byte : TDesc) (len : Nat) (vals : List Nat) : Prop :=
      let groups := (len + 31) / 32
      (vals.take (groups * planes plane)).length = groups * planes plane ∧
      (∀ k < groups, ∀ p < planes plane, ∃ v, vals[k * planes plane + p]? = some v ∧ v < 2 ^ 32 ∧
        ∀ e < 32, 32 * k + e < len → v.testBit e = packed plane byte (src (32 * k + e)) p) ∧
      heads (isPB (descFmt plane)) byte plane len groups (vals.drop (groups * planes plane))
    let unpacked (plane byte : TDesc) (word : Nat → Nat) (e : Nat) : Nat :=
      let w := planeWidth (descFmt plane)
      let f := descFmt byte
      let lead := if isPB (descFmt plane) then (!descNosign plane).toNat + (!descNosel plane).toNat else 0
      let mag := (List.range w).foldl (fun acc p => 2 * acc + ((word (lead + p)).testBit e).toNat) 0
      if isPB (descFmt plane) then
        let ms := if f = 8 then 6 else if f = 9 then 14 else 22
        let s := !descNosign plane && (word 0).testBit e
        let t := !descNosel plane && (word (!descNosign plane).toNat).testBit e
        (if s then 2 ^ (if f = 5 then 31 else ms + 1) else 0) + (if t then 2 ^ (if f = 5 then 30 else ms) else 0) + mag * 2 ^ (ms - w)
      else
        let v : Int := if descNosign plane = false ∧ 2 ^ (w - 1) ≤ mag then (mag : Int) - 2 ^ w else mag
        let ty := fmtType f
        ((max (intMin ty) (min (intMax ty) v)) % 2 ^ ty.bits).toNat
    (∀ e : Eng, e = .ldq ∨ e = .stq → ∀ op, copyOf i = some op →
      (op.kind = .toPlane → r.src.length ≥ m → ∃ vals, actOf e r s = ⟨s, writeVisits op.dq (List.zip r.dst vals), sizes⟩ ∧ packs r.d1 r.d2 m vals) ∧
      (op.kind = .fromPlane →
        let groups := (m + 31) / 32
        groups * planes r.d2 ≤ r.src.length → ∃ vals, actOf e r s = ⟨s, writeVisits op.dq (List.zip r.dst vals), sizes⟩ ∧
          (∀ k < m, vals[k]? = some (unpacked r.d2 r.d1 (fun p => src (k / 32 * planes r.d2 + p))
            (if descWrap r.d2 0 = 0 then k % 32 else k % 32 % 2 ^ descWrap r.d2 0))) ∧
          heads (isPB (descFmt r.d2)) r.d2 r.d1 (groups * planes r.d2) groups (vals.drop m))) ∧
    (∀ p ∈ [(Instr.mpackPi d1 d2 n b, false), (.mpackPb d1 d2 n b, true)], i = p.1 → isPB (descFmt r.d1) = p.2 → 32 ≤ r.src.length →
      (p.2 = true ∨ (descAffine r.d1 = true ∧ descAffine r.d2 = true) → r.src.length = 33) →
      ∃ vals, actOf .mtx r s = ⟨s, writeVisits .engine (List.zip r.dst vals), sizes⟩ ∧ packs r.d1 r.d2 32 vals) ∧
    (∀ p ∈ [(Instr.cpwb d1 n b, false), (.cpinv d1 n b, true)], i = p.1 →
      let bytes := if isPlane (descFmt r.d1) then m / 32 * 4 * planes r.d1 else m * fmtSize (descFmt r.d1)
      let line (l : Nat) : Prop := p.2 = true ∧ ∃ k key off size, Part.piece (.glob k) key off size ∈ r.dst ∧ k / 4 = l
      ∃ t, actOf .stq r s = ⟨t, [], bytes⟩ ∧ t = { s with core := { s.core with icache := t.core.icache, monitor := t.core.monitor } } ∧
        (∀ w, w ∈ t.core.icache ↔ w ∈ s.core.icache ∧ ¬line (w.1 / 64)) ∧ ∀ l, t.core.monitor = some l ↔ s.core.monitor = some l ∧ ¬line l) ∧
    (i = .cppre d1 n → actOf .ldq r s = ⟨s, [], 0⟩)) ∧
  (∀ (g : Int) (x : AccElem) (neg : Bool) (n d : Nat), 0 < d →
    (xadd g x (.fin neg n d)).nf = x.nf ∧ (xadd g x (.fin neg n d)).g = x.g + BitVec.ofInt 136 ⌊(if neg then -(n : ℚ) else n) / d / (2 : ℚ) ^ g⌋) ∧
  (∀ (s : State) (r : Running) (m : Mma) (k : Nat), s.q.mtx.run = some r → s.q.mtx.hrun = none → s.q.mtx.stuck = false → r.stage = .reading →
    r.reads = [] → r.eccAt = none → mmaOf r.entry.instr = some m → r.tile m.t = .ok k →
    let base : Tile := if m.zf = true ∧ r.firstNaming m.t = true
      then ⟨Vector.replicate 1024 ⟨0, 0⟩, BitVec.ofInt 16 (max (-32768) (min 32767 (descAnchor r.d1 + descAnchor r.d2))), false⟩ else s.tile k
    let row (i : Nat) := ((mmaValues r m).1[i]?).getD []
    let col (j : Nat) := (mmaValues r m).2.map fun y => (y[j]?).getD FV.zero
    ∃ t, s.engineStep .mtx = some t ∧ (t.tile k).anchor = base.anchor ∧ (t.tile k).range = base.range ∧
      (∀ i j, i < 32 → j < 32 → (t.tile k).elem (32 * i + j) =
        (List.zip (row i) (col j)).foldl (fun x p => xadd base.anchor.toInt x (p.1.mul p.2)) (base.elem (32 * i + j))) ∧
      (∀ j < 16, j ≠ k → t.tile j = s.tile j) ∧ sameMemory s t ∧ t.core.x = s.core.x ∧ t.core.v = s.core.v ∧ t.core.p = s.core.p ∧
      (iterCount r.bounds ≤ r.iter + 1 → t.q.mtx.run = none ∧ t.core.mtxDone = s.core.mtxDone + 1) ∧
      (r.iter + 1 < iterCount r.bounds → ∃ r', t.q.mtx.run = some r' ∧ r'.entry = r.entry ∧ r'.iter = r.iter + 1 ∧ r'.stage = .fresh)) ∧
  (∀ (s : State) (r : Running) (m : Mrd) (k : Nat), s.q.mtx.run = some r → s.q.mtx.hrun = none → s.q.mtx.stuck = false → r.stage = .reading →
    r.reads = [] → mrdOf r.entry.instr = some m → m.fmt ≠ 8 → r.tile m.t = .ok k →
    let read (i j : Nat) := readElem (fmtType m.fmt) m.mode.toNat
      (if m.mode.toNat = 4 then srBits r.seed 0 (srCoord (along1 (along (r.coords 0) j) (i : Int))) else 0) (s.tile k).anchor.toInt ((s.tile k).elem (32 * i + j))
    let vals := (List.range 1024).map fun x => (read (x / 32) (x % 32)).1
    let ws := writeVisits .engine (List.zip r.dst vals)
    ws ≠ [] → (∀ v ∈ ws, s.cutOff v.loc = false) →
      ∃ t, s.engineStep .mtx = some t ∧ t.q.mtx.run = some { r with stage := .writing, writes := ws, count := 0 } ∧
        (t.tile k).elems = (s.tile k).elems ∧ (t.tile k).anchor = (s.tile k).anchor ∧
        ((t.tile k).range = true ↔ (s.tile k).range = true ∨ ∃ i < 32, ∃ j < 32, (read i j).2 = true) ∧
        (∀ j < 16, j ≠ k → t.tile j = s.tile j) ∧ sameMemory s t ∧ t.core.x = s.core.x) ∧
  ∀ (s : State) (r : Running) (d1 : BitVec 6) (n : BitVec 3) (tf : BitVec 4) (v : BitVec 5) (g q : BitVec 3) (imm : BitVec 12) (xn : BitVec 5),
    let i := r.entry.instr
    let tilesBut (t : State) (k : Nat) : Prop := (∀ j < 16, j ≠ k → t.tile j = s.tile j) ∧
      t = { s with accPoison := t.accPoison, core := { s.core with a := t.core.a } }
    (∀ p ∈ [(Instr.mrdvF32 v g tf q, ElemType.f32), (.mrdvBf16 v g tf q, .bf16), (.mrdvS32 v g tf q, .s32)], i = p.1 →
      let tile := s.tile tf.toNat
      let read (e : Nat) : Nat × Bool :=
        readElem p.2 q.toNat (if q.toNat = 4 then srBits r.seed 1 (128 * g.toNat + e) else 0) tile.anchor.toInt (tile.elem (128 * g.toNat + e))
      let el (t : State) (e : Nat) : Nat := if p.2 = .bf16 then ((t.v v).extractLsb' (16 * e) 16).toNat
        else if e < 64 then ((t.v v).extractLsb' (32 * e) 32).toNat else ((t.v (v + 1)).extractLsb' (32 * (e - 64)) 32).toNat
      ∃ t, actOf .mtx r s = ⟨t, [], 0⟩ ∧ (∀ e < 128, el t e = (read e).1) ∧ (∀ u, u ≠ v → (p.2 = .bf16 ∨ u ≠ v + 1) → t.v u = s.v u) ∧
        (t.tile tf.toNat).elems = tile.elems ∧ (t.tile tf.toNat).anchor = tile.anchor ∧
        ((t.tile tf.toNat).range = true ↔ tile.range = true ∨ ∃ e < 128, (read e).2 = true) ∧ (∀ j < 16, j ≠ tf.toNat → t.tile j = s.tile j) ∧
        t = { s with core := { s.core with a := t.core.a, v := t.core.v } }) ∧
    (∀ k, r.tile tf = .ok k →
      (i = .msta d1 n tf →
        let tile := s.tile k
        let gs (e : AccElem) : Int := max (-2 ^ 124) (min (2 ^ 124 - 1) e.g.toInt)
        let extra (j : Nat) : Bool := if j < 16 then tile.anchor.getLsbD j else j == 16 && (tile.range || tile.elems.any fun e => e.nf == 0 && gs e != e.g.toInt)
        actOf .mtx r s = ⟨s, writeVisits .engine (List.zip r.dst ((List.range 1024).map fun j =>
          (if (tile.elem j).nf = 0 then (gs (tile.elem j) % 2 ^ 125).toNat else (tile.elem j).nf.toNat * 2 ^ 126) + if extra j then 2 ^ 125 else 0)), 0⟩) ∧
      (i = .mlda d1 n tf → r.src.length = 1024 →
        let word (j : Nat) : Nat := ((r.src[j]?).map (partVal r.got)).getD 0
        (∀ j < 1024, word j < 2 ^ 128) → ∃ t, actOf .mtx r s = ⟨t, [], 0⟩ ∧
          (∀ j < 1024, (t.tile k).elem j = ⟨BitVec.ofNat 2 (word j / 2 ^ 126), BitVec.ofInt 136 (BitVec.ofNat 125 (word j)).toInt⟩) ∧
          (∀ j < 16, (t.tile k).anchor.getLsbD j = (word j).testBit 125) ∧ (t.tile k).range = (word 16).testBit 125 ∧ tilesBut t k)) ∧
    (i = .mstat d1 tf →
      let tile := s.tile tf.toNat
      let some_ (f : AccElem → Bool) : Nat := (tile.elems.any f).toNat
      let record := tile.anchor.toNat + 2 ^ 16 * tile.range.toNat + 2 ^ 17 * some_ (fun e => e.nf == 1 || e.nf == 2) + 2 ^ 18 * some_ (fun e => e.nf == 3) +
        2 ^ 19 * some_ (fun e => e.nf == 0 && (decide (e.g.toInt < -2 ^ 127) || decide (2 ^ 127 ≤ e.g.toInt))) +
        2 ^ 20 * some_ (fun e => e.nf == 0 && (decide (e.g.toInt < -2 ^ 124) || decide (2 ^ 124 ≤ e.g.toInt))) + 2 ^ 32 * s.core.mtxDone.toNat + 2 ^ 64 * s.now.toNat
      ∀ p : Part, r.dst = [p] → p.size = 16 → actOf .mtx r s = ⟨s, writeVisits .engine [(p, record)], 0⟩) ∧
    ∀ p ∈ [(Instr.manchI tf imm, imm.toInt), (.manch tf xn, r.entry.x0.toInt)], i = p.1 → -32768 ≤ p.2 → p.2 ≤ 32767 →
      let tile := s.tile tf.toNat
      let onto (e : AccElem) : Int := ⌊(e.g.toInt : ℚ) * (2 : ℚ) ^ (tile.anchor.toInt - p.2)⌋
      ∃ t, actOf .mtx r s = ⟨t, [], 0⟩ ∧ tilesBut t tf.toNat ∧ (t.tile tf.toNat).anchor.toInt = p.2 ∧
        (∀ j < 1024, (t.tile tf.toNat).elem j = if (tile.elem j).nf = 0 then ⟨0, BitVec.ofInt 136 (onto (tile.elem j))⟩ else tile.elem j) ∧
        ((t.tile tf.toNat).range = true ↔ tile.range = true ∨ ∃ j < 1024, (tile.elem j).nf = 0 ∧ (onto (tile.elem j) < -2 ^ 135 ∨ 2 ^ 135 - 1 < onto (tile.elem j)))

/-- R227 to R229, R231 to R233, R245 to R250, R356, R357, R362, R365 to R374. LAND at the head of an idle PRT queue posts its landing in the lowest free entry and completes, or waits while the
table is full. A NOTE whose list has been read refuses a bad list, and else takes its granules in ascending order: each waits until it is FULL and
becomes MOORED, and with the last one the entry becomes valid and the notices go out in list order. The other PRT commands act in one move: UNLAND and
DECL on landings and notices, NWAIT, LANDQ and MOORQ write their records, PPOL, PPACE, PGRP and PCLASS load their tables, RELS releases and RETEND restarts. KVPOL sets the policy of its layers; KVLEN writes its
record; KVAPPEND is refused into an entry that is not UNSET, and KVFILL into one that is not OWED. KVNEW, KVFORK, KVFREE, KVTRIM and KVBFT change their tables,
KVSTAT and KVOWED write their records, KVMAP its descriptor, KVWAIT waits, and KVAPPEND, KVFILL, KVEXIT and KVFLUSH leave len, owed, the stash and the flushed
counts as said. Notices that go on being sent are log entry 27, and the record sizes that KVLEN and its like admit are log entry 31: the model's choices. -/
def Obligations.PortAndKvCommandsAct : Prop :=
  (∀ (s : State) (en : Entry) (rest : List Entry) (dn : BitVec 6) (slot : BitVec 4), s.q.prt = { Queue.empty with entries := en :: rest } →
    s.q.kvc = Queue.empty → s.specNow = false → en.instr = .land dn slot → en.x4.extractLsb' 32 32 = 0 →
    let d : BitVec 256 := s.core.d[dn.toNat]'(by omega)
    denseBad s.freeNo 0 d = none →
      ((∀ l < 64, (s.land l).state ≠ .free) → s.engineStep .prt = none) ∧
      ∀ l < 64, (s.land l).state = .free → (∀ j < l, (s.land j).state ≠ .free) →
        (∀ i ∈ s.quay.inbox, i.notice.tag = en.x4.extractLsb' 0 32 → i.land ≠ none) →
        ∃ t, s.engineStep .prt = some t ∧ t.q.prt = { Queue.empty with entries := rest } ∧
          t.land l = { LandEntry.free with
            tag := en.x4.extractLsb' 0 32, state := .posted, lgen := (s.land l).lgen + 1, slot := slot, off := d.extractLsb' 0 18
            size := BitVec.ofNat 20 (denseLen d / 16 - 1), baddr := s.slotAddr s.core.sys.bbase slot, order := s.quay.posted } ∧
          (∀ j < 64, j ≠ l → t.land j = s.land j) ∧ t.outbox = s.outbox ∧ sameMemory s t ∧ t.core.x = s.core.x ∧ t.core.sys = s.core.sys) ∧
  (∀ (s : State) (r : Running) (d1 d2 : BitVec 6) (slot : BitVec 4), s.q.prt.run = some r → s.q.prt.hrun = none → s.q.prt.hentry = none → s.q.prt.stuck = false →
    r.entry.instr = .note d1 d2 slot → r.eccAt = none → s.canonical →
    let l : List (BitVec 32) := r.src.map fun p => BitVec.ofNat 32 (partVal r.got p)
    let bad := (∃ a ∈ l, a.extractLsb' 20 12 ≠ 0) ∨ ¬l.Nodup
    let first := s.selfRank * 262144 + (r.d1.extractLsb' 0 48).toNat
    let m := r.aux.toNat
    let own := r.entry.x4.getLsbD 63
    (r.stage = .reading → r.reads = [] →
      (bad → s.engineStep .prt = some (s.engineFault .prt false r ⟨0x01, 0x13, 0⟩)) ∧
      (¬bad → 16 ≤ denseLen r.d1 → ∃ t, s.engineStep .prt = some t ∧ t = { s with q := t.q } ∧
        t.q.prt.run = some { r with stage := .writing, count := 0, writes := (List.range (denseLen r.d1 / 16)).map fun k =>
          ⟨first + k, .spad (first + k), .moor, 0, 0⟩ })) ∧
    ∀ g, r.stage = .writing → r.writes = [⟨g, .spad g, .moor, 0, 0⟩] → iterCount r.bounds ≤ r.iter + 1 → m < 256 → (s.moor m).valid = false →
      (∀ a ∈ l, s.revokedDev (s.cmpOf (r.ctx.extractLsb' 0 4)) a = false) →
      (s.gran.get g ≠ .full → s.engineStep .prt = none) ∧
      (s.gran.get g = .full → ∃ t, s.engineStep .prt = some t ∧ t.q.prt.run = none ∧ t.gran.get g = .moored ∧ (∀ h, h ≠ g → t.gran.get h = s.gran.get h) ∧
        (∀ a, t.spad.get a = s.spad.get a) ∧ t.mem = s.mem ∧ (∀ k < 256, k ≠ m → t.moor k = s.moor k) ∧
        t.moor m = { tag := r.entry.x4.extractLsb' 0 32, size := BitVec.ofNat 20 (denseLen r.d1 / 16 - 1),
                     remain := if own then r.entry.x4.extractLsb' 32 16 else 4096, cls := if own then r.entry.x4.extractLsb' 48 4 else 0,
                     prio := if own then r.entry.x4.extractLsb' 52 6 else 32, valid := true, expired := false, off := r.d1.extractLsb' 0 18,
                     gen := (s.moor m).gen, grp := false, group := 0, slot := slot, pending := BitVec.ofNat 63 (2 ^ l.length - 1), pulled := 0, absent := 0,
                     accepted := 0, baddr := s.slotAddr r.bbase slot, consumers := l, ctx := r.ctx.extractLsb' 0 4 } ∧
        t.outbox = s.outbox ++ l.zipIdx.map (fun p => .notice p.1 (t.noticeOf m p.2)) ∧
        t.quay.untold = s.quay.untold ++ l.zipIdx.map fun p => (p.1, t.noticeOf m p.2))) ∧
  (∀ (s : State) (en : Entry) (rest : List Entry), s.q.kvc = { Queue.empty with entries := en :: rest } → s.specNow = false →
    (en.instr = .kvpol →
      let lo := (en.x4.extractLsb' 0 8).toNat
      let hi := (en.x4.extractLsb' 8 8).toNat
      let pol := en.x4.extractLsb' 16 3
      (en.x4.extractLsb' 19 45 ≠ 0 ∨ hi < lo ∨ pol = 0 ∨ 4 < pol.toNat → ∃ t f, s.engineStep .kvc = some t ∧ t.q.kvc.stuck = true ∧ t.q.kvc.entries = rest ∧
        t.q.kvc.faults = [f] ∧ f.code = 0x01 ∧ f.sub = 0x13 ∧ t.ctxs = s.ctxs) ∧
      (en.x4.extractLsb' 19 45 = 0 → lo ≤ hi → pol ≠ 0 → pol.toNat ≤ 4 → ∃ t, s.engineStep .kvc = some t ∧ t = { s with q := t.q, ctxs := t.ctxs } ∧
        t.q.kvc = { Queue.empty with entries := rest } ∧
        ∀ x : BitVec 4, t.context x = if x = s.ctx then { s.context x with policy := (t.context x).policy } else s.context x) ∧
      (en.x4.extractLsb' 19 45 = 0 → lo ≤ hi → pol ≠ 0 → pol.toNat ≤ 4 → ∃ t, s.engineStep .kvc = some t ∧
        ∀ (k : Nat) (h : k < 256), (t.context s.ctx).policy[k]'h = if lo ≤ k ∧ k ≤ hi then pol else (s.context s.ctx).policy[k]'h)) ∧
    ∀ dn h, en.instr = .kvlen dn → let d : BitVec 256 := s.core.d[dn.toNat]'(by omega)
      let g := s.selfRank * 262144 + (d.extractLsb' 0 48).toNat
      kvmapBefore s dn en.no = false → s.kvDeref s.core.sys.ctx en.x0 = .ok h → en.x4 = 0 → denseBad s.freeNo 16 d = none → en.x2.toNat < (s.modelOf h).layers →
      ∃ t r, s.engineStep .kvc = some t ∧ t = { s with q := t.q } ∧ t.q.kvc = { Queue.empty with entries := rest, run := some r } ∧ r.entry = en ∧
        r.stage = .writing ∧ r.writes = [⟨g, .spad g, .engine, BitVec.allOnes 16,
          BitVec.ofNat 128 (h.len.toNat + 2 ^ 32 * h.lo.toNat + 2 ^ 64 * h.owed.toNat + 2 ^ 96 * h.flushed en.x2.toNat)⟩]) ∧
  (∀ (s : State) (r : Running) (dn : BitVec 6), s.canonical →
    let i := r.entry.instr
    let x := r.entry.x4
    let tag := x.extractLsb' 0 32
    let word (k : Nat) : BitVec 32 := BitVec.ofNat 32 (((r.src[k]?).map (partVal r.got)).getD 0)
    let first := s.selfRank * 262144 + (r.d1.extractLsb' 0 48).toNat
    let makes (t : State) : Prop := actOf .prt r s = ⟨t, [], 0⟩
    let records (t : State) (v : BitVec 256) : Prop := actOf .prt r s = ⟨t, (List.range 2).map fun k =>
      ⟨first + k, .spad (first + k), .engine, BitVec.allOnes 16, v.extractLsb' (128 * k) 128⟩, 0⟩
    let about (n : Notice) (k : InboxItem) : Bool := k.notice.src == n.src && k.notice.moor == n.moor && k.notice.gen == n.gen && k.notice.cidx == n.cidx
    let awaiting (l : Nat) : Prop := l < 64 ∧ (s.land l).state ≠ .free ∧ (i = .unland → (s.land l).tag = tag)
    let flying (l : Nat) : Bool := s.quay.inFlight.any fun p => p.1 == l
    let loose : List Notice := (s.quay.inbox.filter fun k => k.notice.tag == tag && k.land.isNone).map (·.notice)
    let decline (n : Notice) : Frame := .decline n.src s.self n.moor n.gen n.cidx
    let kept (n : Notice) : KeptAck := ⟨n.src, n.moor, n.gen, n.cidx, false⟩
    (i = .ppol dn → r.src.length = 32 → ∃ t, makes t ∧ t = { s with quay := { s.quay with policy := t.quay.policy } } ∧
      ∀ (k : Nat) (h : k < 16), t.quay.policy[k]'h = word (2 * k + 1) ++ word (2 * k)) ∧
    (i = .ppace dn → r.src.length = 8 → ∃ t, makes t ∧ t = { s with quay := { s.quay with pace := t.quay.pace } } ∧
      ∀ (k : Nat) (h : k < 8), t.quay.pace[k]'h = word k) ∧
    (i = .pgrp dn → ∃ t, makes t ∧ t = { s with quay := { s.quay with groups := t.quay.groups } } ∧
      ∀ (k : Nat) (h : k < 64), t.quay.groups[k]'h = if k = (x.extractLsb' 0 6).toNat then (List.range r.src.length).map word else s.quay.groups[k]'h) ∧
    (i = .pclass → ∃ t, makes t ∧ t = { s with quay := { s.quay with overrides := t.quay.overrides } } ∧
      ∀ p, p ∈ t.quay.overrides ↔ (p.1 ≠ tag ∧ p ∈ s.quay.overrides) ∨ (x.getLsbD 36 = false ∧ p = (tag, x.extractLsb' 32 4))) ∧
    (i = .unland ∨ i = .unlandAll → ∃ t, makes t ∧ t = { s with quay := { s.quay with land := t.quay.land, inbox := t.quay.inbox } } ∧
      (∀ l < 64, (¬awaiting l → t.land l = s.land l) ∧
        (awaiting l → t.land l = if (s.land l).state = .pulling ∧ flying l = true then { s.land l with removing := true }
          else { LandEntry.free with lgen := (s.land l).lgen })) ∧
      (∀ k ∈ t.quay.inbox, ∀ l < 64, awaiting l → (s.land l).state = .pulling → flying l = false → k.land ≠ some l) ∧
      t.quay.inbox.map (fun k => (k.notice, k.reported)) = s.quay.inbox.map fun k => (k.notice, k.reported)) ∧
    (i = .unland ∨ i = .unlandAll → ∀ u : State, (prtFinish r u = none ↔ ∃ l < 64, (u.land l).removing = true ∧ (i = .unland → (u.land l).tag = tag)) ∧
      (prtFinish r u ≠ none → prtFinish r u = some u)) ∧
    (i = .decl → (∀ n rest, loose = n :: rest → makes { s with
          outbox := s.outbox ++ [decline n], quay := { s.quay with inbox := s.quay.inbox.filter fun k => !about n k, kept := s.quay.kept ++ [kept n] } }) ∧
      (loose = [] → ∀ l < 64, (s.land l).state = .free → (∀ j < l, (s.land j).state ≠ .free) → ∃ t, makes t ∧ (∀ j < 64, j ≠ l → t.land j = s.land j) ∧
        t.land l = { LandEntry.free with tag := tag, state := .standing, lgen := (s.land l).lgen + 1, order := s.quay.posted } ∧
        t = { s with quay := { s.quay with land := t.quay.land, posted := s.quay.posted + 1 } })) ∧
    (i = .declAll → makes { s with outbox := s.outbox ++ loose.map decline, quay := { s.quay with
      inbox := s.quay.inbox.filter fun k => !loose.any fun n => about n k, kept := s.quay.kept ++ loose.map kept } }) ∧
    (i = .nwait dn ∨ i = .nwaitN dn ∨ i = .nwaitTag dn →
      let new (k : InboxItem) : Prop := k.reported = false ∧ (i = .nwaitTag dn → k.notice.tag = tag)
      ((∀ k ∈ s.quay.inbox, ¬new k) → records { s with core := { s.core with sys := { s.core.sys with ntag := 0 } } } 0) ∧
      ∀ before k after, s.quay.inbox = before ++ k :: after → (∀ j ∈ before, ¬new j) → new k → ∃ v, v.extractLsb' 0 32 = k.notice.tag ∧
        v.extractLsb' 32 20 = k.notice.size ∧ v.extractLsb' 52 4 = k.notice.cls ∧ v.extractLsb' 56 6 = k.notice.prio ∧ v.extractLsb' 62 2 = 0 ∧
        v.extractLsb' 64 32 = k.notice.src ∧ v.extractLsb' 96 8 = k.notice.moor ∧ v.extractLsb' 104 8 = k.notice.gen ∧ v.extractLsb' 112 6 = k.notice.cidx ∧
        v.getLsbD 118 = k.notice.grp ∧ v.extractLsb' 119 8 = 0 ∧ v.getLsbD 127 = true ∧ v.extractLsb' 128 18 = k.notice.off ∧ v.extractLsb' 146 14 = 0 ∧
        v.extractLsb' 160 16 = k.notice.cmp ∧ v.extractLsb' 176 4 = k.notice.ctx ∧ v.extractLsb' 180 76 = 0 ∧
        records { s with
          core := { s.core with sys := { s.core.sys with ntag := 1#1 ++ k.notice.tag } }
          quay := { s.quay with inbox := s.quay.inbox.map fun j => if about k.notice j then { j with reported := true } else j } } v) ∧
    (i = .landq dn → ((∀ l < 64, (s.land l).state = .free ∨ (s.land l).tag ≠ tag) → records s 0) ∧
      ∀ l < 64, (s.land l).state ≠ .free → (s.land l).tag = tag →
        (∀ j < 64, (s.land j).state ≠ .free → (s.land j).tag = tag → (s.land l).order < (s.land j).order ∨ ((s.land l).order = (s.land j).order ∧ l ≤ j)) →
        ∃ v, records s v ∧ v.extractLsb' 0 32 = tag ∧ v.extractLsb' 35 1 = 0 ∧ v.extractLsb' 36 4 = (s.land l).reason ∧ v.extractLsb' 40 8 = (s.land l).lgen ∧
          (v.extractLsb' 32 3).toNat = (match (s.land l).state with | .free => 0 | .posted => 1 | .pulling => 2 | .failed => 3 | .standing => 4) ∧
          v.extractLsb' 48 4 = (s.land l).slot ∧ (v.extractLsb' 52 6).toNat = l ∧ v.extractLsb' 58 6 = 0 ∧ v.extractLsb' 64 18 = (s.land l).off ∧
          v.extractLsb' 82 20 = (s.land l).size ∧ v.extractLsb' 102 26 = 0 ∧ v.extractLsb' 128 32 = (s.land l).landed ∧
          v.extractLsb' 160 32 = (s.land l).src ∧ v.extractLsb' 192 64 = 0) ∧
    (i = .moorq dn ∨ i = .moorqTag dn →
      (i = .moorqTag dn → (∀ m < 256, (s.moor m).valid = false ∨ (s.moor m).tag ≠ tag) → records s 0) ∧
      ∀ m < 256, (i = .moorq dn → m = (x.extractLsb' 0 8).toNat) →
        (i = .moorqTag dn → (s.moor m).valid = true ∧ (s.moor m).tag = tag ∧ ∀ j < m, (s.moor j).valid = false ∨ (s.moor j).tag ≠ tag) →
        let e := s.moor m
        ∃ v, records s v ∧ v.extractLsb' 0 32 = e.tag ∧ v.extractLsb' 32 20 = e.size ∧ v.extractLsb' 52 4 = e.cls ∧ v.extractLsb' 56 6 = e.prio ∧
          v.getLsbD 62 = e.valid ∧ v.getLsbD 63 = e.expired ∧ v.extractLsb' 64 18 = e.off ∧
          (v.extractLsb' 82 6).toNat = ((List.range 63).filter fun k => e.pending.getLsbD k).length ∧ v.extractLsb' 88 8 = e.gen ∧
          v.extractLsb' 96 16 = e.remain ∧ (v.getLsbD 112 = true ↔ ∃ k, e.pending.getLsbD k = true ∧ e.absent.getLsbD k = true) ∧ v.getLsbD 113 = e.grp ∧
          v.extractLsb' 114 6 = e.group ∧ v.extractLsb' 120 4 = e.slot ∧ v.extractLsb' 124 4 = 0 ∧ v.extractLsb' 128 63 = e.pending ∧ v.getLsbD 191 = false ∧
          v.extractLsb' 192 63 = e.pulled ∧ v.getLsbD 255 = false) ∧
    (∀ m < 256, i = .rels → m = (x.extractLsb' 0 8).toNat →
      let e := s.moor m
      let inBlock (g : Nat) : Prop := ∃ k ≤ e.size.toNat, g = s.selfRank * 262144 + e.off.toNat + k
      (e.valid = false ∨ e.gen ≠ x.extractLsb' 8 8 → makes s) ∧
      (e.valid = true → e.gen = x.extractLsb' 8 8 → ∃ t, makes t ∧ t.moor m = { e with valid := false, expired := false, gen := e.gen + 1 } ∧
        (∀ j < 256, j ≠ m → t.moor j = s.moor j) ∧ (∀ g, (inBlock g → t.gran.get g = .empty) ∧ (¬inBlock g → t.gran.get g = s.gran.get g)) ∧
        t.spad = (s.countAt e.baddr (16 * (e.size.toNat + 1))).spad ∧
        t = { s with spad := t.spad, gran := t.gran, recent := t.recent, quay := { s.quay with moor := t.quay.moor } })) ∧
    (i = .relsTag → makes (((List.range 256).filter fun m => (s.moor m).valid && (s.moor m).tag == tag).foldl (State.releaseBy · (.eng .prt r.entry.no)) s)) ∧
    (i = .retend ∨ i = .retendTag →
      let named (m : Nat) : Prop := (s.moor m).valid = true ∧ (i = .retend → m = (x.extractLsb' 0 8).toNat ∧ (s.moor m).gen = x.extractLsb' 8 8) ∧
        (i = .retendTag → (s.moor m).tag = tag)
      ∃ t, makes t ∧ t = { s with posted := t.posted, quay := { s.quay with moor := t.quay.moor } } ∧
        (∀ m < 256, (¬named m → t.moor m = s.moor m) ∧
          (named m → t.moor m = { s.moor m with expired := false, remain := x.extractLsb' (if i = .retend then 16 else 32) 16 })) ∧
        ∀ p, p ∈ t.posted ↔ p ∈ s.posted ∧ ¬∃ m < 256, named m ∧ p = .reclaim (BitVec.ofNat 8 m) (s.moor m).gen)) ∧
  (∀ (s : State) (r : Running) (d1 : BitVec 6), r.entry.instr = .kvbft d1 →
    let c := s.context (r.ctx.extractLsb' 0 4)
    let v : BitVec 512 := BitVec.ofNat 512 (partsVal r.got r.src)
    let rec_ := kvRecordOf v
    let m := kvModelOf v
    let fits (fsize : Nat) (m : KvModel) : Prop := 256 * (32 * (m.em1.toNat + 1)) + 64 ≤ 4096 * fsize
    let badRecord := v.extractLsb' 144 112 ≠ 0 ∨ v.extractLsb' 0 12 ≠ 0 ∨ ∃ m ∈ c.models.toList, m.valid = true ∧ ¬fits (v.extractLsb' 96 16).toNat m
    let badModel := v.extractLsb' 250 6 ≠ 0 ∨ v.extractLsb' 273 7 ≠ 0 ∨ v.extractLsb' 284 4 ≠ 0 ∨ v.extractLsb' 304 208 ≠ 0 ∨
      (v.getLsbD 231 = true ∧ (v.extractLsb' 0 2 ≠ 0 ∨ v.extractLsb' 128 6 ≠ 0 ∨ v.extractLsb' 192 32 = 0 ∨ v.extractLsb' 288 16 = 0 ∨
        (c.kvrec.frames ≠ 0 ∧ ¬fits c.kvrec.fsize.toNat m)))
    let becomes (c' : Context) : Prop := ∃ t, kvEffect r s = .done t 0 0 ∧ t = { s with ctxs := t.ctxs } ∧
      ∀ k : BitVec 4, t.context k = if k = r.ctx.extractLsb' 0 4 then c' else s.context k
    (r.entry.x4.getLsbD 4 = true → (badRecord → kvEffect r s = .trap ⟨0x01, 0x13, 0⟩) ∧ (¬badRecord → becomes { c with kvrec := rec_ }) ∧
      rec_.pool = v.extractLsb' 0 64 ∧ rec_.frames = v.extractLsb' 64 32 ∧ rec_.fsize = v.extractLsb' 96 16 ∧ rec_.first = v.extractLsb' 112 16 ∧
      rec_.count = v.extractLsb' 128 16) ∧
    (r.entry.x4.getLsbD 4 = false → (badModel → kvEffect r s = .trap ⟨0x01, 0x13, 0⟩) ∧
      (¬badModel → ∀ h : (r.entry.x4.extractLsb' 0 4).toNat < 15, becomes { c with models := c.models.set _ m h }) ∧
      m.entry = v.extractLsb' 0 64 ∧ m.tsbase = v.extractLsb' 64 64 ∧ m.sbase = v.extractLsb' 128 64 ∧ m.budget = v.extractLsb' 192 32 ∧
      m.prio = v.extractLsb' 224 6 ∧ m.spec = v.getLsbD 230 ∧ m.valid = v.getLsbD 231 ∧ m.timeline = v.extractLsb' 232 4 ∧ m.pmask = v.extractLsb' 236 6 ∧
      m.frame = v.extractLsb' 242 8 ∧ m.lm1 = v.extractLsb' 256 8 ∧ m.em1 = v.extractLsb' 264 9 ∧ m.sdl = v.extractLsb' 280 4 ∧
      m.ssize = v.extractLsb' 288 16)) ∧
  (∀ (s : State) (r : Running) (d1 : BitVec 6),
    let x := r.entry.x4
    let rc := s.kvRec (r.ctx.extractLsb' 0 4)
    let unused (k : Nat) : Prop := ∀ g, s.kvHandle (rc.first.toNat + k) = some g → g.valid = false
    let lowest (k : Nat) : Prop := k < rc.count.toNat ∧ unused k ∧ ∀ j < k, ¬unused j
    let gen (k : Nat) : BitVec 8 := ((s.kvHandle (rc.first.toNat + k)).map (·.gen)).getD 0
    let holds (k v : Nat) (bound : BitVec 20) : Prop := let w := BitVec.ofNat 64 v
      v < 2 ^ 64 ∧ w.extractLsb' 48 16 = BitVec.ofNat 16 (rc.first.toNat + k) ∧ w.extractLsb' 40 8 = gen k ∧ w.extractLsb' 32 8 = r.ctx.extractLsb' 4 8 ∧
        w.extractLsb' 12 20 = bound ∧ w.extractLsb' 0 12 = 0
    (r.entry.instr = .kvnew d1 → ((∀ k < rc.count.toNat, ¬unused k) → kvEffect r s = .trap (.pool true)) ∧
      ∀ k, lowest k → ∀ t n v, kvEffect r s = .done t n v → n = denseLen r.d1 ∧ holds k v (x.extractLsb' 0 20) ∧
        ∀ g ∈ t.kv.handles, g.index = rc.first.toNat + k → g.valid = true ∧ g.gen = gen k ∧ g.tenant = r.ctx.extractLsb' 4 8 ∧ g.ctx = r.ctx.extractLsb' 0 4 ∧
          g.model = x.extractLsb' 20 4 ∧ g.bound = x.extractLsb' 0 20 ∧ g.len = 0 ∧ g.lo = 0 ∧ g.owed = 0 ∧ g.pages = [] ∧ ∀ l, g.flushed l = 0) ∧
    (r.entry.instr = .kvfork d1 → ∀ h, s.kvDeref r.ctx r.entry.x0 = .ok h → ∀ k, lowest k → ∀ t n v, kvEffect r s = .done t n v →
      let p := r.entry.x1.toNat
      n = denseLen r.d1 ∧ holds k v (r.entry.x0.extractLsb' 12 20) ∧
        ∀ g ∈ t.kv.handles, g.index = rc.first.toNat + k → g.valid = true ∧ g.gen = gen k ∧ g.model = h.model ∧ g.bound = r.entry.x0.extractLsb' 12 20 ∧
          g.len = BitVec.ofNat 20 p ∧ g.lo = h.lo ∧ g.owed = 0 ∧ g.pages = h.pages.filter (fun q => decide (64 * q.2.1 < p)) ∧
          ∀ l < h.fl.length, g.flushed l = min (h.flushed l) ((p + 63) / 64)) ∧
    (r.entry.instr = .kvtrim d1 → ∀ h, s.kvDeref r.ctx (BitVec.ofNat 64 (partsVal r.got r.src)) = .ok h →
      let n := x.toNat
      let owes := ∃ l < (s.modelOf h).layers, ∃ p, p < n ∧ p < h.len.toNat ∧ s.kvState h l p = 2
      let unflushed := ∃ l < (s.modelOf h).layers, 64 * h.flushed l < n
      (owes → kvEffect r s = .wait) ∧ (¬owes → unflushed → kvEffect r s = .trap ⟨0x01, 0x13, 0⟩) ∧
      (¬owes → ¬unflushed → ∀ t k v, kvEffect r s = .done t k v → k = 0 ∧ ∀ g ∈ t.kv.handles, g.index = h.index →
        g = { h with pages := h.pages.filter (fun q => decide (n < 64 * q.2.1 + 64)), lo := if h.lo.toNat < n then BitVec.ofNat 20 n else h.lo }))) ∧
  ∀ (s : State) (r : Running) (d1 d2 : BitVec 6) (pq : BitVec 3) (h : KvHandle), s.kvDeref r.ctx r.entry.x0 = .ok h →
    let i := r.entry.instr
    let x := r.entry.x4
    let p := r.entry.x1.toNat
    let l := r.entry.x2.toNat
    let m := s.modelOf h
    let st := s.kvState h l p
    let leaves (f : KvHandle → Prop) : Prop := ∀ t n v, kvEffect r s = .done t n v → n = 0 ∧ ∀ g ∈ t.kv.handles, g.index = h.index → f g
    (i = .kvappend d1 d2 → (st ≠ 0 → kvEffect r s = .trap ⟨0x01, 0x13, 0⟩) ∧ (st = 0 → leaves fun g => g.owed = h.owed ∧
      g.len = if p = h.len.toNat then h.len + 1 else h.len)) ∧
    (i = .kvfill d1 d2 → (st ≠ 2 → kvEffect r s = .trap ⟨0x01, 0x13, 0⟩) ∧ (st = 2 → leaves fun g => g.owed = h.owed - 1 ∧ g.len = h.len)) ∧
    (i = .kvflush → x.getLsbD 0 = false → l < h.fl.length → leaves fun g => ∀ k, g.flushed k = if k = l then h.flushed l + 1 else h.flushed k) ∧
    (i = .kvexit d1 →
      let slot := (m.sbase.toNat + (64 + 16 * m.ssize.toNat) * (h.index * 2 ^ m.sdl.toNat + p % 2 ^ m.sdl.toNat)) % 2 ^ 64
      (x.getLsbD 0 = false → kvRoom s (kvTasks s h p l) = false → kvEffect r s = .wait) ∧
      ∀ t n v, kvEffect r s = .done t n v → n = 0 ∧ ∀ u, u ∈ t.kv.stash ↔ (u ∈ s.kv.stash ∧ u.addr ≠ slot) ∨ u = ⟨slot, h.index, p⟩) ∧
    (i = .kvfree → leaves fun g => g = { h with valid := false, gen := h.gen + 1, pages := [], hidden := [], fl := [] }) ∧
    (i = .kvwait →
      let owes := ∃ k < m.layers, ∃ q, q ≤ p ∧ q < h.len.toNat ∧ s.kvState h k q = 2
      (owes → kvEffect r s = .wait) ∧ (¬owes → kvEffect r s = .done s 0 0)) ∧
    (i = .kvstat d1 → ∃ v : BitVec 512, kvEffect r s = .done s 64 v.toNat ∧ v.extractLsb' 0 8 = h.gen ∧ v.extractLsb' 8 8 = h.tenant ∧ v.extractLsb' 16 4 = h.ctx ∧
      v.extractLsb' 20 4 = h.model ∧ v.getLsbD 24 = h.valid ∧ v.extractLsb' 25 7 = 0 ∧ v.extractLsb' 32 20 = h.bound ∧ v.extractLsb' 52 12 = 0 ∧
      v.extractLsb' 64 20 = h.len ∧ v.extractLsb' 84 12 = 0 ∧ v.extractLsb' 96 20 = h.lo ∧ v.extractLsb' 116 12 = 0 ∧ v.extractLsb' 128 32 = h.owed ∧
      v.extractLsb' 160 96 = 0 ∧ v.extractLsb' 256 64 = BitVec.ofNat 64 (4096 * h.mapFrame) ∧ v.extractLsb' 320 192 = 0) ∧
    (i = .kvowed d1 → ∃ v, kvEffect r s = .done s (denseLen r.d1) v ∧
      let b := 2 ^ x.toNat
      ∀ j < 8 * denseLen r.d1 / b, ∀ e < b, (v.testBit (b * j + e) = true ↔ s.kvState h l (p + j) = 1)) ∧
    ∀ isV : Bool, i = (if isV then .kvmapV d1 pq else .kvmapK d1 pq) →
      let n := x.toNat
      let base := 64 * h.flushed l
      let fmt : Option Nat := if n = 0 ∨ 65536 < n ∨ p % 64 ≠ 0 ∨ m.layers ≤ l then none else if p + n ≤ base then some 8
        else if base ≤ p ∧ p + n ≤ base + 64 then some 7 else none
      (fmt = none → kvEffect r s = .trap ⟨0x01, 0x13, 0⟩) ∧
      ∀ f, fmt = some f →
        (descNamedBefore s d1 r.entry.no = true → kvEffect r s = .wait) ∧
        (descNamedBefore s d1 r.entry.no = false → ∃ t, kvEffect r s = .done t 0 0 ∧ t = { s with core := { s.core with d := t.core.d } } ∧
          (∀ (k : Nat) (hk : k < 64), k ≠ d1.toNat → t.core.d[k]'hk = s.core.d[k]'hk) ∧
          let v : BitVec 256 := t.core.d[d1.toNat]'(by omega)
          v.extractLsb' 0 16 = BitVec.ofNat 16 h.index ∧ v.extractLsb' 16 8 = h.gen ∧ v.extractLsb' 24 8 = h.tenant ∧
          v.extractLsb' 32 8 = r.entry.x2.extractLsb' 0 8 ∧ v.getLsbD 40 = isV ∧ v.extractLsb' 41 3 = pq ∧ v.extractLsb' 44 4 = 0 ∧ v.extractLsb' 48 2 = 3 ∧
          (v.extractLsb' 50 6).toNat = f ∧ v.extractLsb' 56 8 = 0 ∧ (v.extractLsb' 64 16).toNat = m.elems - 1 ∧ (v.extractLsb' 80 16).toNat = n - 1 ∧
          v.extractLsb' 96 144 = 0 ∧ v.extractLsb' 240 16 = BitVec.ofNat 16 (p / 64))
end

