-- ==== Sys2Proof/Laws/State.lean ====
section
/-!
SUPPORT. What each named update of the machine leaves alone: one lemma per field, so that no later proof unfolds a record update.
-/

namespace Sys2Proof.Machine

/-! ## setX -/

@[simp] theorem State.setX_core_pc (s : State) (r : BitVec 5) (w : Word) : (State.setX s r w).core.pc = s.core.pc := by unfold State.setX; split <;> rfl
@[simp] theorem State.setX_core_b (s : State) (r : BitVec 5) (w : Word) : (State.setX s r w).core.b = s.core.b := by unfold State.setX; split <;> rfl
@[simp] theorem State.setX_core_c (s : State) (r : BitVec 5) (w : Word) : (State.setX s r w).core.c = s.core.c := by unfold State.setX; split <;> rfl
@[simp] theorem State.setX_core_v (s : State) (r : BitVec 5) (w : Word) : (State.setX s r w).core.v = s.core.v := by unfold State.setX; split <;> rfl
@[simp] theorem State.setX_core_p (s : State) (r : BitVec 5) (w : Word) : (State.setX s r w).core.p = s.core.p := by unfold State.setX; split <;> rfl
@[simp] theorem State.setX_core_a (s : State) (r : BitVec 5) (w : Word) : (State.setX s r w).core.a = s.core.a := by unfold State.setX; split <;> rfl
@[simp] theorem State.setX_core_l (s : State) (r : BitVec 5) (w : Word) : (State.setX s r w).core.l = s.core.l := by unfold State.setX; split <;> rfl
@[simp] theorem State.setX_core_n (s : State) (r : BitVec 5) (w : Word) : (State.setX s r w).core.n = s.core.n := by unfold State.setX; split <;> rfl
@[simp] theorem State.setX_core_d (s : State) (r : BitVec 5) (w : Word) : (State.setX s r w).core.d = s.core.d := by unfold State.setX; split <;> rfl
@[simp] theorem State.setX_core_tk (s : State) (r : BitVec 5) (w : Word) : (State.setX s r w).core.tk = s.core.tk := by unfold State.setX; split <;> rfl
@[simp] theorem State.setX_core_vfull (s : State) (r : BitVec 5) (w : Word) : (State.setX s r w).core.vfull = s.core.vfull := by unfold State.setX; split <;> rfl
@[simp] theorem State.setX_core_pfull (s : State) (r : BitVec 5) (w : Word) : (State.setX s r w).core.pfull = s.core.pfull := by unfold State.setX; split <;> rfl
@[simp] theorem State.setX_core_afull (s : State) (r : BitVec 5) (w : Word) : (State.setX s r w).core.afull = s.core.afull := by unfold State.setX; split <;> rfl
@[simp] theorem State.setX_core_lmax (s : State) (r : BitVec 5) (w : Word) : (State.setX s r w).core.lmax = s.core.lmax := by unfold State.setX; split <;> rfl
@[simp] theorem State.setX_core_sys (s : State) (r : BitVec 5) (w : Word) : (State.setX s r w).core.sys = s.core.sys := by unfold State.setX; split <;> rfl
@[simp] theorem State.setX_core_region (s : State) (r : BitVec 5) (w : Word) : (State.setX s r w).core.region = s.core.region := by unfold State.setX; split <;> rfl
@[simp] theorem State.setX_core_phase (s : State) (r : BitVec 5) (w : Word) : (State.setX s r w).core.phase = s.core.phase := by unfold State.setX; split <;> rfl
@[simp] theorem State.setX_core_wait (s : State) (r : BitVec 5) (w : Word) : (State.setX s r w).core.wait = s.core.wait := by unfold State.setX; split <;> rfl
@[simp] theorem State.setX_core_monitor (s : State) (r : BitVec 5) (w : Word) : (State.setX s r w).core.monitor = s.core.monitor := by unfold State.setX; split <;> rfl
@[simp] theorem State.setX_core_drainFrom (s : State) (r : BitVec 5) (w : Word) : (State.setX s r w).core.drainFrom = s.core.drainFrom := by unfold State.setX; split <;> rfl
@[simp] theorem State.setX_core_saved (s : State) (r : BitVec 5) (w : Word) : (State.setX s r w).core.saved = s.core.saved := by unfold State.setX; split <;> rfl
@[simp] theorem State.setX_core_budgetStopped (s : State) (r : BitVec 5) (w : Word) : (State.setX s r w).core.budgetStopped = s.core.budgetStopped := by unfold State.setX; split <;> rfl
@[simp] theorem State.setX_core_mtxDone (s : State) (r : BitVec 5) (w : Word) : (State.setX s r w).core.mtxDone = s.core.mtxDone := by unfold State.setX; split <;> rfl
@[simp] theorem State.setX_core_icache (s : State) (r : BitVec 5) (w : Word) : (State.setX s r w).core.icache = s.core.icache := by unfold State.setX; split <;> rfl
@[simp] theorem State.setX_core_linkDue (s : State) (r : BitVec 5) (w : Word) : (State.setX s r w).core.linkDue = s.core.linkDue := by unfold State.setX; split <;> rfl
@[simp] theorem State.setX_core_pending (s : State) (r : BitVec 5) (w : Word) : (State.setX s r w).core.pending = s.core.pending := by unfold State.setX; split <;> rfl
@[simp] theorem State.setX_core_depth (s : State) (r : BitVec 5) (w : Word) : (State.setX s r w).core.depth = s.core.depth := by unfold State.setX; split <;> rfl
@[simp] theorem State.setX_core_kept (s : State) (r : BitVec 5) (w : Word) : (State.setX s r w).core.kept = s.core.kept := by unfold State.setX; split <;> rfl
@[simp] theorem State.setX_q (s : State) (r : BitVec 5) (w : Word) : (State.setX s r w).q = s.q := by unfold State.setX; split <;> rfl
@[simp] theorem State.setX_spad (s : State) (r : BitVec 5) (w : Word) : (State.setX s r w).spad = s.spad := by unfold State.setX; split <;> rfl
@[simp] theorem State.setX_gran (s : State) (r : BitVec 5) (w : Word) : (State.setX s r w).gran = s.gran := by unfold State.setX; split <;> rfl
@[simp] theorem State.setX_mem (s : State) (r : BitVec 5) (w : Word) : (State.setX s r w).mem = s.mem := by unfold State.setX; split <;> rfl
@[simp] theorem State.setX_poison (s : State) (r : BitVec 5) (w : Word) : (State.setX s r w).poison = s.poison := by unfold State.setX; split <;> rfl
@[simp] theorem State.setX_accPoison (s : State) (r : BitVec 5) (w : Word) : (State.setX s r w).accPoison = s.accPoison := by unfold State.setX; split <;> rfl
@[simp] theorem State.setX_ctxs (s : State) (r : BitVec 5) (w : Word) : (State.setX s r w).ctxs = s.ctxs := by unfold State.setX; split <;> rfl
@[simp] theorem State.setX_tlb (s : State) (r : BitVec 5) (w : Word) : (State.setX s r w).tlb = s.tlb := by unfold State.setX; split <;> rfl
@[simp] theorem State.setX_unit (s : State) (r : BitVec 5) (w : Word) : (State.setX s r w).unit = s.unit := by unfold State.setX; split <;> rfl
@[simp] theorem State.setX_quay (s : State) (r : BitVec 5) (w : Word) : (State.setX s r w).quay = s.quay := by unfold State.setX; split <;> rfl
@[simp] theorem State.setX_posted (s : State) (r : BitVec 5) (w : Word) : (State.setX s r w).posted = s.posted := by unfold State.setX; split <;> rfl
@[simp] theorem State.setX_kv (s : State) (r : BitVec 5) (w : Word) : (State.setX s r w).kv = s.kv := by unfold State.setX; split <;> rfl
@[simp] theorem State.setX_coll (s : State) (r : BitVec 5) (w : Word) : (State.setX s r w).coll = s.coll := by unfold State.setX; split <;> rfl
@[simp] theorem State.setX_pkg (s : State) (r : BitVec 5) (w : Word) : (State.setX s r w).pkg = s.pkg := by unfold State.setX; split <;> rfl
@[simp] theorem State.setX_outbox (s : State) (r : BitVec 5) (w : Word) : (State.setX s r w).outbox = s.outbox := by unfold State.setX; split <;> rfl
@[simp] theorem State.setX_now (s : State) (r : BitVec 5) (w : Word) : (State.setX s r w).now = s.now := by unfold State.setX; split <;> rfl
@[simp] theorem State.setX_agenda (s : State) (r : BitVec 5) (w : Word) : (State.setX s r w).agenda = s.agenda := by unfold State.setX; split <;> rfl
@[simp] theorem State.setX_enqNo (s : State) (r : BitVec 5) (w : Word) : (State.setX s r w).enqNo = s.enqNo := by unfold State.setX; split <;> rfl
@[simp] theorem State.setX_freeNo (s : State) (r : BitVec 5) (w : Word) : (State.setX s r w).freeNo = s.freeNo := by unfold State.setX; split <;> rfl
@[simp] theorem State.setX_recent (s : State) (r : BitVec 5) (w : Word) : (State.setX s r w).recent = s.recent := by unfold State.setX; split <;> rfl

/-! ## setC -/

@[simp] theorem State.setC_core_pc (s : State) (r : BitVec 3) (w : Bool) : (State.setC s r w).core.pc = s.core.pc := by unfold State.setC; split <;> rfl
@[simp] theorem State.setC_core_x (s : State) (r : BitVec 3) (w : Bool) : (State.setC s r w).core.x = s.core.x := by unfold State.setC; split <;> rfl
@[simp] theorem State.setC_core_b (s : State) (r : BitVec 3) (w : Bool) : (State.setC s r w).core.b = s.core.b := by unfold State.setC; split <;> rfl
@[simp] theorem State.setC_core_v (s : State) (r : BitVec 3) (w : Bool) : (State.setC s r w).core.v = s.core.v := by unfold State.setC; split <;> rfl
@[simp] theorem State.setC_core_p (s : State) (r : BitVec 3) (w : Bool) : (State.setC s r w).core.p = s.core.p := by unfold State.setC; split <;> rfl
@[simp] theorem State.setC_core_a (s : State) (r : BitVec 3) (w : Bool) : (State.setC s r w).core.a = s.core.a := by unfold State.setC; split <;> rfl
@[simp] theorem State.setC_core_l (s : State) (r : BitVec 3) (w : Bool) : (State.setC s r w).core.l = s.core.l := by unfold State.setC; split <;> rfl
@[simp] theorem State.setC_core_n (s : State) (r : BitVec 3) (w : Bool) : (State.setC s r w).core.n = s.core.n := by unfold State.setC; split <;> rfl
@[simp] theorem State.setC_core_d (s : State) (r : BitVec 3) (w : Bool) : (State.setC s r w).core.d = s.core.d := by unfold State.setC; split <;> rfl
@[simp] theorem State.setC_core_tk (s : State) (r : BitVec 3) (w : Bool) : (State.setC s r w).core.tk = s.core.tk := by unfold State.setC; split <;> rfl
@[simp] theorem State.setC_core_vfull (s : State) (r : BitVec 3) (w : Bool) : (State.setC s r w).core.vfull = s.core.vfull := by unfold State.setC; split <;> rfl
@[simp] theorem State.setC_core_pfull (s : State) (r : BitVec 3) (w : Bool) : (State.setC s r w).core.pfull = s.core.pfull := by unfold State.setC; split <;> rfl
@[simp] theorem State.setC_core_afull (s : State) (r : BitVec 3) (w : Bool) : (State.setC s r w).core.afull = s.core.afull := by unfold State.setC; split <;> rfl
@[simp] theorem State.setC_core_lmax (s : State) (r : BitVec 3) (w : Bool) : (State.setC s r w).core.lmax = s.core.lmax := by unfold State.setC; split <;> rfl
@[simp] theorem State.setC_core_sys (s : State) (r : BitVec 3) (w : Bool) : (State.setC s r w).core.sys = s.core.sys := by unfold State.setC; split <;> rfl
@[simp] theorem State.setC_core_region (s : State) (r : BitVec 3) (w : Bool) : (State.setC s r w).core.region = s.core.region := by unfold State.setC; split <;> rfl
@[simp] theorem State.setC_core_phase (s : State) (r : BitVec 3) (w : Bool) : (State.setC s r w).core.phase = s.core.phase := by unfold State.setC; split <;> rfl
@[simp] theorem State.setC_core_wait (s : State) (r : BitVec 3) (w : Bool) : (State.setC s r w).core.wait = s.core.wait := by unfold State.setC; split <;> rfl
@[simp] theorem State.setC_core_monitor (s : State) (r : BitVec 3) (w : Bool) : (State.setC s r w).core.monitor = s.core.monitor := by unfold State.setC; split <;> rfl
@[simp] theorem State.setC_core_drainFrom (s : State) (r : BitVec 3) (w : Bool) : (State.setC s r w).core.drainFrom = s.core.drainFrom := by unfold State.setC; split <;> rfl
@[simp] theorem State.setC_core_saved (s : State) (r : BitVec 3) (w : Bool) : (State.setC s r w).core.saved = s.core.saved := by unfold State.setC; split <;> rfl
@[simp] theorem State.setC_core_budgetStopped (s : State) (r : BitVec 3) (w : Bool) : (State.setC s r w).core.budgetStopped = s.core.budgetStopped := by unfold State.setC; split <;> rfl
@[simp] theorem State.setC_core_mtxDone (s : State) (r : BitVec 3) (w : Bool) : (State.setC s r w).core.mtxDone = s.core.mtxDone := by unfold State.setC; split <;> rfl
@[simp] theorem State.setC_core_icache (s : State) (r : BitVec 3) (w : Bool) : (State.setC s r w).core.icache = s.core.icache := by unfold State.setC; split <;> rfl
@[simp] theorem State.setC_core_linkDue (s : State) (r : BitVec 3) (w : Bool) : (State.setC s r w).core.linkDue = s.core.linkDue := by unfold State.setC; split <;> rfl
@[simp] theorem State.setC_core_pending (s : State) (r : BitVec 3) (w : Bool) : (State.setC s r w).core.pending = s.core.pending := by unfold State.setC; split <;> rfl
@[simp] theorem State.setC_core_depth (s : State) (r : BitVec 3) (w : Bool) : (State.setC s r w).core.depth = s.core.depth := by unfold State.setC; split <;> rfl
@[simp] theorem State.setC_core_kept (s : State) (r : BitVec 3) (w : Bool) : (State.setC s r w).core.kept = s.core.kept := by unfold State.setC; split <;> rfl
@[simp] theorem State.setC_q (s : State) (r : BitVec 3) (w : Bool) : (State.setC s r w).q = s.q := by unfold State.setC; split <;> rfl
@[simp] theorem State.setC_spad (s : State) (r : BitVec 3) (w : Bool) : (State.setC s r w).spad = s.spad := by unfold State.setC; split <;> rfl
@[simp] theorem State.setC_gran (s : State) (r : BitVec 3) (w : Bool) : (State.setC s r w).gran = s.gran := by unfold State.setC; split <;> rfl
@[simp] theorem State.setC_mem (s : State) (r : BitVec 3) (w : Bool) : (State.setC s r w).mem = s.mem := by unfold State.setC; split <;> rfl
@[simp] theorem State.setC_poison (s : State) (r : BitVec 3) (w : Bool) : (State.setC s r w).poison = s.poison := by unfold State.setC; split <;> rfl
@[simp] theorem State.setC_accPoison (s : State) (r : BitVec 3) (w : Bool) : (State.setC s r w).accPoison = s.accPoison := by unfold State.setC; split <;> rfl
@[simp] theorem State.setC_ctxs (s : State) (r : BitVec 3) (w : Bool) : (State.setC s r w).ctxs = s.ctxs := by unfold State.setC; split <;> rfl
@[simp] theorem State.setC_tlb (s : State) (r : BitVec 3) (w : Bool) : (State.setC s r w).tlb = s.tlb := by unfold State.setC; split <;> rfl
@[simp] theorem State.setC_unit (s : State) (r : BitVec 3) (w : Bool) : (State.setC s r w).unit = s.unit := by unfold State.setC; split <;> rfl
@[simp] theorem State.setC_quay (s : State) (r : BitVec 3) (w : Bool) : (State.setC s r w).quay = s.quay := by unfold State.setC; split <;> rfl
@[simp] theorem State.setC_posted (s : State) (r : BitVec 3) (w : Bool) : (State.setC s r w).posted = s.posted := by unfold State.setC; split <;> rfl
@[simp] theorem State.setC_kv (s : State) (r : BitVec 3) (w : Bool) : (State.setC s r w).kv = s.kv := by unfold State.setC; split <;> rfl
@[simp] theorem State.setC_coll (s : State) (r : BitVec 3) (w : Bool) : (State.setC s r w).coll = s.coll := by unfold State.setC; split <;> rfl
@[simp] theorem State.setC_pkg (s : State) (r : BitVec 3) (w : Bool) : (State.setC s r w).pkg = s.pkg := by unfold State.setC; split <;> rfl
@[simp] theorem State.setC_outbox (s : State) (r : BitVec 3) (w : Bool) : (State.setC s r w).outbox = s.outbox := by unfold State.setC; split <;> rfl
@[simp] theorem State.setC_now (s : State) (r : BitVec 3) (w : Bool) : (State.setC s r w).now = s.now := by unfold State.setC; split <;> rfl
@[simp] theorem State.setC_agenda (s : State) (r : BitVec 3) (w : Bool) : (State.setC s r w).agenda = s.agenda := by unfold State.setC; split <;> rfl
@[simp] theorem State.setC_enqNo (s : State) (r : BitVec 3) (w : Bool) : (State.setC s r w).enqNo = s.enqNo := by unfold State.setC; split <;> rfl
@[simp] theorem State.setC_freeNo (s : State) (r : BitVec 3) (w : Bool) : (State.setC s r w).freeNo = s.freeNo := by unfold State.setC; split <;> rfl
@[simp] theorem State.setC_recent (s : State) (r : BitVec 3) (w : Bool) : (State.setC s r w).recent = s.recent := by unfold State.setC; split <;> rfl

/-! ## setP -/

@[simp] theorem State.setP_core_pc (s : State) (r : BitVec 3) (w : Pred) : (State.setP s r w).core.pc = s.core.pc := by unfold State.setP; split <;> rfl
@[simp] theorem State.setP_core_x (s : State) (r : BitVec 3) (w : Pred) : (State.setP s r w).core.x = s.core.x := by unfold State.setP; split <;> rfl
@[simp] theorem State.setP_core_b (s : State) (r : BitVec 3) (w : Pred) : (State.setP s r w).core.b = s.core.b := by unfold State.setP; split <;> rfl
@[simp] theorem State.setP_core_c (s : State) (r : BitVec 3) (w : Pred) : (State.setP s r w).core.c = s.core.c := by unfold State.setP; split <;> rfl
@[simp] theorem State.setP_core_v (s : State) (r : BitVec 3) (w : Pred) : (State.setP s r w).core.v = s.core.v := by unfold State.setP; split <;> rfl
@[simp] theorem State.setP_core_a (s : State) (r : BitVec 3) (w : Pred) : (State.setP s r w).core.a = s.core.a := by unfold State.setP; split <;> rfl
@[simp] theorem State.setP_core_l (s : State) (r : BitVec 3) (w : Pred) : (State.setP s r w).core.l = s.core.l := by unfold State.setP; split <;> rfl
@[simp] theorem State.setP_core_n (s : State) (r : BitVec 3) (w : Pred) : (State.setP s r w).core.n = s.core.n := by unfold State.setP; split <;> rfl
@[simp] theorem State.setP_core_d (s : State) (r : BitVec 3) (w : Pred) : (State.setP s r w).core.d = s.core.d := by unfold State.setP; split <;> rfl
@[simp] theorem State.setP_core_tk (s : State) (r : BitVec 3) (w : Pred) : (State.setP s r w).core.tk = s.core.tk := by unfold State.setP; split <;> rfl
@[simp] theorem State.setP_core_vfull (s : State) (r : BitVec 3) (w : Pred) : (State.setP s r w).core.vfull = s.core.vfull := by unfold State.setP; split <;> rfl
@[simp] theorem State.setP_core_pfull (s : State) (r : BitVec 3) (w : Pred) : (State.setP s r w).core.pfull = s.core.pfull := by unfold State.setP; split <;> rfl
@[simp] theorem State.setP_core_afull (s : State) (r : BitVec 3) (w : Pred) : (State.setP s r w).core.afull = s.core.afull := by unfold State.setP; split <;> rfl
@[simp] theorem State.setP_core_lmax (s : State) (r : BitVec 3) (w : Pred) : (State.setP s r w).core.lmax = s.core.lmax := by unfold State.setP; split <;> rfl
@[simp] theorem State.setP_core_sys (s : State) (r : BitVec 3) (w : Pred) : (State.setP s r w).core.sys = s.core.sys := by unfold State.setP; split <;> rfl
@[simp] theorem State.setP_core_region (s : State) (r : BitVec 3) (w : Pred) : (State.setP s r w).core.region = s.core.region := by unfold State.setP; split <;> rfl
@[simp] theorem State.setP_core_phase (s : State) (r : BitVec 3) (w : Pred) : (State.setP s r w).core.phase = s.core.phase := by unfold State.setP; split <;> rfl
@[simp] theorem State.setP_core_wait (s : State) (r : BitVec 3) (w : Pred) : (State.setP s r w).core.wait = s.core.wait := by unfold State.setP; split <;> rfl
@[simp] theorem State.setP_core_monitor (s : State) (r : BitVec 3) (w : Pred) : (State.setP s r w).core.monitor = s.core.monitor := by unfold State.setP; split <;> rfl
@[simp] theorem State.setP_core_drainFrom (s : State) (r : BitVec 3) (w : Pred) : (State.setP s r w).core.drainFrom = s.core.drainFrom := by unfold State.setP; split <;> rfl
@[simp] theorem State.setP_core_saved (s : State) (r : BitVec 3) (w : Pred) : (State.setP s r w).core.saved = s.core.saved := by unfold State.setP; split <;> rfl
@[simp] theorem State.setP_core_budgetStopped (s : State) (r : BitVec 3) (w : Pred) : (State.setP s r w).core.budgetStopped = s.core.budgetStopped := by unfold State.setP; split <;> rfl
@[simp] theorem State.setP_core_mtxDone (s : State) (r : BitVec 3) (w : Pred) : (State.setP s r w).core.mtxDone = s.core.mtxDone := by unfold State.setP; split <;> rfl
@[simp] theorem State.setP_core_icache (s : State) (r : BitVec 3) (w : Pred) : (State.setP s r w).core.icache = s.core.icache := by unfold State.setP; split <;> rfl
@[simp] theorem State.setP_core_linkDue (s : State) (r : BitVec 3) (w : Pred) : (State.setP s r w).core.linkDue = s.core.linkDue := by unfold State.setP; split <;> rfl
@[simp] theorem State.setP_core_pending (s : State) (r : BitVec 3) (w : Pred) : (State.setP s r w).core.pending = s.core.pending := by unfold State.setP; split <;> rfl
@[simp] theorem State.setP_core_depth (s : State) (r : BitVec 3) (w : Pred) : (State.setP s r w).core.depth = s.core.depth := by unfold State.setP; split <;> rfl
@[simp] theorem State.setP_core_kept (s : State) (r : BitVec 3) (w : Pred) : (State.setP s r w).core.kept = s.core.kept := by unfold State.setP; split <;> rfl
@[simp] theorem State.setP_q (s : State) (r : BitVec 3) (w : Pred) : (State.setP s r w).q = s.q := by unfold State.setP; split <;> rfl
@[simp] theorem State.setP_spad (s : State) (r : BitVec 3) (w : Pred) : (State.setP s r w).spad = s.spad := by unfold State.setP; split <;> rfl
@[simp] theorem State.setP_gran (s : State) (r : BitVec 3) (w : Pred) : (State.setP s r w).gran = s.gran := by unfold State.setP; split <;> rfl
@[simp] theorem State.setP_mem (s : State) (r : BitVec 3) (w : Pred) : (State.setP s r w).mem = s.mem := by unfold State.setP; split <;> rfl
@[simp] theorem State.setP_poison (s : State) (r : BitVec 3) (w : Pred) : (State.setP s r w).poison = s.poison := by unfold State.setP; split <;> rfl
@[simp] theorem State.setP_accPoison (s : State) (r : BitVec 3) (w : Pred) : (State.setP s r w).accPoison = s.accPoison := by unfold State.setP; split <;> rfl
@[simp] theorem State.setP_ctxs (s : State) (r : BitVec 3) (w : Pred) : (State.setP s r w).ctxs = s.ctxs := by unfold State.setP; split <;> rfl
@[simp] theorem State.setP_tlb (s : State) (r : BitVec 3) (w : Pred) : (State.setP s r w).tlb = s.tlb := by unfold State.setP; split <;> rfl
@[simp] theorem State.setP_unit (s : State) (r : BitVec 3) (w : Pred) : (State.setP s r w).unit = s.unit := by unfold State.setP; split <;> rfl
@[simp] theorem State.setP_quay (s : State) (r : BitVec 3) (w : Pred) : (State.setP s r w).quay = s.quay := by unfold State.setP; split <;> rfl
@[simp] theorem State.setP_posted (s : State) (r : BitVec 3) (w : Pred) : (State.setP s r w).posted = s.posted := by unfold State.setP; split <;> rfl
@[simp] theorem State.setP_kv (s : State) (r : BitVec 3) (w : Pred) : (State.setP s r w).kv = s.kv := by unfold State.setP; split <;> rfl
@[simp] theorem State.setP_coll (s : State) (r : BitVec 3) (w : Pred) : (State.setP s r w).coll = s.coll := by unfold State.setP; split <;> rfl
@[simp] theorem State.setP_pkg (s : State) (r : BitVec 3) (w : Pred) : (State.setP s r w).pkg = s.pkg := by unfold State.setP; split <;> rfl
@[simp] theorem State.setP_outbox (s : State) (r : BitVec 3) (w : Pred) : (State.setP s r w).outbox = s.outbox := by unfold State.setP; split <;> rfl
@[simp] theorem State.setP_now (s : State) (r : BitVec 3) (w : Pred) : (State.setP s r w).now = s.now := by unfold State.setP; split <;> rfl
@[simp] theorem State.setP_agenda (s : State) (r : BitVec 3) (w : Pred) : (State.setP s r w).agenda = s.agenda := by unfold State.setP; split <;> rfl
@[simp] theorem State.setP_enqNo (s : State) (r : BitVec 3) (w : Pred) : (State.setP s r w).enqNo = s.enqNo := by unfold State.setP; split <;> rfl
@[simp] theorem State.setP_freeNo (s : State) (r : BitVec 3) (w : Pred) : (State.setP s r w).freeNo = s.freeNo := by unfold State.setP; split <;> rfl
@[simp] theorem State.setP_recent (s : State) (r : BitVec 3) (w : Pred) : (State.setP s r w).recent = s.recent := by unfold State.setP; split <;> rfl

/-! ## setB -/

@[simp] theorem State.setB_core_pc (s : State) (r : BitVec 2) (w : Word) : (State.setB s r w).core.pc = s.core.pc := rfl
@[simp] theorem State.setB_core_x (s : State) (r : BitVec 2) (w : Word) : (State.setB s r w).core.x = s.core.x := rfl
@[simp] theorem State.setB_core_c (s : State) (r : BitVec 2) (w : Word) : (State.setB s r w).core.c = s.core.c := rfl
@[simp] theorem State.setB_core_v (s : State) (r : BitVec 2) (w : Word) : (State.setB s r w).core.v = s.core.v := rfl
@[simp] theorem State.setB_core_p (s : State) (r : BitVec 2) (w : Word) : (State.setB s r w).core.p = s.core.p := rfl
@[simp] theorem State.setB_core_a (s : State) (r : BitVec 2) (w : Word) : (State.setB s r w).core.a = s.core.a := rfl
@[simp] theorem State.setB_core_l (s : State) (r : BitVec 2) (w : Word) : (State.setB s r w).core.l = s.core.l := rfl
@[simp] theorem State.setB_core_n (s : State) (r : BitVec 2) (w : Word) : (State.setB s r w).core.n = s.core.n := rfl
@[simp] theorem State.setB_core_d (s : State) (r : BitVec 2) (w : Word) : (State.setB s r w).core.d = s.core.d := rfl
@[simp] theorem State.setB_core_tk (s : State) (r : BitVec 2) (w : Word) : (State.setB s r w).core.tk = s.core.tk := rfl
@[simp] theorem State.setB_core_vfull (s : State) (r : BitVec 2) (w : Word) : (State.setB s r w).core.vfull = s.core.vfull := rfl
@[simp] theorem State.setB_core_pfull (s : State) (r : BitVec 2) (w : Word) : (State.setB s r w).core.pfull = s.core.pfull := rfl
@[simp] theorem State.setB_core_afull (s : State) (r : BitVec 2) (w : Word) : (State.setB s r w).core.afull = s.core.afull := rfl
@[simp] theorem State.setB_core_lmax (s : State) (r : BitVec 2) (w : Word) : (State.setB s r w).core.lmax = s.core.lmax := rfl
@[simp] theorem State.setB_core_sys (s : State) (r : BitVec 2) (w : Word) : (State.setB s r w).core.sys = s.core.sys := rfl
@[simp] theorem State.setB_core_region (s : State) (r : BitVec 2) (w : Word) : (State.setB s r w).core.region = s.core.region := rfl
@[simp] theorem State.setB_core_phase (s : State) (r : BitVec 2) (w : Word) : (State.setB s r w).core.phase = s.core.phase := rfl
@[simp] theorem State.setB_core_wait (s : State) (r : BitVec 2) (w : Word) : (State.setB s r w).core.wait = s.core.wait := rfl
@[simp] theorem State.setB_core_monitor (s : State) (r : BitVec 2) (w : Word) : (State.setB s r w).core.monitor = s.core.monitor := rfl
@[simp] theorem State.setB_core_drainFrom (s : State) (r : BitVec 2) (w : Word) : (State.setB s r w).core.drainFrom = s.core.drainFrom := rfl
@[simp] theorem State.setB_core_saved (s : State) (r : BitVec 2) (w : Word) : (State.setB s r w).core.saved = s.core.saved := rfl
@[simp] theorem State.setB_core_budgetStopped (s : State) (r : BitVec 2) (w : Word) : (State.setB s r w).core.budgetStopped = s.core.budgetStopped := rfl
@[simp] theorem State.setB_core_mtxDone (s : State) (r : BitVec 2) (w : Word) : (State.setB s r w).core.mtxDone = s.core.mtxDone := rfl
@[simp] theorem State.setB_core_icache (s : State) (r : BitVec 2) (w : Word) : (State.setB s r w).core.icache = s.core.icache := rfl
@[simp] theorem State.setB_core_pending (s : State) (r : BitVec 2) (w : Word) : (State.setB s r w).core.pending = s.core.pending := rfl
@[simp] theorem State.setB_core_depth (s : State) (r : BitVec 2) (w : Word) : (State.setB s r w).core.depth = s.core.depth := rfl
@[simp] theorem State.setB_core_kept (s : State) (r : BitVec 2) (w : Word) : (State.setB s r w).core.kept = s.core.kept := rfl
@[simp] theorem State.setB_q (s : State) (r : BitVec 2) (w : Word) : (State.setB s r w).q = s.q := rfl
@[simp] theorem State.setB_spad (s : State) (r : BitVec 2) (w : Word) : (State.setB s r w).spad = s.spad := rfl
@[simp] theorem State.setB_gran (s : State) (r : BitVec 2) (w : Word) : (State.setB s r w).gran = s.gran := rfl
@[simp] theorem State.setB_mem (s : State) (r : BitVec 2) (w : Word) : (State.setB s r w).mem = s.mem := rfl
@[simp] theorem State.setB_poison (s : State) (r : BitVec 2) (w : Word) : (State.setB s r w).poison = s.poison := rfl
@[simp] theorem State.setB_accPoison (s : State) (r : BitVec 2) (w : Word) : (State.setB s r w).accPoison = s.accPoison := rfl
@[simp] theorem State.setB_ctxs (s : State) (r : BitVec 2) (w : Word) : (State.setB s r w).ctxs = s.ctxs := rfl
@[simp] theorem State.setB_tlb (s : State) (r : BitVec 2) (w : Word) : (State.setB s r w).tlb = s.tlb := rfl
@[simp] theorem State.setB_unit (s : State) (r : BitVec 2) (w : Word) : (State.setB s r w).unit = s.unit := rfl
@[simp] theorem State.setB_quay (s : State) (r : BitVec 2) (w : Word) : (State.setB s r w).quay = s.quay := rfl
@[simp] theorem State.setB_posted (s : State) (r : BitVec 2) (w : Word) : (State.setB s r w).posted = s.posted := rfl
@[simp] theorem State.setB_kv (s : State) (r : BitVec 2) (w : Word) : (State.setB s r w).kv = s.kv := rfl
@[simp] theorem State.setB_coll (s : State) (r : BitVec 2) (w : Word) : (State.setB s r w).coll = s.coll := rfl
@[simp] theorem State.setB_pkg (s : State) (r : BitVec 2) (w : Word) : (State.setB s r w).pkg = s.pkg := rfl
@[simp] theorem State.setB_outbox (s : State) (r : BitVec 2) (w : Word) : (State.setB s r w).outbox = s.outbox := rfl
@[simp] theorem State.setB_now (s : State) (r : BitVec 2) (w : Word) : (State.setB s r w).now = s.now := rfl
@[simp] theorem State.setB_agenda (s : State) (r : BitVec 2) (w : Word) : (State.setB s r w).agenda = s.agenda := rfl
@[simp] theorem State.setB_enqNo (s : State) (r : BitVec 2) (w : Word) : (State.setB s r w).enqNo = s.enqNo := rfl
@[simp] theorem State.setB_freeNo (s : State) (r : BitVec 2) (w : Word) : (State.setB s r w).freeNo = s.freeNo := rfl
@[simp] theorem State.setB_recent (s : State) (r : BitVec 2) (w : Word) : (State.setB s r w).recent = s.recent := rfl

/-! ## setV -/

@[simp] theorem State.setV_core_pc (s : State) (r : BitVec 5) (w : Vec) : (State.setV s r w).core.pc = s.core.pc := rfl
@[simp] theorem State.setV_core_x (s : State) (r : BitVec 5) (w : Vec) : (State.setV s r w).core.x = s.core.x := rfl
@[simp] theorem State.setV_core_b (s : State) (r : BitVec 5) (w : Vec) : (State.setV s r w).core.b = s.core.b := rfl
@[simp] theorem State.setV_core_c (s : State) (r : BitVec 5) (w : Vec) : (State.setV s r w).core.c = s.core.c := rfl
@[simp] theorem State.setV_core_p (s : State) (r : BitVec 5) (w : Vec) : (State.setV s r w).core.p = s.core.p := rfl
@[simp] theorem State.setV_core_a (s : State) (r : BitVec 5) (w : Vec) : (State.setV s r w).core.a = s.core.a := rfl
@[simp] theorem State.setV_core_l (s : State) (r : BitVec 5) (w : Vec) : (State.setV s r w).core.l = s.core.l := rfl
@[simp] theorem State.setV_core_n (s : State) (r : BitVec 5) (w : Vec) : (State.setV s r w).core.n = s.core.n := rfl
@[simp] theorem State.setV_core_d (s : State) (r : BitVec 5) (w : Vec) : (State.setV s r w).core.d = s.core.d := rfl
@[simp] theorem State.setV_core_tk (s : State) (r : BitVec 5) (w : Vec) : (State.setV s r w).core.tk = s.core.tk := rfl
@[simp] theorem State.setV_core_vfull (s : State) (r : BitVec 5) (w : Vec) : (State.setV s r w).core.vfull = s.core.vfull := rfl
@[simp] theorem State.setV_core_pfull (s : State) (r : BitVec 5) (w : Vec) : (State.setV s r w).core.pfull = s.core.pfull := rfl
@[simp] theorem State.setV_core_afull (s : State) (r : BitVec 5) (w : Vec) : (State.setV s r w).core.afull = s.core.afull := rfl
@[simp] theorem State.setV_core_lmax (s : State) (r : BitVec 5) (w : Vec) : (State.setV s r w).core.lmax = s.core.lmax := rfl
@[simp] theorem State.setV_core_sys (s : State) (r : BitVec 5) (w : Vec) : (State.setV s r w).core.sys = s.core.sys := rfl
@[simp] theorem State.setV_core_region (s : State) (r : BitVec 5) (w : Vec) : (State.setV s r w).core.region = s.core.region := rfl
@[simp] theorem State.setV_core_phase (s : State) (r : BitVec 5) (w : Vec) : (State.setV s r w).core.phase = s.core.phase := rfl
@[simp] theorem State.setV_core_wait (s : State) (r : BitVec 5) (w : Vec) : (State.setV s r w).core.wait = s.core.wait := rfl
@[simp] theorem State.setV_core_monitor (s : State) (r : BitVec 5) (w : Vec) : (State.setV s r w).core.monitor = s.core.monitor := rfl
@[simp] theorem State.setV_core_drainFrom (s : State) (r : BitVec 5) (w : Vec) : (State.setV s r w).core.drainFrom = s.core.drainFrom := rfl
@[simp] theorem State.setV_core_saved (s : State) (r : BitVec 5) (w : Vec) : (State.setV s r w).core.saved = s.core.saved := rfl
@[simp] theorem State.setV_core_budgetStopped (s : State) (r : BitVec 5) (w : Vec) : (State.setV s r w).core.budgetStopped = s.core.budgetStopped := rfl
@[simp] theorem State.setV_core_mtxDone (s : State) (r : BitVec 5) (w : Vec) : (State.setV s r w).core.mtxDone = s.core.mtxDone := rfl
@[simp] theorem State.setV_core_icache (s : State) (r : BitVec 5) (w : Vec) : (State.setV s r w).core.icache = s.core.icache := rfl
@[simp] theorem State.setV_core_linkDue (s : State) (r : BitVec 5) (w : Vec) : (State.setV s r w).core.linkDue = s.core.linkDue := rfl
@[simp] theorem State.setV_core_pending (s : State) (r : BitVec 5) (w : Vec) : (State.setV s r w).core.pending = s.core.pending := rfl
@[simp] theorem State.setV_core_depth (s : State) (r : BitVec 5) (w : Vec) : (State.setV s r w).core.depth = s.core.depth := rfl
@[simp] theorem State.setV_core_kept (s : State) (r : BitVec 5) (w : Vec) : (State.setV s r w).core.kept = s.core.kept := rfl
@[simp] theorem State.setV_q (s : State) (r : BitVec 5) (w : Vec) : (State.setV s r w).q = s.q := rfl
@[simp] theorem State.setV_spad (s : State) (r : BitVec 5) (w : Vec) : (State.setV s r w).spad = s.spad := rfl
@[simp] theorem State.setV_gran (s : State) (r : BitVec 5) (w : Vec) : (State.setV s r w).gran = s.gran := rfl
@[simp] theorem State.setV_mem (s : State) (r : BitVec 5) (w : Vec) : (State.setV s r w).mem = s.mem := rfl
@[simp] theorem State.setV_poison (s : State) (r : BitVec 5) (w : Vec) : (State.setV s r w).poison = s.poison := rfl
@[simp] theorem State.setV_accPoison (s : State) (r : BitVec 5) (w : Vec) : (State.setV s r w).accPoison = s.accPoison := rfl
@[simp] theorem State.setV_ctxs (s : State) (r : BitVec 5) (w : Vec) : (State.setV s r w).ctxs = s.ctxs := rfl
@[simp] theorem State.setV_tlb (s : State) (r : BitVec 5) (w : Vec) : (State.setV s r w).tlb = s.tlb := rfl
@[simp] theorem State.setV_unit (s : State) (r : BitVec 5) (w : Vec) : (State.setV s r w).unit = s.unit := rfl
@[simp] theorem State.setV_quay (s : State) (r : BitVec 5) (w : Vec) : (State.setV s r w).quay = s.quay := rfl
@[simp] theorem State.setV_posted (s : State) (r : BitVec 5) (w : Vec) : (State.setV s r w).posted = s.posted := rfl
@[simp] theorem State.setV_kv (s : State) (r : BitVec 5) (w : Vec) : (State.setV s r w).kv = s.kv := rfl
@[simp] theorem State.setV_coll (s : State) (r : BitVec 5) (w : Vec) : (State.setV s r w).coll = s.coll := rfl
@[simp] theorem State.setV_pkg (s : State) (r : BitVec 5) (w : Vec) : (State.setV s r w).pkg = s.pkg := rfl
@[simp] theorem State.setV_outbox (s : State) (r : BitVec 5) (w : Vec) : (State.setV s r w).outbox = s.outbox := rfl
@[simp] theorem State.setV_now (s : State) (r : BitVec 5) (w : Vec) : (State.setV s r w).now = s.now := rfl
@[simp] theorem State.setV_agenda (s : State) (r : BitVec 5) (w : Vec) : (State.setV s r w).agenda = s.agenda := rfl
@[simp] theorem State.setV_enqNo (s : State) (r : BitVec 5) (w : Vec) : (State.setV s r w).enqNo = s.enqNo := rfl
@[simp] theorem State.setV_freeNo (s : State) (r : BitVec 5) (w : Vec) : (State.setV s r w).freeNo = s.freeNo := rfl
@[simp] theorem State.setV_recent (s : State) (r : BitVec 5) (w : Vec) : (State.setV s r w).recent = s.recent := rfl

/-! ## setD -/

@[simp] theorem State.setD_core_pc (s : State) (r : BitVec 6) (w : BitVec 256) : (State.setD s r w).core.pc = s.core.pc := rfl
@[simp] theorem State.setD_core_x (s : State) (r : BitVec 6) (w : BitVec 256) : (State.setD s r w).core.x = s.core.x := rfl
@[simp] theorem State.setD_core_b (s : State) (r : BitVec 6) (w : BitVec 256) : (State.setD s r w).core.b = s.core.b := rfl
@[simp] theorem State.setD_core_c (s : State) (r : BitVec 6) (w : BitVec 256) : (State.setD s r w).core.c = s.core.c := rfl
@[simp] theorem State.setD_core_v (s : State) (r : BitVec 6) (w : BitVec 256) : (State.setD s r w).core.v = s.core.v := rfl
@[simp] theorem State.setD_core_p (s : State) (r : BitVec 6) (w : BitVec 256) : (State.setD s r w).core.p = s.core.p := rfl
@[simp] theorem State.setD_core_a (s : State) (r : BitVec 6) (w : BitVec 256) : (State.setD s r w).core.a = s.core.a := rfl
@[simp] theorem State.setD_core_l (s : State) (r : BitVec 6) (w : BitVec 256) : (State.setD s r w).core.l = s.core.l := rfl
@[simp] theorem State.setD_core_n (s : State) (r : BitVec 6) (w : BitVec 256) : (State.setD s r w).core.n = s.core.n := rfl
@[simp] theorem State.setD_core_tk (s : State) (r : BitVec 6) (w : BitVec 256) : (State.setD s r w).core.tk = s.core.tk := rfl
@[simp] theorem State.setD_core_vfull (s : State) (r : BitVec 6) (w : BitVec 256) : (State.setD s r w).core.vfull = s.core.vfull := rfl
@[simp] theorem State.setD_core_pfull (s : State) (r : BitVec 6) (w : BitVec 256) : (State.setD s r w).core.pfull = s.core.pfull := rfl
@[simp] theorem State.setD_core_afull (s : State) (r : BitVec 6) (w : BitVec 256) : (State.setD s r w).core.afull = s.core.afull := rfl
@[simp] theorem State.setD_core_lmax (s : State) (r : BitVec 6) (w : BitVec 256) : (State.setD s r w).core.lmax = s.core.lmax := rfl
@[simp] theorem State.setD_core_sys (s : State) (r : BitVec 6) (w : BitVec 256) : (State.setD s r w).core.sys = s.core.sys := rfl
@[simp] theorem State.setD_core_region (s : State) (r : BitVec 6) (w : BitVec 256) : (State.setD s r w).core.region = s.core.region := rfl
@[simp] theorem State.setD_core_phase (s : State) (r : BitVec 6) (w : BitVec 256) : (State.setD s r w).core.phase = s.core.phase := rfl
@[simp] theorem State.setD_core_wait (s : State) (r : BitVec 6) (w : BitVec 256) : (State.setD s r w).core.wait = s.core.wait := rfl
@[simp] theorem State.setD_core_monitor (s : State) (r : BitVec 6) (w : BitVec 256) : (State.setD s r w).core.monitor = s.core.monitor := rfl
@[simp] theorem State.setD_core_drainFrom (s : State) (r : BitVec 6) (w : BitVec 256) : (State.setD s r w).core.drainFrom = s.core.drainFrom := rfl
@[simp] theorem State.setD_core_saved (s : State) (r : BitVec 6) (w : BitVec 256) : (State.setD s r w).core.saved = s.core.saved := rfl
@[simp] theorem State.setD_core_budgetStopped (s : State) (r : BitVec 6) (w : BitVec 256) : (State.setD s r w).core.budgetStopped = s.core.budgetStopped := rfl
@[simp] theorem State.setD_core_mtxDone (s : State) (r : BitVec 6) (w : BitVec 256) : (State.setD s r w).core.mtxDone = s.core.mtxDone := rfl
@[simp] theorem State.setD_core_icache (s : State) (r : BitVec 6) (w : BitVec 256) : (State.setD s r w).core.icache = s.core.icache := rfl
@[simp] theorem State.setD_core_linkDue (s : State) (r : BitVec 6) (w : BitVec 256) : (State.setD s r w).core.linkDue = s.core.linkDue := rfl
@[simp] theorem State.setD_core_pending (s : State) (r : BitVec 6) (w : BitVec 256) : (State.setD s r w).core.pending = s.core.pending := rfl
@[simp] theorem State.setD_core_depth (s : State) (r : BitVec 6) (w : BitVec 256) : (State.setD s r w).core.depth = s.core.depth := rfl
@[simp] theorem State.setD_core_kept (s : State) (r : BitVec 6) (w : BitVec 256) : (State.setD s r w).core.kept = s.core.kept := rfl
@[simp] theorem State.setD_q (s : State) (r : BitVec 6) (w : BitVec 256) : (State.setD s r w).q = s.q := rfl
@[simp] theorem State.setD_spad (s : State) (r : BitVec 6) (w : BitVec 256) : (State.setD s r w).spad = s.spad := rfl
@[simp] theorem State.setD_gran (s : State) (r : BitVec 6) (w : BitVec 256) : (State.setD s r w).gran = s.gran := rfl
@[simp] theorem State.setD_mem (s : State) (r : BitVec 6) (w : BitVec 256) : (State.setD s r w).mem = s.mem := rfl
@[simp] theorem State.setD_poison (s : State) (r : BitVec 6) (w : BitVec 256) : (State.setD s r w).poison = s.poison := rfl
@[simp] theorem State.setD_accPoison (s : State) (r : BitVec 6) (w : BitVec 256) : (State.setD s r w).accPoison = s.accPoison := rfl
@[simp] theorem State.setD_ctxs (s : State) (r : BitVec 6) (w : BitVec 256) : (State.setD s r w).ctxs = s.ctxs := rfl
@[simp] theorem State.setD_tlb (s : State) (r : BitVec 6) (w : BitVec 256) : (State.setD s r w).tlb = s.tlb := rfl
@[simp] theorem State.setD_unit (s : State) (r : BitVec 6) (w : BitVec 256) : (State.setD s r w).unit = s.unit := rfl
@[simp] theorem State.setD_quay (s : State) (r : BitVec 6) (w : BitVec 256) : (State.setD s r w).quay = s.quay := rfl
@[simp] theorem State.setD_posted (s : State) (r : BitVec 6) (w : BitVec 256) : (State.setD s r w).posted = s.posted := rfl
@[simp] theorem State.setD_kv (s : State) (r : BitVec 6) (w : BitVec 256) : (State.setD s r w).kv = s.kv := rfl
@[simp] theorem State.setD_coll (s : State) (r : BitVec 6) (w : BitVec 256) : (State.setD s r w).coll = s.coll := rfl
@[simp] theorem State.setD_pkg (s : State) (r : BitVec 6) (w : BitVec 256) : (State.setD s r w).pkg = s.pkg := rfl
@[simp] theorem State.setD_outbox (s : State) (r : BitVec 6) (w : BitVec 256) : (State.setD s r w).outbox = s.outbox := rfl
@[simp] theorem State.setD_now (s : State) (r : BitVec 6) (w : BitVec 256) : (State.setD s r w).now = s.now := rfl
@[simp] theorem State.setD_agenda (s : State) (r : BitVec 6) (w : BitVec 256) : (State.setD s r w).agenda = s.agenda := rfl
@[simp] theorem State.setD_enqNo (s : State) (r : BitVec 6) (w : BitVec 256) : (State.setD s r w).enqNo = s.enqNo := rfl
@[simp] theorem State.setD_freeNo (s : State) (r : BitVec 6) (w : BitVec 256) : (State.setD s r w).freeNo = s.freeNo := rfl
@[simp] theorem State.setD_recent (s : State) (r : BitVec 6) (w : BitVec 256) : (State.setD s r w).recent = s.recent := rfl

/-! ## setN -/

@[simp] theorem State.setN_core_pc (s : State) (r : BitVec 3) (w : BitVec 1024) : (State.setN s r w).core.pc = s.core.pc := rfl
@[simp] theorem State.setN_core_x (s : State) (r : BitVec 3) (w : BitVec 1024) : (State.setN s r w).core.x = s.core.x := rfl
@[simp] theorem State.setN_core_b (s : State) (r : BitVec 3) (w : BitVec 1024) : (State.setN s r w).core.b = s.core.b := rfl
@[simp] theorem State.setN_core_c (s : State) (r : BitVec 3) (w : BitVec 1024) : (State.setN s r w).core.c = s.core.c := rfl
@[simp] theorem State.setN_core_v (s : State) (r : BitVec 3) (w : BitVec 1024) : (State.setN s r w).core.v = s.core.v := rfl
@[simp] theorem State.setN_core_p (s : State) (r : BitVec 3) (w : BitVec 1024) : (State.setN s r w).core.p = s.core.p := rfl
@[simp] theorem State.setN_core_a (s : State) (r : BitVec 3) (w : BitVec 1024) : (State.setN s r w).core.a = s.core.a := rfl
@[simp] theorem State.setN_core_l (s : State) (r : BitVec 3) (w : BitVec 1024) : (State.setN s r w).core.l = s.core.l := rfl
@[simp] theorem State.setN_core_d (s : State) (r : BitVec 3) (w : BitVec 1024) : (State.setN s r w).core.d = s.core.d := rfl
@[simp] theorem State.setN_core_tk (s : State) (r : BitVec 3) (w : BitVec 1024) : (State.setN s r w).core.tk = s.core.tk := rfl
@[simp] theorem State.setN_core_vfull (s : State) (r : BitVec 3) (w : BitVec 1024) : (State.setN s r w).core.vfull = s.core.vfull := rfl
@[simp] theorem State.setN_core_pfull (s : State) (r : BitVec 3) (w : BitVec 1024) : (State.setN s r w).core.pfull = s.core.pfull := rfl
@[simp] theorem State.setN_core_afull (s : State) (r : BitVec 3) (w : BitVec 1024) : (State.setN s r w).core.afull = s.core.afull := rfl
@[simp] theorem State.setN_core_lmax (s : State) (r : BitVec 3) (w : BitVec 1024) : (State.setN s r w).core.lmax = s.core.lmax := rfl
@[simp] theorem State.setN_core_sys (s : State) (r : BitVec 3) (w : BitVec 1024) : (State.setN s r w).core.sys = s.core.sys := rfl
@[simp] theorem State.setN_core_region (s : State) (r : BitVec 3) (w : BitVec 1024) : (State.setN s r w).core.region = s.core.region := rfl
@[simp] theorem State.setN_core_phase (s : State) (r : BitVec 3) (w : BitVec 1024) : (State.setN s r w).core.phase = s.core.phase := rfl
@[simp] theorem State.setN_core_wait (s : State) (r : BitVec 3) (w : BitVec 1024) : (State.setN s r w).core.wait = s.core.wait := rfl
@[simp] theorem State.setN_core_monitor (s : State) (r : BitVec 3) (w : BitVec 1024) : (State.setN s r w).core.monitor = s.core.monitor := rfl
@[simp] theorem State.setN_core_drainFrom (s : State) (r : BitVec 3) (w : BitVec 1024) : (State.setN s r w).core.drainFrom = s.core.drainFrom := rfl
@[simp] theorem State.setN_core_saved (s : State) (r : BitVec 3) (w : BitVec 1024) : (State.setN s r w).core.saved = s.core.saved := rfl
@[simp] theorem State.setN_core_budgetStopped (s : State) (r : BitVec 3) (w : BitVec 1024) : (State.setN s r w).core.budgetStopped = s.core.budgetStopped := rfl
@[simp] theorem State.setN_core_mtxDone (s : State) (r : BitVec 3) (w : BitVec 1024) : (State.setN s r w).core.mtxDone = s.core.mtxDone := rfl
@[simp] theorem State.setN_core_icache (s : State) (r : BitVec 3) (w : BitVec 1024) : (State.setN s r w).core.icache = s.core.icache := rfl
@[simp] theorem State.setN_core_linkDue (s : State) (r : BitVec 3) (w : BitVec 1024) : (State.setN s r w).core.linkDue = s.core.linkDue := rfl
@[simp] theorem State.setN_core_pending (s : State) (r : BitVec 3) (w : BitVec 1024) : (State.setN s r w).core.pending = s.core.pending := rfl
@[simp] theorem State.setN_core_depth (s : State) (r : BitVec 3) (w : BitVec 1024) : (State.setN s r w).core.depth = s.core.depth := rfl
@[simp] theorem State.setN_core_kept (s : State) (r : BitVec 3) (w : BitVec 1024) : (State.setN s r w).core.kept = s.core.kept := rfl
@[simp] theorem State.setN_q (s : State) (r : BitVec 3) (w : BitVec 1024) : (State.setN s r w).q = s.q := rfl
@[simp] theorem State.setN_spad (s : State) (r : BitVec 3) (w : BitVec 1024) : (State.setN s r w).spad = s.spad := rfl
@[simp] theorem State.setN_gran (s : State) (r : BitVec 3) (w : BitVec 1024) : (State.setN s r w).gran = s.gran := rfl
@[simp] theorem State.setN_mem (s : State) (r : BitVec 3) (w : BitVec 1024) : (State.setN s r w).mem = s.mem := rfl
@[simp] theorem State.setN_poison (s : State) (r : BitVec 3) (w : BitVec 1024) : (State.setN s r w).poison = s.poison := rfl
@[simp] theorem State.setN_accPoison (s : State) (r : BitVec 3) (w : BitVec 1024) : (State.setN s r w).accPoison = s.accPoison := rfl
@[simp] theorem State.setN_ctxs (s : State) (r : BitVec 3) (w : BitVec 1024) : (State.setN s r w).ctxs = s.ctxs := rfl
@[simp] theorem State.setN_tlb (s : State) (r : BitVec 3) (w : BitVec 1024) : (State.setN s r w).tlb = s.tlb := rfl
@[simp] theorem State.setN_unit (s : State) (r : BitVec 3) (w : BitVec 1024) : (State.setN s r w).unit = s.unit := rfl
@[simp] theorem State.setN_quay (s : State) (r : BitVec 3) (w : BitVec 1024) : (State.setN s r w).quay = s.quay := rfl
@[simp] theorem State.setN_posted (s : State) (r : BitVec 3) (w : BitVec 1024) : (State.setN s r w).posted = s.posted := rfl
@[simp] theorem State.setN_kv (s : State) (r : BitVec 3) (w : BitVec 1024) : (State.setN s r w).kv = s.kv := rfl
@[simp] theorem State.setN_coll (s : State) (r : BitVec 3) (w : BitVec 1024) : (State.setN s r w).coll = s.coll := rfl
@[simp] theorem State.setN_pkg (s : State) (r : BitVec 3) (w : BitVec 1024) : (State.setN s r w).pkg = s.pkg := rfl
@[simp] theorem State.setN_outbox (s : State) (r : BitVec 3) (w : BitVec 1024) : (State.setN s r w).outbox = s.outbox := rfl
@[simp] theorem State.setN_now (s : State) (r : BitVec 3) (w : BitVec 1024) : (State.setN s r w).now = s.now := rfl
@[simp] theorem State.setN_agenda (s : State) (r : BitVec 3) (w : BitVec 1024) : (State.setN s r w).agenda = s.agenda := rfl
@[simp] theorem State.setN_enqNo (s : State) (r : BitVec 3) (w : BitVec 1024) : (State.setN s r w).enqNo = s.enqNo := rfl
@[simp] theorem State.setN_freeNo (s : State) (r : BitVec 3) (w : BitVec 1024) : (State.setN s r w).freeNo = s.freeNo := rfl
@[simp] theorem State.setN_recent (s : State) (r : BitVec 3) (w : BitVec 1024) : (State.setN s r w).recent = s.recent := rfl

/-! ## setToken -/

@[simp] theorem State.setToken_core_pc (s : State) (r : BitVec 4) (w : BitVec 16) : (State.setToken s r w).core.pc = s.core.pc := rfl
@[simp] theorem State.setToken_core_x (s : State) (r : BitVec 4) (w : BitVec 16) : (State.setToken s r w).core.x = s.core.x := rfl
@[simp] theorem State.setToken_core_b (s : State) (r : BitVec 4) (w : BitVec 16) : (State.setToken s r w).core.b = s.core.b := rfl
@[simp] theorem State.setToken_core_c (s : State) (r : BitVec 4) (w : BitVec 16) : (State.setToken s r w).core.c = s.core.c := rfl
@[simp] theorem State.setToken_core_v (s : State) (r : BitVec 4) (w : BitVec 16) : (State.setToken s r w).core.v = s.core.v := rfl
@[simp] theorem State.setToken_core_p (s : State) (r : BitVec 4) (w : BitVec 16) : (State.setToken s r w).core.p = s.core.p := rfl
@[simp] theorem State.setToken_core_a (s : State) (r : BitVec 4) (w : BitVec 16) : (State.setToken s r w).core.a = s.core.a := rfl
@[simp] theorem State.setToken_core_l (s : State) (r : BitVec 4) (w : BitVec 16) : (State.setToken s r w).core.l = s.core.l := rfl
@[simp] theorem State.setToken_core_n (s : State) (r : BitVec 4) (w : BitVec 16) : (State.setToken s r w).core.n = s.core.n := rfl
@[simp] theorem State.setToken_core_d (s : State) (r : BitVec 4) (w : BitVec 16) : (State.setToken s r w).core.d = s.core.d := rfl
@[simp] theorem State.setToken_core_vfull (s : State) (r : BitVec 4) (w : BitVec 16) : (State.setToken s r w).core.vfull = s.core.vfull := rfl
@[simp] theorem State.setToken_core_pfull (s : State) (r : BitVec 4) (w : BitVec 16) : (State.setToken s r w).core.pfull = s.core.pfull := rfl
@[simp] theorem State.setToken_core_afull (s : State) (r : BitVec 4) (w : BitVec 16) : (State.setToken s r w).core.afull = s.core.afull := rfl
@[simp] theorem State.setToken_core_lmax (s : State) (r : BitVec 4) (w : BitVec 16) : (State.setToken s r w).core.lmax = s.core.lmax := rfl
@[simp] theorem State.setToken_core_sys (s : State) (r : BitVec 4) (w : BitVec 16) : (State.setToken s r w).core.sys = s.core.sys := rfl
@[simp] theorem State.setToken_core_region (s : State) (r : BitVec 4) (w : BitVec 16) : (State.setToken s r w).core.region = s.core.region := rfl
@[simp] theorem State.setToken_core_phase (s : State) (r : BitVec 4) (w : BitVec 16) : (State.setToken s r w).core.phase = s.core.phase := rfl
@[simp] theorem State.setToken_core_wait (s : State) (r : BitVec 4) (w : BitVec 16) : (State.setToken s r w).core.wait = s.core.wait := rfl
@[simp] theorem State.setToken_core_monitor (s : State) (r : BitVec 4) (w : BitVec 16) : (State.setToken s r w).core.monitor = s.core.monitor := rfl
@[simp] theorem State.setToken_core_drainFrom (s : State) (r : BitVec 4) (w : BitVec 16) : (State.setToken s r w).core.drainFrom = s.core.drainFrom := rfl
@[simp] theorem State.setToken_core_saved (s : State) (r : BitVec 4) (w : BitVec 16) : (State.setToken s r w).core.saved = s.core.saved := rfl
@[simp] theorem State.setToken_core_budgetStopped (s : State) (r : BitVec 4) (w : BitVec 16) : (State.setToken s r w).core.budgetStopped = s.core.budgetStopped := rfl
@[simp] theorem State.setToken_core_mtxDone (s : State) (r : BitVec 4) (w : BitVec 16) : (State.setToken s r w).core.mtxDone = s.core.mtxDone := rfl
@[simp] theorem State.setToken_core_icache (s : State) (r : BitVec 4) (w : BitVec 16) : (State.setToken s r w).core.icache = s.core.icache := rfl
@[simp] theorem State.setToken_core_linkDue (s : State) (r : BitVec 4) (w : BitVec 16) : (State.setToken s r w).core.linkDue = s.core.linkDue := rfl
@[simp] theorem State.setToken_core_pending (s : State) (r : BitVec 4) (w : BitVec 16) : (State.setToken s r w).core.pending = s.core.pending := rfl
@[simp] theorem State.setToken_core_depth (s : State) (r : BitVec 4) (w : BitVec 16) : (State.setToken s r w).core.depth = s.core.depth := rfl
@[simp] theorem State.setToken_core_kept (s : State) (r : BitVec 4) (w : BitVec 16) : (State.setToken s r w).core.kept = s.core.kept := rfl
@[simp] theorem State.setToken_q (s : State) (r : BitVec 4) (w : BitVec 16) : (State.setToken s r w).q = s.q := rfl
@[simp] theorem State.setToken_spad (s : State) (r : BitVec 4) (w : BitVec 16) : (State.setToken s r w).spad = s.spad := rfl
@[simp] theorem State.setToken_gran (s : State) (r : BitVec 4) (w : BitVec 16) : (State.setToken s r w).gran = s.gran := rfl
@[simp] theorem State.setToken_mem (s : State) (r : BitVec 4) (w : BitVec 16) : (State.setToken s r w).mem = s.mem := rfl
@[simp] theorem State.setToken_poison (s : State) (r : BitVec 4) (w : BitVec 16) : (State.setToken s r w).poison = s.poison := rfl
@[simp] theorem State.setToken_accPoison (s : State) (r : BitVec 4) (w : BitVec 16) : (State.setToken s r w).accPoison = s.accPoison := rfl
@[simp] theorem State.setToken_ctxs (s : State) (r : BitVec 4) (w : BitVec 16) : (State.setToken s r w).ctxs = s.ctxs := rfl
@[simp] theorem State.setToken_tlb (s : State) (r : BitVec 4) (w : BitVec 16) : (State.setToken s r w).tlb = s.tlb := rfl
@[simp] theorem State.setToken_unit (s : State) (r : BitVec 4) (w : BitVec 16) : (State.setToken s r w).unit = s.unit := rfl
@[simp] theorem State.setToken_quay (s : State) (r : BitVec 4) (w : BitVec 16) : (State.setToken s r w).quay = s.quay := rfl
@[simp] theorem State.setToken_posted (s : State) (r : BitVec 4) (w : BitVec 16) : (State.setToken s r w).posted = s.posted := rfl
@[simp] theorem State.setToken_kv (s : State) (r : BitVec 4) (w : BitVec 16) : (State.setToken s r w).kv = s.kv := rfl
@[simp] theorem State.setToken_coll (s : State) (r : BitVec 4) (w : BitVec 16) : (State.setToken s r w).coll = s.coll := rfl
@[simp] theorem State.setToken_pkg (s : State) (r : BitVec 4) (w : BitVec 16) : (State.setToken s r w).pkg = s.pkg := rfl
@[simp] theorem State.setToken_outbox (s : State) (r : BitVec 4) (w : BitVec 16) : (State.setToken s r w).outbox = s.outbox := rfl
@[simp] theorem State.setToken_now (s : State) (r : BitVec 4) (w : BitVec 16) : (State.setToken s r w).now = s.now := rfl
@[simp] theorem State.setToken_agenda (s : State) (r : BitVec 4) (w : BitVec 16) : (State.setToken s r w).agenda = s.agenda := rfl
@[simp] theorem State.setToken_enqNo (s : State) (r : BitVec 4) (w : BitVec 16) : (State.setToken s r w).enqNo = s.enqNo := rfl
@[simp] theorem State.setToken_freeNo (s : State) (r : BitVec 4) (w : BitVec 16) : (State.setToken s r w).freeNo = s.freeNo := rfl
@[simp] theorem State.setToken_recent (s : State) (r : BitVec 4) (w : BitVec 16) : (State.setToken s r w).recent = s.recent := rfl

/-! ## setSys -/

@[simp] theorem State.setSys_core_pc (s : State) (f : SysRegs → SysRegs) : (State.setSys s f).core.pc = s.core.pc := rfl
@[simp] theorem State.setSys_core_x (s : State) (f : SysRegs → SysRegs) : (State.setSys s f).core.x = s.core.x := rfl
@[simp] theorem State.setSys_core_b (s : State) (f : SysRegs → SysRegs) : (State.setSys s f).core.b = s.core.b := rfl
@[simp] theorem State.setSys_core_c (s : State) (f : SysRegs → SysRegs) : (State.setSys s f).core.c = s.core.c := rfl
@[simp] theorem State.setSys_core_v (s : State) (f : SysRegs → SysRegs) : (State.setSys s f).core.v = s.core.v := rfl
@[simp] theorem State.setSys_core_p (s : State) (f : SysRegs → SysRegs) : (State.setSys s f).core.p = s.core.p := rfl
@[simp] theorem State.setSys_core_a (s : State) (f : SysRegs → SysRegs) : (State.setSys s f).core.a = s.core.a := rfl
@[simp] theorem State.setSys_core_l (s : State) (f : SysRegs → SysRegs) : (State.setSys s f).core.l = s.core.l := rfl
@[simp] theorem State.setSys_core_n (s : State) (f : SysRegs → SysRegs) : (State.setSys s f).core.n = s.core.n := rfl
@[simp] theorem State.setSys_core_d (s : State) (f : SysRegs → SysRegs) : (State.setSys s f).core.d = s.core.d := rfl
@[simp] theorem State.setSys_core_tk (s : State) (f : SysRegs → SysRegs) : (State.setSys s f).core.tk = s.core.tk := rfl
@[simp] theorem State.setSys_core_vfull (s : State) (f : SysRegs → SysRegs) : (State.setSys s f).core.vfull = s.core.vfull := rfl
@[simp] theorem State.setSys_core_pfull (s : State) (f : SysRegs → SysRegs) : (State.setSys s f).core.pfull = s.core.pfull := rfl
@[simp] theorem State.setSys_core_afull (s : State) (f : SysRegs → SysRegs) : (State.setSys s f).core.afull = s.core.afull := rfl
@[simp] theorem State.setSys_core_lmax (s : State) (f : SysRegs → SysRegs) : (State.setSys s f).core.lmax = s.core.lmax := rfl
@[simp] theorem State.setSys_core_region (s : State) (f : SysRegs → SysRegs) : (State.setSys s f).core.region = s.core.region := rfl
@[simp] theorem State.setSys_core_phase (s : State) (f : SysRegs → SysRegs) : (State.setSys s f).core.phase = s.core.phase := rfl
@[simp] theorem State.setSys_core_wait (s : State) (f : SysRegs → SysRegs) : (State.setSys s f).core.wait = s.core.wait := rfl
@[simp] theorem State.setSys_core_monitor (s : State) (f : SysRegs → SysRegs) : (State.setSys s f).core.monitor = s.core.monitor := rfl
@[simp] theorem State.setSys_core_drainFrom (s : State) (f : SysRegs → SysRegs) : (State.setSys s f).core.drainFrom = s.core.drainFrom := rfl
@[simp] theorem State.setSys_core_saved (s : State) (f : SysRegs → SysRegs) : (State.setSys s f).core.saved = s.core.saved := rfl
@[simp] theorem State.setSys_core_budgetStopped (s : State) (f : SysRegs → SysRegs) : (State.setSys s f).core.budgetStopped = s.core.budgetStopped := rfl
@[simp] theorem State.setSys_core_mtxDone (s : State) (f : SysRegs → SysRegs) : (State.setSys s f).core.mtxDone = s.core.mtxDone := rfl
@[simp] theorem State.setSys_core_icache (s : State) (f : SysRegs → SysRegs) : (State.setSys s f).core.icache = s.core.icache := rfl
@[simp] theorem State.setSys_core_linkDue (s : State) (f : SysRegs → SysRegs) : (State.setSys s f).core.linkDue = s.core.linkDue := rfl
@[simp] theorem State.setSys_core_pending (s : State) (f : SysRegs → SysRegs) : (State.setSys s f).core.pending = s.core.pending := rfl
@[simp] theorem State.setSys_core_depth (s : State) (f : SysRegs → SysRegs) : (State.setSys s f).core.depth = s.core.depth := rfl
@[simp] theorem State.setSys_core_kept (s : State) (f : SysRegs → SysRegs) : (State.setSys s f).core.kept = s.core.kept := rfl
@[simp] theorem State.setSys_q (s : State) (f : SysRegs → SysRegs) : (State.setSys s f).q = s.q := rfl
@[simp] theorem State.setSys_spad (s : State) (f : SysRegs → SysRegs) : (State.setSys s f).spad = s.spad := rfl
@[simp] theorem State.setSys_gran (s : State) (f : SysRegs → SysRegs) : (State.setSys s f).gran = s.gran := rfl
@[simp] theorem State.setSys_mem (s : State) (f : SysRegs → SysRegs) : (State.setSys s f).mem = s.mem := rfl
@[simp] theorem State.setSys_poison (s : State) (f : SysRegs → SysRegs) : (State.setSys s f).poison = s.poison := rfl
@[simp] theorem State.setSys_accPoison (s : State) (f : SysRegs → SysRegs) : (State.setSys s f).accPoison = s.accPoison := rfl
@[simp] theorem State.setSys_ctxs (s : State) (f : SysRegs → SysRegs) : (State.setSys s f).ctxs = s.ctxs := rfl
@[simp] theorem State.setSys_tlb (s : State) (f : SysRegs → SysRegs) : (State.setSys s f).tlb = s.tlb := rfl
@[simp] theorem State.setSys_unit (s : State) (f : SysRegs → SysRegs) : (State.setSys s f).unit = s.unit := rfl
@[simp] theorem State.setSys_quay (s : State) (f : SysRegs → SysRegs) : (State.setSys s f).quay = s.quay := rfl
@[simp] theorem State.setSys_posted (s : State) (f : SysRegs → SysRegs) : (State.setSys s f).posted = s.posted := rfl
@[simp] theorem State.setSys_kv (s : State) (f : SysRegs → SysRegs) : (State.setSys s f).kv = s.kv := rfl
@[simp] theorem State.setSys_coll (s : State) (f : SysRegs → SysRegs) : (State.setSys s f).coll = s.coll := rfl
@[simp] theorem State.setSys_pkg (s : State) (f : SysRegs → SysRegs) : (State.setSys s f).pkg = s.pkg := rfl
@[simp] theorem State.setSys_outbox (s : State) (f : SysRegs → SysRegs) : (State.setSys s f).outbox = s.outbox := rfl
@[simp] theorem State.setSys_now (s : State) (f : SysRegs → SysRegs) : (State.setSys s f).now = s.now := rfl
@[simp] theorem State.setSys_agenda (s : State) (f : SysRegs → SysRegs) : (State.setSys s f).agenda = s.agenda := rfl
@[simp] theorem State.setSys_enqNo (s : State) (f : SysRegs → SysRegs) : (State.setSys s f).enqNo = s.enqNo := rfl
@[simp] theorem State.setSys_freeNo (s : State) (f : SysRegs → SysRegs) : (State.setSys s f).freeNo = s.freeNo := rfl
@[simp] theorem State.setSys_recent (s : State) (f : SysRegs → SysRegs) : (State.setSys s f).recent = s.recent := rfl

/-! ## setFullBits -/

@[simp] theorem State.setFullBits_core_pc (s : State) (r : RegSet) : (State.setFullBits s r).core.pc = s.core.pc := rfl
@[simp] theorem State.setFullBits_core_x (s : State) (r : RegSet) : (State.setFullBits s r).core.x = s.core.x := rfl
@[simp] theorem State.setFullBits_core_b (s : State) (r : RegSet) : (State.setFullBits s r).core.b = s.core.b := rfl
@[simp] theorem State.setFullBits_core_c (s : State) (r : RegSet) : (State.setFullBits s r).core.c = s.core.c := rfl
@[simp] theorem State.setFullBits_core_v (s : State) (r : RegSet) : (State.setFullBits s r).core.v = s.core.v := rfl
@[simp] theorem State.setFullBits_core_p (s : State) (r : RegSet) : (State.setFullBits s r).core.p = s.core.p := rfl
@[simp] theorem State.setFullBits_core_a (s : State) (r : RegSet) : (State.setFullBits s r).core.a = s.core.a := rfl
@[simp] theorem State.setFullBits_core_l (s : State) (r : RegSet) : (State.setFullBits s r).core.l = s.core.l := rfl
@[simp] theorem State.setFullBits_core_n (s : State) (r : RegSet) : (State.setFullBits s r).core.n = s.core.n := rfl
@[simp] theorem State.setFullBits_core_d (s : State) (r : RegSet) : (State.setFullBits s r).core.d = s.core.d := rfl
@[simp] theorem State.setFullBits_core_tk (s : State) (r : RegSet) : (State.setFullBits s r).core.tk = s.core.tk := rfl
@[simp] theorem State.setFullBits_core_lmax (s : State) (r : RegSet) : (State.setFullBits s r).core.lmax = s.core.lmax := rfl
@[simp] theorem State.setFullBits_core_sys (s : State) (r : RegSet) : (State.setFullBits s r).core.sys = s.core.sys := rfl
@[simp] theorem State.setFullBits_core_region (s : State) (r : RegSet) : (State.setFullBits s r).core.region = s.core.region := rfl
@[simp] theorem State.setFullBits_core_phase (s : State) (r : RegSet) : (State.setFullBits s r).core.phase = s.core.phase := rfl
@[simp] theorem State.setFullBits_core_wait (s : State) (r : RegSet) : (State.setFullBits s r).core.wait = s.core.wait := rfl
@[simp] theorem State.setFullBits_core_monitor (s : State) (r : RegSet) : (State.setFullBits s r).core.monitor = s.core.monitor := rfl
@[simp] theorem State.setFullBits_core_drainFrom (s : State) (r : RegSet) : (State.setFullBits s r).core.drainFrom = s.core.drainFrom := rfl
@[simp] theorem State.setFullBits_core_saved (s : State) (r : RegSet) : (State.setFullBits s r).core.saved = s.core.saved := rfl
@[simp] theorem State.setFullBits_core_budgetStopped (s : State) (r : RegSet) : (State.setFullBits s r).core.budgetStopped = s.core.budgetStopped := rfl
@[simp] theorem State.setFullBits_core_mtxDone (s : State) (r : RegSet) : (State.setFullBits s r).core.mtxDone = s.core.mtxDone := rfl
@[simp] theorem State.setFullBits_core_icache (s : State) (r : RegSet) : (State.setFullBits s r).core.icache = s.core.icache := rfl
@[simp] theorem State.setFullBits_core_linkDue (s : State) (r : RegSet) : (State.setFullBits s r).core.linkDue = s.core.linkDue := rfl
@[simp] theorem State.setFullBits_core_pending (s : State) (r : RegSet) : (State.setFullBits s r).core.pending = s.core.pending := rfl
@[simp] theorem State.setFullBits_core_depth (s : State) (r : RegSet) : (State.setFullBits s r).core.depth = s.core.depth := rfl
@[simp] theorem State.setFullBits_core_kept (s : State) (r : RegSet) : (State.setFullBits s r).core.kept = s.core.kept := rfl
@[simp] theorem State.setFullBits_q (s : State) (r : RegSet) : (State.setFullBits s r).q = s.q := rfl
@[simp] theorem State.setFullBits_spad (s : State) (r : RegSet) : (State.setFullBits s r).spad = s.spad := rfl
@[simp] theorem State.setFullBits_gran (s : State) (r : RegSet) : (State.setFullBits s r).gran = s.gran := rfl
@[simp] theorem State.setFullBits_mem (s : State) (r : RegSet) : (State.setFullBits s r).mem = s.mem := rfl
@[simp] theorem State.setFullBits_poison (s : State) (r : RegSet) : (State.setFullBits s r).poison = s.poison := rfl
@[simp] theorem State.setFullBits_accPoison (s : State) (r : RegSet) : (State.setFullBits s r).accPoison = s.accPoison := rfl
@[simp] theorem State.setFullBits_ctxs (s : State) (r : RegSet) : (State.setFullBits s r).ctxs = s.ctxs := rfl
@[simp] theorem State.setFullBits_tlb (s : State) (r : RegSet) : (State.setFullBits s r).tlb = s.tlb := rfl
@[simp] theorem State.setFullBits_unit (s : State) (r : RegSet) : (State.setFullBits s r).unit = s.unit := rfl
@[simp] theorem State.setFullBits_quay (s : State) (r : RegSet) : (State.setFullBits s r).quay = s.quay := rfl
@[simp] theorem State.setFullBits_posted (s : State) (r : RegSet) : (State.setFullBits s r).posted = s.posted := rfl
@[simp] theorem State.setFullBits_kv (s : State) (r : RegSet) : (State.setFullBits s r).kv = s.kv := rfl
@[simp] theorem State.setFullBits_coll (s : State) (r : RegSet) : (State.setFullBits s r).coll = s.coll := rfl
@[simp] theorem State.setFullBits_pkg (s : State) (r : RegSet) : (State.setFullBits s r).pkg = s.pkg := rfl
@[simp] theorem State.setFullBits_outbox (s : State) (r : RegSet) : (State.setFullBits s r).outbox = s.outbox := rfl
@[simp] theorem State.setFullBits_now (s : State) (r : RegSet) : (State.setFullBits s r).now = s.now := rfl
@[simp] theorem State.setFullBits_agenda (s : State) (r : RegSet) : (State.setFullBits s r).agenda = s.agenda := rfl
@[simp] theorem State.setFullBits_enqNo (s : State) (r : RegSet) : (State.setFullBits s r).enqNo = s.enqNo := rfl
@[simp] theorem State.setFullBits_freeNo (s : State) (r : RegSet) : (State.setFullBits s r).freeNo = s.freeNo := rfl
@[simp] theorem State.setFullBits_recent (s : State) (r : RegSet) : (State.setFullBits s r).recent = s.recent := rfl

/-! ## nextPc -/

@[simp] theorem State.nextPc_core_x (s : State) (w : Nat) : (State.nextPc s w).core.x = s.core.x := by
  unfold State.nextPc; split
  · rfl
  · split <;> rfl
@[simp] theorem State.nextPc_core_b (s : State) (w : Nat) : (State.nextPc s w).core.b = s.core.b := by
  unfold State.nextPc; split
  · rfl
  · split <;> rfl
@[simp] theorem State.nextPc_core_c (s : State) (w : Nat) : (State.nextPc s w).core.c = s.core.c := by
  unfold State.nextPc; split
  · rfl
  · split <;> rfl
@[simp] theorem State.nextPc_core_v (s : State) (w : Nat) : (State.nextPc s w).core.v = s.core.v := by
  unfold State.nextPc; split
  · rfl
  · split <;> rfl
@[simp] theorem State.nextPc_core_p (s : State) (w : Nat) : (State.nextPc s w).core.p = s.core.p := by
  unfold State.nextPc; split
  · rfl
  · split <;> rfl
@[simp] theorem State.nextPc_core_a (s : State) (w : Nat) : (State.nextPc s w).core.a = s.core.a := by
  unfold State.nextPc; split
  · rfl
  · split <;> rfl
@[simp] theorem State.nextPc_core_l (s : State) (w : Nat) : (State.nextPc s w).core.l = s.core.l := by
  unfold State.nextPc; split
  · rfl
  · split <;> rfl
@[simp] theorem State.nextPc_core_n (s : State) (w : Nat) : (State.nextPc s w).core.n = s.core.n := by
  unfold State.nextPc; split
  · rfl
  · split <;> rfl
@[simp] theorem State.nextPc_core_d (s : State) (w : Nat) : (State.nextPc s w).core.d = s.core.d := by
  unfold State.nextPc; split
  · rfl
  · split <;> rfl
@[simp] theorem State.nextPc_core_tk (s : State) (w : Nat) : (State.nextPc s w).core.tk = s.core.tk := by
  unfold State.nextPc; split
  · rfl
  · split <;> rfl
@[simp] theorem State.nextPc_core_vfull (s : State) (w : Nat) : (State.nextPc s w).core.vfull = s.core.vfull := by
  unfold State.nextPc; split
  · rfl
  · split <;> rfl
@[simp] theorem State.nextPc_core_pfull (s : State) (w : Nat) : (State.nextPc s w).core.pfull = s.core.pfull := by
  unfold State.nextPc; split
  · rfl
  · split <;> rfl
@[simp] theorem State.nextPc_core_afull (s : State) (w : Nat) : (State.nextPc s w).core.afull = s.core.afull := by
  unfold State.nextPc; split
  · rfl
  · split <;> rfl
@[simp] theorem State.nextPc_core_lmax (s : State) (w : Nat) : (State.nextPc s w).core.lmax = s.core.lmax := by
  unfold State.nextPc; split
  · rfl
  · split <;> rfl
@[simp] theorem State.nextPc_core_sys (s : State) (w : Nat) : (State.nextPc s w).core.sys = s.core.sys := by
  unfold State.nextPc; split
  · rfl
  · split <;> rfl
@[simp] theorem State.nextPc_core_phase (s : State) (w : Nat) : (State.nextPc s w).core.phase = s.core.phase := by
  unfold State.nextPc; split
  · rfl
  · split <;> rfl
@[simp] theorem State.nextPc_core_monitor (s : State) (w : Nat) : (State.nextPc s w).core.monitor = s.core.monitor := by
  unfold State.nextPc; split
  · rfl
  · split <;> rfl
@[simp] theorem State.nextPc_core_drainFrom (s : State) (w : Nat) : (State.nextPc s w).core.drainFrom = s.core.drainFrom := by
  unfold State.nextPc; split
  · rfl
  · split <;> rfl
@[simp] theorem State.nextPc_core_saved (s : State) (w : Nat) : (State.nextPc s w).core.saved = s.core.saved := by
  unfold State.nextPc; split
  · rfl
  · split <;> rfl
@[simp] theorem State.nextPc_core_budgetStopped (s : State) (w : Nat) : (State.nextPc s w).core.budgetStopped = s.core.budgetStopped := by
  unfold State.nextPc; split
  · rfl
  · split <;> rfl
@[simp] theorem State.nextPc_core_mtxDone (s : State) (w : Nat) : (State.nextPc s w).core.mtxDone = s.core.mtxDone := by
  unfold State.nextPc; split
  · rfl
  · split <;> rfl
@[simp] theorem State.nextPc_core_icache (s : State) (w : Nat) : (State.nextPc s w).core.icache = s.core.icache := by
  unfold State.nextPc; split
  · rfl
  · split <;> rfl
@[simp] theorem State.nextPc_core_linkDue (s : State) (w : Nat) : (State.nextPc s w).core.linkDue = s.core.linkDue := by
  unfold State.nextPc; split
  · rfl
  · split <;> rfl
@[simp] theorem State.nextPc_core_pending (s : State) (w : Nat) : (State.nextPc s w).core.pending = s.core.pending := by
  unfold State.nextPc; split
  · rfl
  · split <;> rfl
@[simp] theorem State.nextPc_core_depth (s : State) (w : Nat) : (State.nextPc s w).core.depth = s.core.depth := by
  unfold State.nextPc; split
  · rfl
  · split <;> rfl
@[simp] theorem State.nextPc_core_kept (s : State) (w : Nat) : (State.nextPc s w).core.kept = s.core.kept := by
  unfold State.nextPc; split
  · rfl
  · split <;> rfl
@[simp] theorem State.nextPc_q (s : State) (w : Nat) : (State.nextPc s w).q = s.q := by
  unfold State.nextPc; split
  · rfl
  · split <;> rfl
@[simp] theorem State.nextPc_spad (s : State) (w : Nat) : (State.nextPc s w).spad = s.spad := by
  unfold State.nextPc; split
  · rfl
  · split <;> rfl
@[simp] theorem State.nextPc_gran (s : State) (w : Nat) : (State.nextPc s w).gran = s.gran := by
  unfold State.nextPc; split
  · rfl
  · split <;> rfl
@[simp] theorem State.nextPc_mem (s : State) (w : Nat) : (State.nextPc s w).mem = s.mem := by
  unfold State.nextPc; split
  · rfl
  · split <;> rfl
@[simp] theorem State.nextPc_poison (s : State) (w : Nat) : (State.nextPc s w).poison = s.poison := by
  unfold State.nextPc; split
  · rfl
  · split <;> rfl
@[simp] theorem State.nextPc_accPoison (s : State) (w : Nat) : (State.nextPc s w).accPoison = s.accPoison := by
  unfold State.nextPc; split
  · rfl
  · split <;> rfl
@[simp] theorem State.nextPc_ctxs (s : State) (w : Nat) : (State.nextPc s w).ctxs = s.ctxs := by
  unfold State.nextPc; split
  · rfl
  · split <;> rfl
@[simp] theorem State.nextPc_tlb (s : State) (w : Nat) : (State.nextPc s w).tlb = s.tlb := by
  unfold State.nextPc; split
  · rfl
  · split <;> rfl
@[simp] theorem State.nextPc_unit (s : State) (w : Nat) : (State.nextPc s w).unit = s.unit := by
  unfold State.nextPc; split
  · rfl
  · split <;> rfl
@[simp] theorem State.nextPc_quay (s : State) (w : Nat) : (State.nextPc s w).quay = s.quay := by
  unfold State.nextPc; split
  · rfl
  · split <;> rfl
@[simp] theorem State.nextPc_posted (s : State) (w : Nat) : (State.nextPc s w).posted = s.posted := by
  unfold State.nextPc; split
  · rfl
  · split <;> rfl
@[simp] theorem State.nextPc_kv (s : State) (w : Nat) : (State.nextPc s w).kv = s.kv := by
  unfold State.nextPc; split
  · rfl
  · split <;> rfl
@[simp] theorem State.nextPc_coll (s : State) (w : Nat) : (State.nextPc s w).coll = s.coll := by
  unfold State.nextPc; split
  · rfl
  · split <;> rfl
@[simp] theorem State.nextPc_pkg (s : State) (w : Nat) : (State.nextPc s w).pkg = s.pkg := by
  unfold State.nextPc; split
  · rfl
  · split <;> rfl
@[simp] theorem State.nextPc_outbox (s : State) (w : Nat) : (State.nextPc s w).outbox = s.outbox := by
  unfold State.nextPc; split
  · rfl
  · split <;> rfl
@[simp] theorem State.nextPc_now (s : State) (w : Nat) : (State.nextPc s w).now = s.now := by
  unfold State.nextPc; split
  · rfl
  · split <;> rfl
@[simp] theorem State.nextPc_agenda (s : State) (w : Nat) : (State.nextPc s w).agenda = s.agenda := by
  unfold State.nextPc; split
  · rfl
  · split <;> rfl
@[simp] theorem State.nextPc_enqNo (s : State) (w : Nat) : (State.nextPc s w).enqNo = s.enqNo := by
  unfold State.nextPc; split
  · rfl
  · split <;> rfl
@[simp] theorem State.nextPc_freeNo (s : State) (w : Nat) : (State.nextPc s w).freeNo = s.freeNo := by
  unfold State.nextPc; split
  · rfl
  · split <;> rfl
@[simp] theorem State.nextPc_recent (s : State) (w : Nat) : (State.nextPc s w).recent = s.recent := by
  unfold State.nextPc; split
  · rfl
  · split <;> rfl

/-! ## setQ -/

@[simp] theorem State.setQ_core (s : State) (e : Eng) (w : Queue) : (State.setQ s e w).core = s.core := rfl
@[simp] theorem State.setQ_spad (s : State) (e : Eng) (w : Queue) : (State.setQ s e w).spad = s.spad := rfl
@[simp] theorem State.setQ_gran (s : State) (e : Eng) (w : Queue) : (State.setQ s e w).gran = s.gran := rfl
@[simp] theorem State.setQ_mem (s : State) (e : Eng) (w : Queue) : (State.setQ s e w).mem = s.mem := rfl
@[simp] theorem State.setQ_poison (s : State) (e : Eng) (w : Queue) : (State.setQ s e w).poison = s.poison := rfl
@[simp] theorem State.setQ_accPoison (s : State) (e : Eng) (w : Queue) : (State.setQ s e w).accPoison = s.accPoison := rfl
@[simp] theorem State.setQ_ctxs (s : State) (e : Eng) (w : Queue) : (State.setQ s e w).ctxs = s.ctxs := rfl
@[simp] theorem State.setQ_tlb (s : State) (e : Eng) (w : Queue) : (State.setQ s e w).tlb = s.tlb := rfl
@[simp] theorem State.setQ_unit (s : State) (e : Eng) (w : Queue) : (State.setQ s e w).unit = s.unit := rfl
@[simp] theorem State.setQ_quay (s : State) (e : Eng) (w : Queue) : (State.setQ s e w).quay = s.quay := rfl
@[simp] theorem State.setQ_posted (s : State) (e : Eng) (w : Queue) : (State.setQ s e w).posted = s.posted := rfl
@[simp] theorem State.setQ_kv (s : State) (e : Eng) (w : Queue) : (State.setQ s e w).kv = s.kv := rfl
@[simp] theorem State.setQ_coll (s : State) (e : Eng) (w : Queue) : (State.setQ s e w).coll = s.coll := rfl
@[simp] theorem State.setQ_pkg (s : State) (e : Eng) (w : Queue) : (State.setQ s e w).pkg = s.pkg := rfl
@[simp] theorem State.setQ_outbox (s : State) (e : Eng) (w : Queue) : (State.setQ s e w).outbox = s.outbox := rfl
@[simp] theorem State.setQ_now (s : State) (e : Eng) (w : Queue) : (State.setQ s e w).now = s.now := rfl
@[simp] theorem State.setQ_agenda (s : State) (e : Eng) (w : Queue) : (State.setQ s e w).agenda = s.agenda := rfl
@[simp] theorem State.setQ_enqNo (s : State) (e : Eng) (w : Queue) : (State.setQ s e w).enqNo = s.enqNo := rfl
@[simp] theorem State.setQ_freeNo (s : State) (e : Eng) (w : Queue) : (State.setQ s e w).freeNo = s.freeNo := rfl
@[simp] theorem State.setQ_recent (s : State) (e : Eng) (w : Queue) : (State.setQ s e w).recent = s.recent := rfl

/-! ## setContext -/

@[simp] theorem State.setContext_core (s : State) (c : BitVec 4) (w : Context) : (State.setContext s c w).core = s.core := rfl
@[simp] theorem State.setContext_q (s : State) (c : BitVec 4) (w : Context) : (State.setContext s c w).q = s.q := rfl
@[simp] theorem State.setContext_spad (s : State) (c : BitVec 4) (w : Context) : (State.setContext s c w).spad = s.spad := rfl
@[simp] theorem State.setContext_gran (s : State) (c : BitVec 4) (w : Context) : (State.setContext s c w).gran = s.gran := rfl
@[simp] theorem State.setContext_mem (s : State) (c : BitVec 4) (w : Context) : (State.setContext s c w).mem = s.mem := rfl
@[simp] theorem State.setContext_poison (s : State) (c : BitVec 4) (w : Context) : (State.setContext s c w).poison = s.poison := rfl
@[simp] theorem State.setContext_accPoison (s : State) (c : BitVec 4) (w : Context) : (State.setContext s c w).accPoison = s.accPoison := rfl
@[simp] theorem State.setContext_tlb (s : State) (c : BitVec 4) (w : Context) : (State.setContext s c w).tlb = s.tlb := rfl
@[simp] theorem State.setContext_unit (s : State) (c : BitVec 4) (w : Context) : (State.setContext s c w).unit = s.unit := rfl
@[simp] theorem State.setContext_quay (s : State) (c : BitVec 4) (w : Context) : (State.setContext s c w).quay = s.quay := rfl
@[simp] theorem State.setContext_posted (s : State) (c : BitVec 4) (w : Context) : (State.setContext s c w).posted = s.posted := rfl
@[simp] theorem State.setContext_kv (s : State) (c : BitVec 4) (w : Context) : (State.setContext s c w).kv = s.kv := rfl
@[simp] theorem State.setContext_coll (s : State) (c : BitVec 4) (w : Context) : (State.setContext s c w).coll = s.coll := rfl
@[simp] theorem State.setContext_pkg (s : State) (c : BitVec 4) (w : Context) : (State.setContext s c w).pkg = s.pkg := rfl
@[simp] theorem State.setContext_outbox (s : State) (c : BitVec 4) (w : Context) : (State.setContext s c w).outbox = s.outbox := rfl
@[simp] theorem State.setContext_now (s : State) (c : BitVec 4) (w : Context) : (State.setContext s c w).now = s.now := rfl
@[simp] theorem State.setContext_agenda (s : State) (c : BitVec 4) (w : Context) : (State.setContext s c w).agenda = s.agenda := rfl
@[simp] theorem State.setContext_enqNo (s : State) (c : BitVec 4) (w : Context) : (State.setContext s c w).enqNo = s.enqNo := rfl
@[simp] theorem State.setContext_freeNo (s : State) (c : BitVec 4) (w : Context) : (State.setContext s c w).freeNo = s.freeNo := rfl
@[simp] theorem State.setContext_recent (s : State) (c : BitVec 4) (w : Context) : (State.setContext s c w).recent = s.recent := rfl

/-! ## setGran -/

@[simp] theorem State.setGran_core (s : State) (g : Nat) (w : GState) : (State.setGran s g w).core = s.core := rfl
@[simp] theorem State.setGran_q (s : State) (g : Nat) (w : GState) : (State.setGran s g w).q = s.q := rfl
@[simp] theorem State.setGran_spad (s : State) (g : Nat) (w : GState) : (State.setGran s g w).spad = s.spad := rfl
@[simp] theorem State.setGran_mem (s : State) (g : Nat) (w : GState) : (State.setGran s g w).mem = s.mem := rfl
@[simp] theorem State.setGran_poison (s : State) (g : Nat) (w : GState) : (State.setGran s g w).poison = s.poison := rfl
@[simp] theorem State.setGran_accPoison (s : State) (g : Nat) (w : GState) : (State.setGran s g w).accPoison = s.accPoison := rfl
@[simp] theorem State.setGran_ctxs (s : State) (g : Nat) (w : GState) : (State.setGran s g w).ctxs = s.ctxs := rfl
@[simp] theorem State.setGran_tlb (s : State) (g : Nat) (w : GState) : (State.setGran s g w).tlb = s.tlb := rfl
@[simp] theorem State.setGran_unit (s : State) (g : Nat) (w : GState) : (State.setGran s g w).unit = s.unit := rfl
@[simp] theorem State.setGran_quay (s : State) (g : Nat) (w : GState) : (State.setGran s g w).quay = s.quay := rfl
@[simp] theorem State.setGran_posted (s : State) (g : Nat) (w : GState) : (State.setGran s g w).posted = s.posted := rfl
@[simp] theorem State.setGran_kv (s : State) (g : Nat) (w : GState) : (State.setGran s g w).kv = s.kv := rfl
@[simp] theorem State.setGran_coll (s : State) (g : Nat) (w : GState) : (State.setGran s g w).coll = s.coll := rfl
@[simp] theorem State.setGran_pkg (s : State) (g : Nat) (w : GState) : (State.setGran s g w).pkg = s.pkg := rfl
@[simp] theorem State.setGran_outbox (s : State) (g : Nat) (w : GState) : (State.setGran s g w).outbox = s.outbox := rfl
@[simp] theorem State.setGran_now (s : State) (g : Nat) (w : GState) : (State.setGran s g w).now = s.now := rfl
@[simp] theorem State.setGran_agenda (s : State) (g : Nat) (w : GState) : (State.setGran s g w).agenda = s.agenda := rfl
@[simp] theorem State.setGran_enqNo (s : State) (g : Nat) (w : GState) : (State.setGran s g w).enqNo = s.enqNo := rfl
@[simp] theorem State.setGran_freeNo (s : State) (g : Nat) (w : GState) : (State.setGran s g w).freeNo = s.freeNo := rfl
@[simp] theorem State.setGran_recent (s : State) (g : Nat) (w : GState) : (State.setGran s g w).recent = s.recent := rfl

/-! ## mapTasks -/

@[simp] theorem State.mapTasks_core (s : State) (f : Task → Task) : (State.mapTasks s f).core = s.core := rfl
@[simp] theorem State.mapTasks_q (s : State) (f : Task → Task) : (State.mapTasks s f).q = s.q := rfl
@[simp] theorem State.mapTasks_spad (s : State) (f : Task → Task) : (State.mapTasks s f).spad = s.spad := rfl
@[simp] theorem State.mapTasks_gran (s : State) (f : Task → Task) : (State.mapTasks s f).gran = s.gran := rfl
@[simp] theorem State.mapTasks_mem (s : State) (f : Task → Task) : (State.mapTasks s f).mem = s.mem := rfl
@[simp] theorem State.mapTasks_poison (s : State) (f : Task → Task) : (State.mapTasks s f).poison = s.poison := rfl
@[simp] theorem State.mapTasks_accPoison (s : State) (f : Task → Task) : (State.mapTasks s f).accPoison = s.accPoison := rfl
@[simp] theorem State.mapTasks_ctxs (s : State) (f : Task → Task) : (State.mapTasks s f).ctxs = s.ctxs := rfl
@[simp] theorem State.mapTasks_tlb (s : State) (f : Task → Task) : (State.mapTasks s f).tlb = s.tlb := rfl
@[simp] theorem State.mapTasks_quay (s : State) (f : Task → Task) : (State.mapTasks s f).quay = s.quay := rfl
@[simp] theorem State.mapTasks_posted (s : State) (f : Task → Task) : (State.mapTasks s f).posted = s.posted := rfl
@[simp] theorem State.mapTasks_kv (s : State) (f : Task → Task) : (State.mapTasks s f).kv = s.kv := rfl
@[simp] theorem State.mapTasks_coll (s : State) (f : Task → Task) : (State.mapTasks s f).coll = s.coll := rfl
@[simp] theorem State.mapTasks_pkg (s : State) (f : Task → Task) : (State.mapTasks s f).pkg = s.pkg := rfl
@[simp] theorem State.mapTasks_outbox (s : State) (f : Task → Task) : (State.mapTasks s f).outbox = s.outbox := rfl
@[simp] theorem State.mapTasks_now (s : State) (f : Task → Task) : (State.mapTasks s f).now = s.now := rfl
@[simp] theorem State.mapTasks_agenda (s : State) (f : Task → Task) : (State.mapTasks s f).agenda = s.agenda := rfl
@[simp] theorem State.mapTasks_enqNo (s : State) (f : Task → Task) : (State.mapTasks s f).enqNo = s.enqNo := rfl
@[simp] theorem State.mapTasks_freeNo (s : State) (f : Task → Task) : (State.mapTasks s f).freeNo = s.freeNo := rfl
@[simp] theorem State.mapTasks_recent (s : State) (f : Task → Task) : (State.mapTasks s f).recent = s.recent := rfl

/-! ## setPkg -/

@[simp] theorem State.setPkg_core (s : State) (f : Package → Package) : (State.setPkg s f).core = s.core := rfl
@[simp] theorem State.setPkg_q (s : State) (f : Package → Package) : (State.setPkg s f).q = s.q := rfl
@[simp] theorem State.setPkg_spad (s : State) (f : Package → Package) : (State.setPkg s f).spad = s.spad := rfl
@[simp] theorem State.setPkg_gran (s : State) (f : Package → Package) : (State.setPkg s f).gran = s.gran := rfl
@[simp] theorem State.setPkg_mem (s : State) (f : Package → Package) : (State.setPkg s f).mem = s.mem := rfl
@[simp] theorem State.setPkg_poison (s : State) (f : Package → Package) : (State.setPkg s f).poison = s.poison := rfl
@[simp] theorem State.setPkg_accPoison (s : State) (f : Package → Package) : (State.setPkg s f).accPoison = s.accPoison := rfl
@[simp] theorem State.setPkg_ctxs (s : State) (f : Package → Package) : (State.setPkg s f).ctxs = s.ctxs := rfl
@[simp] theorem State.setPkg_tlb (s : State) (f : Package → Package) : (State.setPkg s f).tlb = s.tlb := rfl
@[simp] theorem State.setPkg_unit (s : State) (f : Package → Package) : (State.setPkg s f).unit = s.unit := rfl
@[simp] theorem State.setPkg_quay (s : State) (f : Package → Package) : (State.setPkg s f).quay = s.quay := rfl
@[simp] theorem State.setPkg_posted (s : State) (f : Package → Package) : (State.setPkg s f).posted = s.posted := rfl
@[simp] theorem State.setPkg_kv (s : State) (f : Package → Package) : (State.setPkg s f).kv = s.kv := rfl
@[simp] theorem State.setPkg_coll (s : State) (f : Package → Package) : (State.setPkg s f).coll = s.coll := rfl
@[simp] theorem State.setPkg_outbox (s : State) (f : Package → Package) : (State.setPkg s f).outbox = s.outbox := rfl
@[simp] theorem State.setPkg_now (s : State) (f : Package → Package) : (State.setPkg s f).now = s.now := rfl
@[simp] theorem State.setPkg_agenda (s : State) (f : Package → Package) : (State.setPkg s f).agenda = s.agenda := rfl
@[simp] theorem State.setPkg_enqNo (s : State) (f : Package → Package) : (State.setPkg s f).enqNo = s.enqNo := rfl
@[simp] theorem State.setPkg_freeNo (s : State) (f : Package → Package) : (State.setPkg s f).freeNo = s.freeNo := rfl
@[simp] theorem State.setPkg_recent (s : State) (f : Package → Package) : (State.setPkg s f).recent = s.recent := rfl

/-! ## setQuay -/

@[simp] theorem State.setQuay_core (s : State) (f : Quay → Quay) : (State.setQuay s f).core = s.core := rfl
@[simp] theorem State.setQuay_q (s : State) (f : Quay → Quay) : (State.setQuay s f).q = s.q := rfl
@[simp] theorem State.setQuay_spad (s : State) (f : Quay → Quay) : (State.setQuay s f).spad = s.spad := rfl
@[simp] theorem State.setQuay_gran (s : State) (f : Quay → Quay) : (State.setQuay s f).gran = s.gran := rfl
@[simp] theorem State.setQuay_mem (s : State) (f : Quay → Quay) : (State.setQuay s f).mem = s.mem := rfl
@[simp] theorem State.setQuay_poison (s : State) (f : Quay → Quay) : (State.setQuay s f).poison = s.poison := rfl
@[simp] theorem State.setQuay_accPoison (s : State) (f : Quay → Quay) : (State.setQuay s f).accPoison = s.accPoison := rfl
@[simp] theorem State.setQuay_ctxs (s : State) (f : Quay → Quay) : (State.setQuay s f).ctxs = s.ctxs := rfl
@[simp] theorem State.setQuay_tlb (s : State) (f : Quay → Quay) : (State.setQuay s f).tlb = s.tlb := rfl
@[simp] theorem State.setQuay_unit (s : State) (f : Quay → Quay) : (State.setQuay s f).unit = s.unit := rfl
@[simp] theorem State.setQuay_posted (s : State) (f : Quay → Quay) : (State.setQuay s f).posted = s.posted := rfl
@[simp] theorem State.setQuay_kv (s : State) (f : Quay → Quay) : (State.setQuay s f).kv = s.kv := rfl
@[simp] theorem State.setQuay_coll (s : State) (f : Quay → Quay) : (State.setQuay s f).coll = s.coll := rfl
@[simp] theorem State.setQuay_pkg (s : State) (f : Quay → Quay) : (State.setQuay s f).pkg = s.pkg := rfl
@[simp] theorem State.setQuay_outbox (s : State) (f : Quay → Quay) : (State.setQuay s f).outbox = s.outbox := rfl
@[simp] theorem State.setQuay_now (s : State) (f : Quay → Quay) : (State.setQuay s f).now = s.now := rfl
@[simp] theorem State.setQuay_agenda (s : State) (f : Quay → Quay) : (State.setQuay s f).agenda = s.agenda := rfl
@[simp] theorem State.setQuay_enqNo (s : State) (f : Quay → Quay) : (State.setQuay s f).enqNo = s.enqNo := rfl
@[simp] theorem State.setQuay_freeNo (s : State) (f : Quay → Quay) : (State.setQuay s f).freeNo = s.freeNo := rfl
@[simp] theorem State.setQuay_recent (s : State) (f : Quay → Quay) : (State.setQuay s f).recent = s.recent := rfl

/-! ## send -/

@[simp] theorem State.send_core (s : State) (f : Frame) : (State.send s f).core = s.core := rfl
@[simp] theorem State.send_q (s : State) (f : Frame) : (State.send s f).q = s.q := rfl
@[simp] theorem State.send_spad (s : State) (f : Frame) : (State.send s f).spad = s.spad := rfl
@[simp] theorem State.send_gran (s : State) (f : Frame) : (State.send s f).gran = s.gran := rfl
@[simp] theorem State.send_mem (s : State) (f : Frame) : (State.send s f).mem = s.mem := rfl
@[simp] theorem State.send_poison (s : State) (f : Frame) : (State.send s f).poison = s.poison := rfl
@[simp] theorem State.send_accPoison (s : State) (f : Frame) : (State.send s f).accPoison = s.accPoison := rfl
@[simp] theorem State.send_ctxs (s : State) (f : Frame) : (State.send s f).ctxs = s.ctxs := rfl
@[simp] theorem State.send_tlb (s : State) (f : Frame) : (State.send s f).tlb = s.tlb := rfl
@[simp] theorem State.send_unit (s : State) (f : Frame) : (State.send s f).unit = s.unit := rfl
@[simp] theorem State.send_quay (s : State) (f : Frame) : (State.send s f).quay = s.quay := rfl
@[simp] theorem State.send_posted (s : State) (f : Frame) : (State.send s f).posted = s.posted := rfl
@[simp] theorem State.send_kv (s : State) (f : Frame) : (State.send s f).kv = s.kv := rfl
@[simp] theorem State.send_coll (s : State) (f : Frame) : (State.send s f).coll = s.coll := rfl
@[simp] theorem State.send_pkg (s : State) (f : Frame) : (State.send s f).pkg = s.pkg := rfl
@[simp] theorem State.send_now (s : State) (f : Frame) : (State.send s f).now = s.now := rfl
@[simp] theorem State.send_agenda (s : State) (f : Frame) : (State.send s f).agenda = s.agenda := rfl
@[simp] theorem State.send_enqNo (s : State) (f : Frame) : (State.send s f).enqNo = s.enqNo := rfl
@[simp] theorem State.send_freeNo (s : State) (f : Frame) : (State.send s f).freeNo = s.freeNo := rfl
@[simp] theorem State.send_recent (s : State) (f : Frame) : (State.send s f).recent = s.recent := rfl

/-! ## What is read back -/

@[simp] theorem State.setX_x (s : State) (r q : BitVec 5) (w : Word) :
    (s.setX r w).x q = if q = r ∧ r ≠ 0 then w else s.x q := by
  unfold State.setX State.x
  split
  · simp_all
  · rename_i h
    by_cases e : q = r
    · subst e; simp; intro k; exact absurd k h
    · have : r.toNat ≠ q.toNat := fun k => e (BitVec.eq_of_toNat_eq k.symm)
      simp [e, this]

@[simp] theorem State.setB_b (s : State) (r q : BitVec 2) (w : Word) : (s.setB r w).b q = if q = r then w else s.b q := by
  unfold State.setB State.b
  by_cases e : q = r
  · subst e; simp
  · have : r.toNat ≠ q.toNat := fun k => e (BitVec.eq_of_toNat_eq k.symm)
    simp [e, this]

@[simp] theorem State.setV_v (s : State) (r q : BitVec 5) (w : Vec) : (s.setV r w).v q = if q = r then w else s.v q := by
  unfold State.setV State.v
  by_cases e : q = r
  · subst e; simp
  · have : r.toNat ≠ q.toNat := fun k => e (BitVec.eq_of_toNat_eq k.symm)
    simp [e, this]

@[simp] theorem State.setP_p (s : State) (r q : BitVec 3) (w : Pred) :
    (s.setP r w).p q = if q = r ∧ r ≠ 0 then w else s.p q := by
  unfold State.setP State.p
  split
  · simp_all
  · rename_i h
    by_cases e : q = r
    · subst e; simp; intro k; exact absurd k h
    · have : r.toNat ≠ q.toNat := fun k => e (BitVec.eq_of_toNat_eq k.symm)
      simp [e, this]

@[simp] theorem State.setToken_token (s : State) (r q : BitVec 4) (w : BitVec 16) :
    (s.setToken r w).token q = if q = r then w else s.token q := by
  unfold State.setToken State.token
  by_cases e : q = r
  · subst e; simp
  · have : r.toNat ≠ q.toNat := fun k => e (BitVec.eq_of_toNat_eq k.symm)
    simp [e, this]

theorem setBit_getLsbD {w : Nat} (v : BitVec w) (n m : Nat) (b : Bool) (h : n < w) :
    (setBit v n b).getLsbD m = if m = n then b else v.getLsbD m := by
  by_cases e : m = n
  · subst e
    cases b <;> simp [setBit, h]
  · have : m < n ∨ w = 0 ∨ m - n ≠ 0 := by omega
    cases hv : v.getLsbD m with
    | false => cases b <;> simp [setBit, e, hv]; omega
    | true =>
      have := BitVec.lt_of_getLsbD hv
      cases b <;> simp [setBit, e, hv]
      omega

@[simp] theorem State.setC_c (s : State) (r q : BitVec 3) (w : Bool) :
    (s.setC r w).c q = if q = r ∧ r ≠ 0 then w else s.c q := by
  unfold State.setC State.c
  split
  · simp_all
  · rename_i h
    rw [setBit_getLsbD _ _ _ _ (by omega)]
    by_cases e : q = r
    · subst e; simp; intro k; exact absurd k h
    · have : q.toNat ≠ r.toNat := fun k => e (BitVec.eq_of_toNat_eq k)
      simp [e, this]

end Sys2Proof.Machine
end

