-- ==== Sys2Proof/Laws/Control.lean ====
section
/-!
SUPPORT. What the shared operations of the control core can do: the passing of cycles, the end of a word, a wait, a register's write.
-/

namespace Sys2Proof.Machine

theorem sameMemory_refl (s : State) : sameMemory s s := ⟨fun _ => rfl, fun _ => rfl, fun _ => rfl, rfl⟩

/-- What the end of a budget can do (R346). -/
theorem State.budgetOut_passed (s : State) : s.budgetOut = passed s s.budgetOut := by
  unfold State.budgetOut
  simp only
  split
  · split <;> rfl
  · rfl

theorem State.budgetOut_pc (s : State) : s.budgetOut.core.pc = s.core.pc := by
  unfold State.budgetOut
  split
  · split <;> rfl
  · rfl

theorem State.budgetOut_region (s : State) : s.budgetOut.core.phase = .running → s.budgetOut.core.region = s.core.region := by
  unfold State.budgetOut
  split
  · split
    · intro; rfl
    · intro h; simp [State.park, State.mapTasks] at h
  · intro; rfl

theorem State.budgetOut_wait (s : State) : s.budgetOut.core.phase = .running → s.budgetOut.core.wait = s.core.wait := by
  unfold State.budgetOut
  split
  · split
    · intro; rfl
    · intro h; simp [State.park, State.mapTasks] at h
  · intro; rfl

/-- Everything that the passing of cycles can do (R64, R346). -/
theorem State.tick_passed (s : State) (n : Nat) : s.tick n = passed s (s.tick n) := by
  unfold State.tick
  simp only
  split
  · rfl
  · split
    · generalize h : State.setSys _ _ = u
      have e := u.budgetOut_passed
      rw [e]; subst h; rfl
    · rfl

theorem State.tick_pc (s : State) (n : Nat) : (s.tick n).core.pc = s.core.pc := by
  unfold State.tick
  simp only
  split
  · rfl
  · split
    · rw [State.budgetOut_pc]; rfl
    · rfl

theorem State.tick_region (s : State) (n : Nat) : (s.tick n).core.phase = .running → (s.tick n).core.region = s.core.region := by
  unfold State.tick
  simp only
  split
  · intro; rfl
  · split
    · intro h; rw [State.budgetOut_region _ h]; rfl
    · intro; rfl

theorem State.tick_wait (s : State) (n : Nat) : (s.tick n).core.phase = .running → (s.tick n).core.wait = s.core.wait := by
  unfold State.tick
  simp only
  split
  · intro; rfl
  · split
    · intro h; rw [State.budgetOut_wait _ h]; rfl
    · intro; rfl

theorem passed_trans {s t u : State} (h : t = passed s t) (k : u = passed t u) : u = passed s u := by
  rw [k, h]; rfl

theorem passed_memory {s t : State} (h : t = passed s t) : sameMemory s t := by
  rw [h]; exact ⟨fun _ => rfl, fun _ => rfl, fun _ => rfl, rfl⟩

theorem State.nextPc_passed (s : State) (w : Nat) : s.nextPc w = passed s (s.nextPc w) := by
  unfold State.nextPc
  split
  · rfl
  · split <;> rfl

/-- Where the end of a word leaves the strand (R12, R87). -/
theorem State.endWord_next (s : State) (w n : Nat) : AfterWord s ((s.nextPc w).tick n) w := by
  have hp := State.tick_pc (s.nextPc w) n
  have hr := State.tick_region (s.nextPc w) n
  unfold AfterWord
  cases h : s.core.region with
  | none =>
    have e : s.nextPc w = { s with core := { s.core with pc := s.core.pc + BitVec.ofNat 64 (4 * w), wait := .none } } := by
      unfold State.nextPc; rw [h]
    rw [e] at hp hr ⊢
    exact ⟨hp, fun k => (hr k).trans h⟩
  | some r =>
    obtain ⟨left, target⟩ := r
    simp only
    split
    · rename_i hl
      have e : s.nextPc w = { s with core := { s.core with
          pc := target.getD (s.core.pc + BitVec.ofNat 64 (4 * w)), region := none, wait := .none } } := by
        unfold State.nextPc; rw [h]; simp only [hl, if_true]
      rw [e] at hp hr ⊢
      exact ⟨hp, hr⟩
    · rename_i hl
      have e : s.nextPc w = { s with core := { s.core with
          pc := s.core.pc + BitVec.ofNat 64 (4 * w), region := some ⟨left - 1, target⟩, wait := .none } } := by
        unfold State.nextPc; rw [h]; simp only [hl, if_false]
      rw [e] at hp hr ⊢
      exact ⟨hp, hr⟩

theorem State.nextPc_wait (s : State) (w : Nat) : (s.nextPc w).core.wait = .none := by
  unfold State.nextPc
  split
  · rfl
  · split <;> rfl

/-- Everything that the end of a word can do (R12, R87). -/
theorem State.endWord_passed (s : State) (w n : Nat) : (s.nextPc w).tick n = passed s ((s.nextPc w).tick n) :=
  passed_trans (s.nextPc_passed w) (State.tick_passed _ n)

theorem State.budgetOut_wait_none (s : State) (h : s.core.wait = .none) : s.budgetOut.core.wait = .none := by
  unfold State.budgetOut
  split
  · split
    · exact h
    · rfl
  · exact h

theorem State.tick_wait_none (s : State) (n : Nat) (h : s.core.wait = .none) : (s.tick n).core.wait = .none := by
  unfold State.tick
  simp only
  split
  · exact h
  · split
    · exact State.budgetOut_wait_none _ h
    · exact h

theorem State.retire_spec (s : State) : Retired s s.retire where
  rest := s.endWord_passed 1 1
  next := s.endWord_next 1 1
  wait := State.tick_wait_none _ _ (s.nextPc_wait 1)

theorem State.waitAs_spec (s : State) (w : Wait) : Waited s (s.waitAs w) w where
  rest := passed_trans (s := s) (t := { s with core := { s.core with wait := w } }) rfl (State.tick_passed _ 1)
  pc := State.tick_pc _ 1
  wait h := State.tick_wait _ 1 h

theorem State.setX_eq (s : State) (d : BitVec 5) (v : Word) : s.setX d v = { s with core := { s.core with x := (s.setX d v).core.x } } := by
  unfold State.setX; split <;> rfl

theorem State.setC_eq (s : State) (c : BitVec 3) (v : Bool) : s.setC c v = { s with core := { s.core with c := (s.setC c v).core.c } } := by
  unfold State.setC; split <;> rfl

/-- A control word of one or two words that writes a register (R20, R80). -/
theorem State.wroteX_spec (s : State) (d : BitVec 5) (v : Word) (w n : Nat) : WroteX s (((s.setX d v).nextPc w).tick n) d v w := by
  have h := (s.setX d v).endWord_passed w n
  generalize ht : ((s.setX d v).nextPc w).tick n = t at h
  have hx : t.core.x = (s.setX d v).core.x := by rw [h]; rfl
  refine ⟨fun r => ?_, ?_, ?_, ?_⟩
  · have := State.setX_x s d r v
    unfold State.x at this ⊢
    simp only [hx]; exact this
  · rw [hx, ← State.setX_eq]; exact h
  · have := passed_memory h
    rw [State.setX_eq] at this; exact this
  · have := State.endWord_next (s.setX d v) w n
    rw [ht] at this
    unfold AfterWord at this ⊢
    simpa using this

theorem State.retireX_spec (s : State) (d : BitVec 5) (v : Word) : WroteX s (s.retireX d v) d v 1 := s.wroteX_spec d v 1 1

theorem State.retireLong_spec (s : State) (d : BitVec 5) (v : Word) : WroteX s (s.retireLong d v) d v 2 := s.wroteX_spec d v 2 2

theorem State.setC_retire_spec (s : State) (c : BitVec 3) (v : Bool) : WroteC s (s.setC c v).retire c v := by
  have h := (s.setC c v).endWord_passed 1 1
  generalize ht : ((s.setC c v).nextPc 1).tick 1 = t at h
  have e : (s.setC c v).retire = t := ht
  have hc : t.core.c = (s.setC c v).core.c := by rw [h]; rfl
  rw [e]
  refine ⟨fun r => ?_, ?_, ?_, ?_⟩
  · have := State.setC_c s c r v
    unfold State.c at this ⊢
    rw [hc]; exact this
  · rw [hc, ← State.setC_eq]; exact h
  · have := passed_memory h
    rw [State.setC_eq] at this; exact this
  · have := State.endWord_next (s.setC c v) 1 1
    rw [ht] at this
    unfold AfterWord at this ⊢
    simpa using this

end Sys2Proof.Machine
end

