-- ==== Sys2Proof/Laws/Memory.lean ====
section
/-!
SUPPORT. Memory and granule states: a read after a write, what a write leaves alone, and that every operation keeps the canonical
form. Byte strings: a number written out reads back.
-/

namespace Sys2Proof.Machine

/-! ## The canonical form -/

theorem Memory.wfAbove_mono {lo hi : Nat} {m : Memory} (h : hi ≤ lo) (w : Memory.wfAbove lo m = true) : Memory.wfAbove hi m = true := by
  cases m with
  | nil => rfl
  | cons c m =>
    simp only [Memory.wfAbove, Bool.and_eq_true, decide_eq_true_eq] at w ⊢
    exact ⟨⟨by omega, w.1.2⟩, w.2⟩

theorem Memory.put_wfAbove {lo x : Nat} {v : Byte} {m : Memory} (w : Memory.wfAbove lo m = true) (h : lo ≤ x) :
    Memory.wfAbove lo (m.put x v) = true := by
  induction m generalizing lo with
  | nil => unfold Memory.put; split <;> simp_all [Memory.wfAbove]
  | cons c m ih =>
    obtain ⟨a, u⟩ := c
    simp only [Memory.wfAbove, Bool.and_eq_true, decide_eq_true_eq] at w
    obtain ⟨⟨h1, h2⟩, h3⟩ := w
    unfold Memory.put
    split
    · rename_i hx
      split
      · simp only [Memory.wfAbove, Bool.and_eq_true, decide_eq_true_eq]; exact ⟨⟨h1, h2⟩, h3⟩
      · rename_i hv
        simp only [Memory.wfAbove, Bool.and_eq_true, decide_eq_true_eq]
        exact ⟨⟨h, by simpa using hv⟩, ⟨by omega, h2⟩, h3⟩
    · split
      · split
        · exact wfAbove_mono (by omega) h3
        · rename_i hx hv
          simp only [Memory.wfAbove, Bool.and_eq_true, decide_eq_true_eq]
          exact ⟨⟨h, by simpa using hv⟩, by subst hx; exact h3⟩
      · simp only [Memory.wfAbove, Bool.and_eq_true, decide_eq_true_eq]
        exact ⟨⟨h1, h2⟩, ih h3 (by omega)⟩

theorem Memory.put_wf {x : Nat} {v : Byte} {m : Memory} (w : m.wf = true) : (m.put x v).wf = true :=
  put_wfAbove w (Nat.zero_le _)

theorem Memory.putN_wf {bs : List Byte} {a : Nat} {m : Memory} (w : m.wf = true) : (m.putN a bs).wf = true := by
  induction bs generalizing a m with
  | nil => exact w
  | cons b bs ih => exact ih (put_wf w)

theorem Memory.putMasked_wf {n i k : Nat} {mask : BitVec 16} {d : BitVec 128} {m : Memory} (w : m.wf = true) :
    (m.putMasked k mask d i n).wf = true := by
  induction n generalizing i m with
  | zero => exact w
  | succ n ih =>
    unfold Memory.putMasked
    apply ih
    split
    · exact put_wf w
    · exact w

theorem Memory.putPiece_wf {k : Nat} {mask : BitVec 16} {d : BitVec 128} {m : Memory} (w : m.wf = true) :
    (m.putPiece k mask d).wf = true := putMasked_wf w

/-- In canonical form, what lies below the lowest listed address reads as unwritten. -/
theorem Memory.get_below {lo x : Nat} {m : Memory} (w : Memory.wfAbove lo m = true) (h : x < lo) :
    m.get x = Config.unwrittenByte := by
  cases m with
  | nil => rfl
  | cons c m =>
    obtain ⟨a, u⟩ := c
    simp only [Memory.wfAbove, Bool.and_eq_true, decide_eq_true_eq] at w
    unfold Memory.get
    have : x ≠ a := by omega
    have : x < a := by omega
    simp [*]

/-- A read after a write of one byte. -/
theorem Memory.get_put_above {lo x y : Nat} {v : Byte} {m : Memory} (w : Memory.wfAbove lo m = true) :
    (m.put x v).get y = if y = x then v else m.get y := by
  induction m generalizing lo with
  | nil => unfold Memory.put; split <;> simp_all [Memory.get]
  | cons c m ih =>
    obtain ⟨a, u⟩ := c
    simp only [Memory.wfAbove, Bool.and_eq_true, decide_eq_true_eq] at w
    obtain ⟨⟨h1, h2⟩, h3⟩ := w
    unfold Memory.put
    by_cases hy : y = x
    · subst hy
      split
      · split
        · have : y ≠ a := by omega
          simp_all [Memory.get]
        · simp [Memory.get]
      · split
        · split
          · rename_i hv; subst hv; simp_all [get_below h3]
          · simp [Memory.get]
        · rename_i h5 h6
          simp only [Memory.get, if_neg h6, if_neg h5]
          rw [ih h3]; simp
    · simp only [if_neg hy]
      split
      · split
        · rfl
        · simp only [Memory.get, if_neg hy]
          split
          · have : y ≠ a := by omega
            have : y < a := by omega
            simp_all
          · rfl
      · split
        · rename_i hx; subst hx
          have : y ≠ x := hy
          split
          · simp only [Memory.get, if_neg hy]
            split
            · exact get_below h3 (by omega)
            · rfl
          · simp only [Memory.get, if_neg hy]
        · simp only [Memory.get]
          split
          · rfl
          · split
            · rfl
            · rw [ih h3, if_neg hy]

theorem Memory.get_put {x y : Nat} {v : Byte} {m : Memory} (w : m.wf = true) : (m.put x v).get y = if y = x then v else m.get y :=
  get_put_above w

/-- What a write of bytes leaves alone. -/
theorem Memory.get_putN_other {bs : List Byte} {a y : Nat} {m : Memory} (w : m.wf = true) (h : y < a ∨ a + bs.length ≤ y) :
    (m.putN a bs).get y = m.get y := by
  induction bs generalizing a m with
  | nil => rfl
  | cons b bs ih =>
    simp only [List.length_cons] at h
    unfold Memory.putN
    rw [ih (put_wf w) (by omega), get_put w, if_neg (by omega)]

/-- The bytes written are read back. -/
theorem Memory.get_putN {bs : List Byte} {a i : Nat} {m : Memory} (w : m.wf = true) (h : i < bs.length) :
    (m.putN a bs).get (a + i) = bs[i] := by
  induction bs generalizing a i m with
  | nil => simp at h
  | cons b bs ih =>
    unfold Memory.putN
    cases i with
    | zero => rw [get_putN_other (put_wf w) (by omega), get_put w]; simp
    | succ i =>
      have := ih (a := a + 1) (put_wf (x := a) (v := b) w) (by simpa using h)
      rw [show a + (i + 1) = a + 1 + i by omega, this]; simp

/-- A masked write of a piece changes the bytes that the mask names, and no others. -/
theorem Memory.get_putMasked {n i k y : Nat} {mask : BitVec 16} {d : BitVec 128} {m : Memory} (w : m.wf = true) :
    (m.putMasked k mask d i n).get y =
      if 16 * k + i ≤ y ∧ y < 16 * k + i + n ∧ mask.getLsbD (y - 16 * k) = true then pieceByte d (y - 16 * k) else m.get y := by
  induction n generalizing i m with
  | zero => unfold Memory.putMasked; rw [if_neg (by omega)]
  | succ n ih =>
    unfold Memory.putMasked
    have hw : (if mask.getLsbD i then m.put (16 * k + i) (pieceByte d i) else m).wf = true := by
      split
      · exact put_wf w
      · exact w
    rw [ih hw]
    by_cases hy : y = 16 * k + i
    · subst hy
      have e : 16 * k + i - 16 * k = i := by omega
      rw [if_neg (by omega), e]
      split
      · rename_i hm; rw [get_put w, if_pos rfl, if_pos ⟨by omega, by omega, hm⟩]
      · rename_i hm; rw [if_neg (by tauto)]
    · have e : (if mask.getLsbD i then m.put (16 * k + i) (pieceByte d i) else m).get y = m.get y := by
        split
        · rw [get_put w, if_neg hy]
        · rfl
      rw [e]
      by_cases h1 : 16 * k + (i + 1) ≤ y ∧ y < 16 * k + (i + 1) + n ∧ mask.getLsbD (y - 16 * k) = true
      · rw [if_pos h1, if_pos ⟨by omega, by omega, h1.2.2⟩]
      · rw [if_neg h1, if_neg (by rintro ⟨a, b, c⟩; exact h1 ⟨by omega, by omega, c⟩)]

theorem Memory.getN_length (m : Memory) (a n : Nat) : (m.getN a n).length = n := by
  induction n generalizing a with
  | zero => rfl
  | succ n ih => simp [Memory.getN, ih]

/-! ## Granule states -/

theorem Granules.wfAbove_mono {lo hi : Nat} {m : Granules} (h : hi ≤ lo) (w : Granules.wfAbove lo m = true) :
    Granules.wfAbove hi m = true := by
  cases m with
  | nil => rfl
  | cons c m =>
    simp only [Granules.wfAbove, Bool.and_eq_true, decide_eq_true_eq] at w ⊢
    exact ⟨⟨by omega, w.1.2⟩, w.2⟩

theorem Granules.put_wfAbove {lo x : Nat} {v : GState} {m : Granules} (w : Granules.wfAbove lo m = true) (h : lo ≤ x) :
    Granules.wfAbove lo (m.put x v) = true := by
  induction m generalizing lo with
  | nil => unfold Granules.put; split <;> simp_all [Granules.wfAbove]
  | cons c m ih =>
    obtain ⟨a, u⟩ := c
    simp only [Granules.wfAbove, Bool.and_eq_true, decide_eq_true_eq] at w
    obtain ⟨⟨h1, h2⟩, h3⟩ := w
    unfold Granules.put
    split
    · rename_i hx
      split
      · simp only [Granules.wfAbove, Bool.and_eq_true, decide_eq_true_eq]; exact ⟨⟨h1, h2⟩, h3⟩
      · rename_i hv
        simp only [Granules.wfAbove, Bool.and_eq_true, decide_eq_true_eq]
        exact ⟨⟨h, by simpa using hv⟩, ⟨by omega, h2⟩, h3⟩
    · split
      · split
        · exact wfAbove_mono (by omega) h3
        · rename_i hx hv
          simp only [Granules.wfAbove, Bool.and_eq_true, decide_eq_true_eq]
          exact ⟨⟨h, by simpa using hv⟩, by subst hx; exact h3⟩
      · simp only [Granules.wfAbove, Bool.and_eq_true, decide_eq_true_eq]
        exact ⟨⟨h1, h2⟩, ih h3 (by omega)⟩

theorem Granules.put_wf {x : Nat} {v : GState} {m : Granules} (w : m.wf = true) : (m.put x v).wf = true :=
  put_wfAbove w (Nat.zero_le _)

theorem Granules.get_below {lo x : Nat} {m : Granules} (w : Granules.wfAbove lo m = true) (h : x < lo) : m.get x = .empty := by
  cases m with
  | nil => rfl
  | cons c m =>
    obtain ⟨a, u⟩ := c
    simp only [Granules.wfAbove, Bool.and_eq_true, decide_eq_true_eq] at w
    unfold Granules.get
    have : x ≠ a := by omega
    have : x < a := by omega
    simp [*]

theorem Granules.get_put_above {lo x y : Nat} {v : GState} {m : Granules} (w : Granules.wfAbove lo m = true) :
    (m.put x v).get y = if y = x then v else m.get y := by
  induction m generalizing lo with
  | nil => unfold Granules.put; split <;> simp_all [Granules.get]
  | cons c m ih =>
    obtain ⟨a, u⟩ := c
    simp only [Granules.wfAbove, Bool.and_eq_true, decide_eq_true_eq] at w
    obtain ⟨⟨h1, h2⟩, h3⟩ := w
    unfold Granules.put
    by_cases hy : y = x
    · subst hy
      split
      · split
        · have : y ≠ a := by omega
          simp_all [Granules.get]
        · simp [Granules.get]
      · split
        · split
          · rename_i hv; subst hv; simp_all [get_below h3]
          · simp [Granules.get]
        · rename_i h5 h6
          simp only [Granules.get, if_neg h6, if_neg h5]
          rw [ih h3]; simp
    · simp only [if_neg hy]
      split
      · split
        · rfl
        · simp only [Granules.get, if_neg hy]
          split
          · have : y ≠ a := by omega
            have : y < a := by omega
            simp_all
          · rfl
      · split
        · rename_i hx; subst hx
          have : y ≠ x := hy
          split
          · simp only [Granules.get, if_neg hy]
            split
            · exact get_below h3 (by omega)
            · rfl
          · simp only [Granules.get, if_neg hy]
        · simp only [Granules.get]
          split
          · rfl
          · split
            · rfl
            · rw [ih h3, if_neg hy]

/-- A granule's state after a change of one. -/
theorem Granules.get_put {x y : Nat} {v : GState} {m : Granules} (w : m.wf = true) :
    (m.put x v).get y = if y = x then v else m.get y := get_put_above w

/-! ## Byte strings -/

theorem leBytes_length (n v : Nat) : (leBytes n v).length = n := by
  induction n generalizing v with
  | zero => rfl
  | succ n ih => simp [leBytes, ih]

/-- A number written out in `n` bytes reads back modulo 2^(8 n). -/
theorem leNat_leBytes (n v : Nat) : leNat (leBytes n v) = v % 256 ^ n := by
  induction n generalizing v with
  | zero => simp [leBytes, leNat, Nat.mod_one]
  | succ n ih =>
    unfold leBytes leNat
    rw [ih, Nat.pow_succ', Nat.mod_mul]
    rfl

end Sys2Proof.Machine
end

