-- ==== Sys2Proof/Laws/Order.lean ====
section
/-!
SUPPORT. What the edges of Machine/Order.lean can do: each changes `recent` alone, and does nothing while no write is recent.
-/

namespace Sys2Proof.Machine

variable (s t : State) (a : Agent) (p : Recent → Bool)

/-! ## Only `recent` changes -/

theorem State.mapRecent_frame (f : Recent → Recent) : s.mapRecent f = { s with recent := (s.mapRecent f).recent } := rfl
theorem State.learn_frame : s.learn a p = { s with recent := (s.learn a p).recent } := rfl
theorem State.handToken_frame (k : BitVec 4) : s.handToken a k = { s with recent := (s.handToken a k).recent } := rfl
theorem State.takeCount_frame (k : BitVec 4) : s.takeCount a k = { s with recent := (s.takeCount a k).recent } := rfl
theorem State.markGran_frame (g : Nat) : s.markGran a g = { s with recent := (s.markGran a g).recent } := rfl
theorem State.markLanded_frame (g : Nat) : s.markLanded g = { s with recent := (s.markLanded g).recent } := rfl
theorem State.observe_frame (g : Nat) : s.observe a g = { s with recent := (s.observe a g).recent } := rfl
theorem State.observePhase_frame (obj : Nat) : s.observePhase a obj = { s with recent := (s.observePhase a obj).recent } := rfl
theorem State.passMark_frame (e f : Eng) (no : Nat) (b : Bool) : s.passMark e f no b = { s with recent := (s.passMark e f no b).recent } := rfl
theorem State.handOn_frame : s.handOn = { s with recent := s.handOn.recent } := rfl
theorem State.drainedFrom_frame (es : List Eng) : s.drainedFrom es = { s with recent := (s.drainedFrom es).recent } := rfl
theorem State.fenced_frame : s.fenced = { s with recent := s.fenced.recent } := rfl
theorem State.noteWrite_frame (iter : Nat) (l : Loc) (m : BitVec 16) : t.noteWrite s a iter l m = { t with recent := (t.noteWrite s a iter l m).recent } := by
  unfold State.noteWrite; split <;> [split; skip] <;> rfl
theorem State.noteAtomic_frame (l : Loc) (m : BitVec 16) : t.noteAtomic s l m = { t with recent := (t.noteAtomic s l m).recent } := by
  unfold State.noteAtomic; rw [State.handOn_frame, State.learn_frame, State.noteWrite_frame]

/-! ## No write is recent -/

variable {s} (h : s.recent = [])
include h

theorem State.mapRecent_nil (f : Recent → Recent) : s.mapRecent f = s := by rw [State.mapRecent_frame]; cases s; simp_all [State.mapRecent, pruneFrom]
theorem State.learn_nil : s.learn a p = s := State.mapRecent_nil h _
theorem State.handToken_nil (k : BitVec 4) : s.handToken a k = s := State.mapRecent_nil h _
theorem State.takeCount_nil (k : BitVec 4) : s.takeCount a k = s := by unfold State.takeCount; rw [State.learn_nil a _ h, State.mapRecent_nil h]
theorem State.markGran_nil (g : Nat) : s.markGran a g = s := State.mapRecent_nil h _
theorem State.markLanded_nil (g : Nat) : s.markLanded g = s := State.mapRecent_nil h _
theorem State.observe_nil (g : Nat) : s.observe a g = s := State.learn_nil a _ h
theorem State.observePhase_nil (obj : Nat) : s.observePhase a obj = s := State.learn_nil a _ h
theorem State.passMark_nil (e f : Eng) (no : Nat) (b : Bool) : s.passMark e f no b = s := by
  unfold State.passMark; rw [State.mapRecent_nil h, State.learn_nil _ _ h]
theorem State.handOn_nil : s.handOn = s := State.mapRecent_nil h _
theorem State.drainedFrom_nil (es : List Eng) : s.drainedFrom es = s := by unfold State.drainedFrom; rw [State.learn_nil _ _ h, State.handOn_nil h]
theorem State.fenced_nil : s.fenced = s := by unfold State.fenced; rw [State.learn_nil _ _ h, State.handOn_nil h]

end Sys2Proof.Machine
end

