-- ==== Sys2Proof/Laws/PerInstr.lean ====
section
/-!
SUPPORT. Per-instruction lemmas. The family WordClass: a well-formed term has an encoding just where it is an instruction word or pair, and none
where it is an event of the part.
-/

namespace Sys2Proof.Laws.WordClass

/-- A well-formed instruction has words; an event has none. -/
def Statement (i : Instr) : Prop := i.wellFormed = true → (encode i ≠ [] ↔ i.isWord = true)

theorem scld (d a : BitVec 5) (imm : BitVec 12) : Statement (.scld d a imm) := fun _ => ⟨fun _ => rfl, fun _ => List.cons_ne_nil _ _⟩
theorem scst (d a : BitVec 5) (imm : BitVec 12) : Statement (.scst d a imm) := fun _ => ⟨fun _ => rfl, fun _ => List.cons_ne_nil _ _⟩
theorem scamo (d a b : BitVec 5) (dbl : Bool) (op : BitVec 3) : Statement (.scamo d a b dbl op) := fun _ => ⟨fun _ => rfl, fun _ => List.cons_ne_nil _ _⟩
theorem scfence : Statement .scfence := fun _ => ⟨fun _ => rfl, fun _ => List.cons_ne_nil _ _⟩
theorem vadd (o : VRRR) : Statement (.vadd o) := fun _ => ⟨fun _ => rfl, fun _ => List.cons_ne_nil _ _⟩
theorem vaddSat (o : VRRT) : Statement (.vaddSat o) := fun _ => ⟨fun _ => rfl, fun _ => List.cons_ne_nil _ _⟩
theorem vsub (o : VRRR) : Statement (.vsub o) := fun _ => ⟨fun _ => rfl, fun _ => List.cons_ne_nil _ _⟩
theorem vsubSat (o : VRRT) : Statement (.vsubSat o) := fun _ => ⟨fun _ => rfl, fun _ => List.cons_ne_nil _ _⟩
theorem vmul (o : VRRR) : Statement (.vmul o) := fun _ => ⟨fun _ => rfl, fun _ => List.cons_ne_nil _ _⟩
theorem vmulHi (o : VRRT) : Statement (.vmulHi o) := fun _ => ⟨fun _ => rfl, fun _ => List.cons_ne_nil _ _⟩
theorem vfma (o : VRRR) : Statement (.vfma o) := fun _ => ⟨fun _ => rfl, fun _ => List.cons_ne_nil _ _⟩
theorem vfmaNp (o : VRRR) : Statement (.vfmaNp o) := fun _ => ⟨fun _ => rfl, fun _ => List.cons_ne_nil _ _⟩
theorem vfmaNa (o : VRRR) : Statement (.vfmaNa o) := fun _ => ⟨fun _ => rfl, fun _ => List.cons_ne_nil _ _⟩
theorem vfmaNn (o : VRRR) : Statement (.vfmaNn o) := fun _ => ⟨fun _ => rfl, fun _ => List.cons_ne_nil _ _⟩
theorem vmin (o : VRRR) : Statement (.vmin o) := fun _ => ⟨fun _ => rfl, fun _ => List.cons_ne_nil _ _⟩
theorem vmax (o : VRRR) : Statement (.vmax o) := fun _ => ⟨fun _ => rfl, fun _ => List.cons_ne_nil _ _⟩
theorem vminNan (o : VRRR) : Statement (.vminNan o) := fun _ => ⟨fun _ => rfl, fun _ => List.cons_ne_nil _ _⟩
theorem vmaxNan (o : VRRR) : Statement (.vmaxNan o) := fun _ => ⟨fun _ => rfl, fun _ => List.cons_ne_nil _ _⟩
theorem vabs (o : VRRM) : Statement (.vabs o) := fun _ => ⟨fun _ => rfl, fun _ => List.cons_ne_nil _ _⟩
theorem vabd (o : VRRR) : Statement (.vabd o) := fun _ => ⟨fun _ => rfl, fun _ => List.cons_ne_nil _ _⟩
theorem vneg (o : VRRM) : Statement (.vneg o) := fun _ => ⟨fun _ => rfl, fun _ => List.cons_ne_nil _ _⟩
theorem vsign (o : VRRR) : Statement (.vsign o) := fun _ => ⟨fun _ => rfl, fun _ => List.cons_ne_nil _ _⟩
theorem vclamp (o : VRRR) : Statement (.vclamp o) := fun _ => ⟨fun _ => rfl, fun _ => List.cons_ne_nil _ _⟩
theorem vavg (o : VRRR) : Statement (.vavg o) := fun _ => ⟨fun _ => rfl, fun _ => List.cons_ne_nil _ _⟩
theorem vmov (o : VRRM) : Statement (.vmov o) := fun _ => ⟨fun _ => rfl, fun _ => List.cons_ne_nil _ _⟩
theorem vclz (o : VRR) : Statement (.vclz o) := fun _ => ⟨fun _ => rfl, fun _ => List.cons_ne_nil _ _⟩
theorem vpopc (o : VRR) : Statement (.vpopc o) := fun _ => ⟨fun _ => rfl, fun _ => List.cons_ne_nil _ _⟩
theorem vscale (o : VRRR) : Statement (.vscale o) := fun _ => ⟨fun _ => rfl, fun _ => List.cons_ne_nil _ _⟩
theorem vgete (o : VRRM) : Statement (.vgete o) := fun _ => ⟨fun _ => rfl, fun _ => List.cons_ne_nil _ _⟩
theorem vand (o : VRRT) : Statement (.vand o) := fun _ => ⟨fun _ => rfl, fun _ => List.cons_ne_nil _ _⟩
theorem vor (o : VRRT) : Statement (.vor o) := fun _ => ⟨fun _ => rfl, fun _ => List.cons_ne_nil _ _⟩
theorem vxor (o : VRRT) : Statement (.vxor o) := fun _ => ⟨fun _ => rfl, fun _ => List.cons_ne_nil _ _⟩
theorem vnot (o : VRR) : Statement (.vnot o) := fun _ => ⟨fun _ => rfl, fun _ => List.cons_ne_nil _ _⟩
theorem vshl (o : VRRT) : Statement (.vshl o) := fun _ => ⟨fun _ => rfl, fun _ => List.cons_ne_nil _ _⟩
theorem vshr (o : VRRT) : Statement (.vshr o) := fun _ => ⟨fun _ => rfl, fun _ => List.cons_ne_nil _ _⟩
theorem vsra (o : VRRT) : Statement (.vsra o) := fun _ => ⟨fun _ => rfl, fun _ => List.cons_ne_nil _ _⟩
theorem vshlI (o : VRI) : Statement (.vshlI o) := fun _ => ⟨fun _ => rfl, fun _ => List.cons_ne_nil _ _⟩
theorem vshrI (o : VRI) : Statement (.vshrI o) := fun _ => ⟨fun _ => rfl, fun _ => List.cons_ne_nil _ _⟩
theorem vsraI (o : VRI) : Statement (.vsraI o) := fun _ => ⟨fun _ => rfl, fun _ => List.cons_ne_nil _ _⟩
theorem vaddI (o : VRI) : Statement (.vaddI o) := fun _ => ⟨fun _ => rfl, fun _ => List.cons_ne_nil _ _⟩
theorem vminI (o : VRI) : Statement (.vminI o) := fun _ => ⟨fun _ => rfl, fun _ => List.cons_ne_nil _ _⟩
theorem vmaxI (o : VRI) : Statement (.vmaxI o) := fun _ => ⟨fun _ => rfl, fun _ => List.cons_ne_nil _ _⟩
theorem vcmp (c : BitVec 3) (cc : BitVec 4) (a b : BitVec 5) (ty : ElemType) : Statement (.vcmp c cc a b ty) := fun _ => ⟨fun _ => rfl, fun _ => List.cons_ne_nil _ _⟩
theorem vcmpI (c : BitVec 3) (cc : BitVec 4) (a : BitVec 5) (imm : BitVec 5) (ty : ElemType) : Statement (.vcmpI c cc a imm ty) := fun _ => ⟨fun _ => rfl, fun _ => List.cons_ne_nil _ _⟩
theorem vsel (d a b : BitVec 5) (ta tb : Bool) (p : BitVec 3) : Statement (.vsel d a b ta tb p) := fun _ => ⟨fun _ => rfl, fun _ => List.cons_ne_nil _ _⟩
theorem vmask (d : BitVec 5) (p : BitVec 3) : Statement (.vmask d p) := fun _ => ⟨fun _ => rfl, fun _ => List.cons_ne_nil _ _⟩
theorem vmaskw (c : BitVec 3) (mode : BitVec 2) (a q w : BitVec 5) : Statement (.vmaskw c mode a q w) := fun _ => ⟨fun _ => rfl, fun _ => List.cons_ne_nil _ _⟩
theorem vcvtRne (d a : BitVec 5) (ta : Bool) (src dst : ElemType) : Statement (.vcvtRne d a ta src dst) := fun _ => ⟨fun _ => rfl, fun _ => List.cons_ne_nil _ _⟩
theorem vcvtRz (d a : BitVec 5) (ta : Bool) (src dst : ElemType) : Statement (.vcvtRz d a ta src dst) := fun _ => ⟨fun _ => rfl, fun _ => List.cons_ne_nil _ _⟩
theorem vcvtRd (d a : BitVec 5) (ta : Bool) (src dst : ElemType) : Statement (.vcvtRd d a ta src dst) := fun _ => ⟨fun _ => rfl, fun _ => List.cons_ne_nil _ _⟩
theorem vcvtRu (d a : BitVec 5) (ta : Bool) (src dst : ElemType) : Statement (.vcvtRu d a ta src dst) := fun _ => ⟨fun _ => rfl, fun _ => List.cons_ne_nil _ _⟩
theorem vcvtSr (d a : BitVec 5) (ta : Bool) (src dst : ElemType) : Statement (.vcvtSr d a ta src dst) := fun _ => ⟨fun _ => rfl, fun _ => List.cons_ne_nil _ _⟩
theorem vredSum (o : VRRM) : Statement (.vredSum o) := fun _ => ⟨fun _ => rfl, fun _ => List.cons_ne_nil _ _⟩
theorem vredMax (o : VRRM) : Statement (.vredMax o) := fun _ => ⟨fun _ => rfl, fun _ => List.cons_ne_nil _ _⟩
theorem vredMin (o : VRRM) : Statement (.vredMin o) := fun _ => ⟨fun _ => rfl, fun _ => List.cons_ne_nil _ _⟩
theorem vredAmax (o : VRRM) : Statement (.vredAmax o) := fun _ => ⟨fun _ => rfl, fun _ => List.cons_ne_nil _ _⟩
theorem vredSsq (o : VRRM) : Statement (.vredSsq o) := fun _ => ⟨fun _ => rfl, fun _ => List.cons_ne_nil _ _⟩
theorem vscanSum (o : VRRM) : Statement (.vscanSum o) := fun _ => ⟨fun _ => rfl, fun _ => List.cons_ne_nil _ _⟩
theorem vscanMax (o : VRRM) : Statement (.vscanMax o) := fun _ => ⟨fun _ => rfl, fun _ => List.cons_ne_nil _ _⟩
theorem vexp2 (o : VRR) : Statement (.vexp2 o) := fun _ => ⟨fun _ => rfl, fun _ => List.cons_ne_nil _ _⟩
theorem vlog2 (o : VRR) : Statement (.vlog2 o) := fun _ => ⟨fun _ => rfl, fun _ => List.cons_ne_nil _ _⟩
theorem vrcp (o : VRR) : Statement (.vrcp o) := fun _ => ⟨fun _ => rfl, fun _ => List.cons_ne_nil _ _⟩
theorem vrsq (o : VRR) : Statement (.vrsq o) := fun _ => ⟨fun _ => rfl, fun _ => List.cons_ne_nil _ _⟩
theorem vperm (o : VRRT) : Statement (.vperm o) := fun _ => ⟨fun _ => rfl, fun _ => List.cons_ne_nil _ _⟩
theorem vpermRot (o : VRI) : Statement (.vpermRot o) := fun _ => ⟨fun _ => rfl, fun _ => List.cons_ne_nil _ _⟩
theorem vpermRev (o : VRR) : Statement (.vpermRev o) := fun _ => ⟨fun _ => rfl, fun _ => List.cons_ne_nil _ _⟩
theorem vpermZip (o : VRRT) : Statement (.vpermZip o) := fun _ => ⟨fun _ => rfl, fun _ => List.cons_ne_nil _ _⟩
theorem vpermUnz (o : VRRT) : Statement (.vpermUnz o) := fun _ => ⟨fun _ => rfl, fun _ => List.cons_ne_nil _ _⟩
theorem vbcast (o : VRI) : Statement (.vbcast o) := fun _ => ⟨fun _ => rfl, fun _ => List.cons_ne_nil _ _⟩
theorem vsplat (d a : BitVec 5) (ty : ElemType) : Statement (.vsplat d a ty) := fun _ => ⟨fun _ => rfl, fun _ => List.cons_ne_nil _ _⟩
theorem vsplatI (d : BitVec 5) (imm : BitVec 17) : Statement (.vsplatI d imm) := fun _ => ⟨fun _ => rfl, fun _ => List.cons_ne_nil _ _⟩
theorem vsplatL (d : BitVec 5) (imm : BitVec 32) : Statement (.vsplatL d imm) := fun _ => ⟨fun _ => rfl, fun _ => List.cons_ne_nil _ _⟩
theorem viota (d : BitVec 5) (ty : ElemType) : Statement (.viota d ty) := fun _ => ⟨fun _ => rfl, fun _ => List.cons_ne_nil _ _⟩
theorem pand (d a b : BitVec 3) (ta tb : Bool) : Statement (.pand d a b ta tb) := fun _ => ⟨fun _ => rfl, fun _ => List.cons_ne_nil _ _⟩
theorem por (d a b : BitVec 3) (ta tb : Bool) : Statement (.por d a b ta tb) := fun _ => ⟨fun _ => rfl, fun _ => List.cons_ne_nil _ _⟩
theorem pnot (d a : BitVec 3) (ta : Bool) : Statement (.pnot d a ta) := fun _ => ⟨fun _ => rfl, fun _ => List.cons_ne_nil _ _⟩
theorem pxor (d a b : BitVec 3) (ta tb : Bool) : Statement (.pxor d a b ta tb) := fun _ => ⟨fun _ => rfl, fun _ => List.cons_ne_nil _ _⟩
theorem vldW (o : VM) : Statement (.vldW o) := fun _ => ⟨fun _ => rfl, fun _ => List.cons_ne_nil _ _⟩
theorem vldC (o : VM) : Statement (.vldC o) := fun _ => ⟨fun _ => rfl, fun _ => List.cons_ne_nil _ _⟩
theorem vldN (o : VM) : Statement (.vldN o) := fun _ => ⟨fun _ => rfl, fun _ => List.cons_ne_nil _ _⟩
theorem vstW (o : VM) : Statement (.vstW o) := fun _ => ⟨fun _ => rfl, fun _ => List.cons_ne_nil _ _⟩
theorem vstN (o : VM) : Statement (.vstN o) := fun _ => ⟨fun _ => rfl, fun _ => List.cons_ne_nil _ _⟩
theorem vgthW (o : VG) : Statement (.vgthW o) := fun _ => ⟨fun _ => rfl, fun _ => List.cons_ne_nil _ _⟩
theorem vgthC (o : VG) : Statement (.vgthC o) := fun _ => ⟨fun _ => rfl, fun _ => List.cons_ne_nil _ _⟩
theorem vgthN (o : VG) : Statement (.vgthN o) := fun _ => ⟨fun _ => rfl, fun _ => List.cons_ne_nil _ _⟩
theorem vsctW (o : VG) : Statement (.vsctW o) := fun _ => ⟨fun _ => rfl, fun _ => List.cons_ne_nil _ _⟩
theorem vsctN (o : VG) : Statement (.vsctN o) := fun _ => ⟨fun _ => rfl, fun _ => List.cons_ne_nil _ _⟩
theorem pld (p : BitVec 3) (dn : BitVec 6) (x0 x1 : BitVec 5) : Statement (.pld p dn x0 x1) := fun _ => ⟨fun _ => rfl, fun _ => List.cons_ne_nil _ _⟩
theorem pst (p : BitVec 3) (dn : BitVec 6) (x0 x1 : BitVec 5) : Statement (.pst p dn x0 x1) := fun _ => ⟨fun _ => rfl, fun _ => List.cons_ne_nil _ _⟩
theorem vconfGap (c : BitVec 3) (a x : BitVec 5) : Statement (.vconfGap c a x) := fun _ => ⟨fun _ => rfl, fun _ => List.cons_ne_nil _ _⟩
theorem vconfDrift (c : BitVec 3) (a b x : BitVec 5) : Statement (.vconfDrift c a b x) := fun _ => ⟨fun _ => rfl, fun _ => List.cons_ne_nil _ _⟩
theorem vsig (t : BitVec 4) : Statement (.vsig t) := fun _ => ⟨fun _ => rfl, fun _ => List.cons_ne_nil _ _⟩
theorem vwaitk (t : BitVec 4) : Statement (.vwaitk t) := fun _ => ⟨fun _ => rfl, fun _ => List.cons_ne_nil _ _⟩
theorem mzero (t : BitVec 4) : Statement (.mzero t) := fun _ => ⟨fun _ => rfl, fun _ => List.cons_ne_nil _ _⟩
theorem mzeroAll : Statement .mzeroAll := fun _ => ⟨fun _ => rfl, fun _ => List.cons_ne_nil _ _⟩
theorem manch (t : BitVec 4) (a : BitVec 5) : Statement (.manch t a) := fun _ => ⟨fun _ => rfl, fun _ => List.cons_ne_nil _ _⟩
theorem manchI (t : BitVec 4) (imm : BitVec 12) : Statement (.manchI t imm) := fun _ => ⟨fun _ => rfl, fun _ => List.cons_ne_nil _ _⟩
theorem mmaS8 (d1 d2 : BitVec 6) (n : BitVec 3) (t : BitVec 4) (zf : Bool) : Statement (.mmaS8 d1 d2 n t zf) := fun _ => ⟨fun _ => rfl, fun _ => List.cons_ne_nil _ _⟩
theorem mmaN8 (d1 d2 : BitVec 6) (n : BitVec 3) (t : BitVec 4) (zf : Bool) : Statement (.mmaN8 d1 d2 n t zf) := fun _ => ⟨fun _ => rfl, fun _ => List.cons_ne_nil _ _⟩
theorem mmaBfx8 (d1 d2 : BitVec 6) (n : BitVec 3) (t : BitVec 4) (zf : Bool) : Statement (.mmaBfx8 d1 d2 n t zf) := fun _ => ⟨fun _ => rfl, fun _ => List.cons_ne_nil _ _⟩
theorem mmaS16 (d1 d2 : BitVec 6) (n : BitVec 3) (t : BitVec 4) (zf : Bool) : Statement (.mmaS16 d1 d2 n t zf) := fun _ => ⟨fun _ => rfl, fun _ => List.cons_ne_nil _ _⟩
theorem mmaN16 (d1 d2 : BitVec 6) (n : BitVec 3) (t : BitVec 4) (zf : Bool) : Statement (.mmaN16 d1 d2 n t zf) := fun _ => ⟨fun _ => rfl, fun _ => List.cons_ne_nil _ _⟩
theorem mmaBfx16 (d1 d2 : BitVec 6) (n : BitVec 3) (t : BitVec 4) (zf : Bool) : Statement (.mmaBfx16 d1 d2 n t zf) := fun _ => ⟨fun _ => rfl, fun _ => List.cons_ne_nil _ _⟩
theorem mmaZS8 (d1 d2 : BitVec 6) (n : BitVec 3) (t : BitVec 4) (zf : Bool) : Statement (.mmaZS8 d1 d2 n t zf) := fun _ => ⟨fun _ => rfl, fun _ => List.cons_ne_nil _ _⟩
theorem mmaZN8 (d1 d2 : BitVec 6) (n : BitVec 3) (t : BitVec 4) (zf : Bool) : Statement (.mmaZN8 d1 d2 n t zf) := fun _ => ⟨fun _ => rfl, fun _ => List.cons_ne_nil _ _⟩
theorem mmaZS16 (d1 d2 : BitVec 6) (n : BitVec 3) (t : BitVec 4) (zf : Bool) : Statement (.mmaZS16 d1 d2 n t zf) := fun _ => ⟨fun _ => rfl, fun _ => List.cons_ne_nil _ _⟩
theorem mmaZN16 (d1 d2 : BitVec 6) (n : BitVec 3) (t : BitVec 4) (zf : Bool) : Statement (.mmaZN16 d1 d2 n t zf) := fun _ => ⟨fun _ => rfl, fun _ => List.cons_ne_nil _ _⟩
theorem mgoS8 (d1 d2 : BitVec 6) (n : BitVec 3) (t : BitVec 4) (zf : Bool) : Statement (.mgoS8 d1 d2 n t zf) := fun _ => ⟨fun _ => rfl, fun _ => List.cons_ne_nil _ _⟩
theorem mgoN8 (d1 d2 : BitVec 6) (n : BitVec 3) (t : BitVec 4) (zf : Bool) : Statement (.mgoN8 d1 d2 n t zf) := fun _ => ⟨fun _ => rfl, fun _ => List.cons_ne_nil _ _⟩
theorem mgoBfx8 (d1 d2 : BitVec 6) (n : BitVec 3) (t : BitVec 4) (zf : Bool) : Statement (.mgoBfx8 d1 d2 n t zf) := fun _ => ⟨fun _ => rfl, fun _ => List.cons_ne_nil _ _⟩
theorem mgoS16 (d1 d2 : BitVec 6) (n : BitVec 3) (t : BitVec 4) (zf : Bool) : Statement (.mgoS16 d1 d2 n t zf) := fun _ => ⟨fun _ => rfl, fun _ => List.cons_ne_nil _ _⟩
theorem mgoN16 (d1 d2 : BitVec 6) (n : BitVec 3) (t : BitVec 4) (zf : Bool) : Statement (.mgoN16 d1 d2 n t zf) := fun _ => ⟨fun _ => rfl, fun _ => List.cons_ne_nil _ _⟩
theorem mgoBfx16 (d1 d2 : BitVec 6) (n : BitVec 3) (t : BitVec 4) (zf : Bool) : Statement (.mgoBfx16 d1 d2 n t zf) := fun _ => ⟨fun _ => rfl, fun _ => List.cons_ne_nil _ _⟩
theorem mpackPi (d1 d2 : BitVec 6) (n : BitVec 3) (s : BitVec 4) : Statement (.mpackPi d1 d2 n s) := fun _ => ⟨fun _ => rfl, fun _ => List.cons_ne_nil _ _⟩
theorem mpackPb (d1 d2 : BitVec 6) (n : BitVec 3) (s : BitVec 4) : Statement (.mpackPb d1 d2 n s) := fun _ => ⟨fun _ => rfl, fun _ => List.cons_ne_nil _ _⟩
theorem mrdF32 (d1 : BitVec 6) (n : BitVec 3) (t : BitVec 4) (q : BitVec 3) : Statement (.mrdF32 d1 n t q) := fun _ => ⟨fun _ => rfl, fun _ => List.cons_ne_nil _ _⟩
theorem mrdBf16 (d1 : BitVec 6) (n : BitVec 3) (t : BitVec 4) (q : BitVec 3) : Statement (.mrdBf16 d1 n t q) := fun _ => ⟨fun _ => rfl, fun _ => List.cons_ne_nil _ _⟩
theorem mrdBfx8 (d1 : BitVec 6) (n : BitVec 3) (t : BitVec 4) (q : BitVec 3) : Statement (.mrdBfx8 d1 n t q) := fun _ => ⟨fun _ => rfl, fun _ => List.cons_ne_nil _ _⟩
theorem mrdS8 (d1 : BitVec 6) (n : BitVec 3) (t : BitVec 4) (q : BitVec 3) : Statement (.mrdS8 d1 n t q) := fun _ => ⟨fun _ => rfl, fun _ => List.cons_ne_nil _ _⟩
theorem mrdN8 (d1 : BitVec 6) (n : BitVec 3) (t : BitVec 4) (q : BitVec 3) : Statement (.mrdN8 d1 n t q) := fun _ => ⟨fun _ => rfl, fun _ => List.cons_ne_nil _ _⟩
theorem mrdS32 (d1 : BitVec 6) (n : BitVec 3) (t : BitVec 4) (q : BitVec 3) : Statement (.mrdS32 d1 n t q) := fun _ => ⟨fun _ => rfl, fun _ => List.cons_ne_nil _ _⟩
theorem mrdvF32 (v : BitVec 5) (g : BitVec 3) (t : BitVec 4) (q : BitVec 3) : Statement (.mrdvF32 v g t q) := fun _ => ⟨fun _ => rfl, fun _ => List.cons_ne_nil _ _⟩
theorem mrdvBf16 (v : BitVec 5) (g : BitVec 3) (t : BitVec 4) (q : BitVec 3) : Statement (.mrdvBf16 v g t q) := fun _ => ⟨fun _ => rfl, fun _ => List.cons_ne_nil _ _⟩
theorem mrdvS32 (v : BitVec 5) (g : BitVec 3) (t : BitVec 4) (q : BitVec 3) : Statement (.mrdvS32 v g t q) := fun _ => ⟨fun _ => rfl, fun _ => List.cons_ne_nil _ _⟩
theorem msta (d1 : BitVec 6) (n : BitVec 3) (t : BitVec 4) : Statement (.msta d1 n t) := fun _ => ⟨fun _ => rfl, fun _ => List.cons_ne_nil _ _⟩
theorem mlda (d1 : BitVec 6) (n : BitVec 3) (t : BitVec 4) : Statement (.mlda d1 n t) := fun _ => ⟨fun _ => rfl, fun _ => List.cons_ne_nil _ _⟩
theorem mstat (d1 : BitVec 6) (t : BitVec 4) : Statement (.mstat d1 t) := fun _ => ⟨fun _ => rfl, fun _ => List.cons_ne_nil _ _⟩
theorem msig (t : BitVec 4) : Statement (.msig t) := fun _ => ⟨fun _ => rfl, fun _ => List.cons_ne_nil _ _⟩
theorem mwaitk (t : BitVec 4) : Statement (.mwaitk t) := fun _ => ⟨fun _ => rfl, fun _ => List.cons_ne_nil _ _⟩
theorem cpinW (d1 d2 : BitVec 6) (n : BitVec 3) (s : BitVec 4) (q : BitVec 3) : Statement (.cpinW d1 d2 n s q) := fun _ => ⟨fun _ => rfl, fun _ => List.cons_ne_nil _ _⟩
theorem cpinN (d1 d2 : BitVec 6) (n : BitVec 3) (s : BitVec 4) (q : BitVec 3) : Statement (.cpinN d1 d2 n s q) := fun _ => ⟨fun _ => rfl, fun _ => List.cons_ne_nil _ _⟩
theorem cpinWNt (d1 d2 : BitVec 6) (n : BitVec 3) (s : BitVec 4) (q : BitVec 3) : Statement (.cpinWNt d1 d2 n s q) := fun _ => ⟨fun _ => rfl, fun _ => List.cons_ne_nil _ _⟩
theorem cpinNNt (d1 d2 : BitVec 6) (n : BitVec 3) (s : BitVec 4) (q : BitVec 3) : Statement (.cpinNNt d1 d2 n s q) := fun _ => ⟨fun _ => rfl, fun _ => List.cons_ne_nil _ _⟩
theorem cpgathW (d1 d2 : BitVec 6) (n : BitVec 3) (s : BitVec 4) (q : BitVec 3) : Statement (.cpgathW d1 d2 n s q) := fun _ => ⟨fun _ => rfl, fun _ => List.cons_ne_nil _ _⟩
theorem cpgathN (d1 d2 : BitVec 6) (n : BitVec 3) (s : BitVec 4) (q : BitVec 3) : Statement (.cpgathN d1 d2 n s q) := fun _ => ⟨fun _ => rfl, fun _ => List.cons_ne_nil _ _⟩
theorem cpgathWNt (d1 d2 : BitVec 6) (n : BitVec 3) (s : BitVec 4) (q : BitVec 3) : Statement (.cpgathWNt d1 d2 n s q) := fun _ => ⟨fun _ => rfl, fun _ => List.cons_ne_nil _ _⟩
theorem cpgathNNt (d1 d2 : BitVec 6) (n : BitVec 3) (s : BitVec 4) (q : BitVec 3) : Statement (.cpgathNNt d1 d2 n s q) := fun _ => ⟨fun _ => rfl, fun _ => List.cons_ne_nil _ _⟩
theorem cpplaneW (d1 d2 : BitVec 6) (n : BitVec 3) (s : BitVec 4) (q : BitVec 3) : Statement (.cpplaneW d1 d2 n s q) := fun _ => ⟨fun _ => rfl, fun _ => List.cons_ne_nil _ _⟩
theorem cpplaneN (d1 d2 : BitVec 6) (n : BitVec 3) (s : BitVec 4) (q : BitVec 3) : Statement (.cpplaneN d1 d2 n s q) := fun _ => ⟨fun _ => rfl, fun _ => List.cons_ne_nil _ _⟩
theorem cpplaneWNt (d1 d2 : BitVec 6) (n : BitVec 3) (s : BitVec 4) (q : BitVec 3) : Statement (.cpplaneWNt d1 d2 n s q) := fun _ => ⟨fun _ => rfl, fun _ => List.cons_ne_nil _ _⟩
theorem cpplaneNNt (d1 d2 : BitVec 6) (n : BitVec 3) (s : BitVec 4) (q : BitVec 3) : Statement (.cpplaneNNt d1 d2 n s q) := fun _ => ⟨fun _ => rfl, fun _ => List.cons_ne_nil _ _⟩
theorem cpfillW (d1 : BitVec 6) (n : BitVec 3) (s : BitVec 4) : Statement (.cpfillW d1 n s) := fun _ => ⟨fun _ => rfl, fun _ => List.cons_ne_nil _ _⟩
theorem cpfillN (d1 : BitVec 6) (n : BitVec 3) (s : BitVec 4) : Statement (.cpfillN d1 n s) := fun _ => ⟨fun _ => rfl, fun _ => List.cons_ne_nil _ _⟩
theorem cpmovW (d1 d2 : BitVec 6) (n : BitVec 3) (s : BitVec 4) : Statement (.cpmovW d1 d2 n s) := fun _ => ⟨fun _ => rfl, fun _ => List.cons_ne_nil _ _⟩
theorem cpmovN (d1 d2 : BitVec 6) (n : BitVec 3) (s : BitVec 4) : Statement (.cpmovN d1 d2 n s) := fun _ => ⟨fun _ => rfl, fun _ => List.cons_ne_nil _ _⟩
theorem cppre (d1 : BitVec 6) (n : BitVec 3) : Statement (.cppre d1 n) := fun _ => ⟨fun _ => rfl, fun _ => List.cons_ne_nil _ _⟩
theorem lsig (t : BitVec 4) : Statement (.lsig t) := fun _ => ⟨fun _ => rfl, fun _ => List.cons_ne_nil _ _⟩
theorem lwaitk (t : BitVec 4) : Statement (.lwaitk t) := fun _ => ⟨fun _ => rfl, fun _ => List.cons_ne_nil _ _⟩
theorem lbwait (slot : BitVec 4) : Statement (.lbwait slot) := fun _ => ⟨fun _ => rfl, fun _ => List.cons_ne_nil _ _⟩
theorem cpoutW (d1 d2 : BitVec 6) (n : BitVec 3) (s : BitVec 4) : Statement (.cpoutW d1 d2 n s) := fun _ => ⟨fun _ => rfl, fun _ => List.cons_ne_nil _ _⟩
theorem cpoutC (d1 d2 : BitVec 6) (n : BitVec 3) (s : BitVec 4) : Statement (.cpoutC d1 d2 n s) := fun _ => ⟨fun _ => rfl, fun _ => List.cons_ne_nil _ _⟩
theorem cpoutN (d1 d2 : BitVec 6) (n : BitVec 3) (s : BitVec 4) : Statement (.cpoutN d1 d2 n s) := fun _ => ⟨fun _ => rfl, fun _ => List.cons_ne_nil _ _⟩
theorem cpscatW (d1 d2 : BitVec 6) (n : BitVec 3) (s : BitVec 4) : Statement (.cpscatW d1 d2 n s) := fun _ => ⟨fun _ => rfl, fun _ => List.cons_ne_nil _ _⟩
theorem cpscatC (d1 d2 : BitVec 6) (n : BitVec 3) (s : BitVec 4) : Statement (.cpscatC d1 d2 n s) := fun _ => ⟨fun _ => rfl, fun _ => List.cons_ne_nil _ _⟩
theorem cpscatN (d1 d2 : BitVec 6) (n : BitVec 3) (s : BitVec 4) : Statement (.cpscatN d1 d2 n s) := fun _ => ⟨fun _ => rfl, fun _ => List.cons_ne_nil _ _⟩
theorem cpdeplW (d1 d2 : BitVec 6) (n : BitVec 3) (s : BitVec 4) : Statement (.cpdeplW d1 d2 n s) := fun _ => ⟨fun _ => rfl, fun _ => List.cons_ne_nil _ _⟩
theorem cpdeplC (d1 d2 : BitVec 6) (n : BitVec 3) (s : BitVec 4) : Statement (.cpdeplC d1 d2 n s) := fun _ => ⟨fun _ => rfl, fun _ => List.cons_ne_nil _ _⟩
theorem cpdeplN (d1 d2 : BitVec 6) (n : BitVec 3) (s : BitVec 4) : Statement (.cpdeplN d1 d2 n s) := fun _ => ⟨fun _ => rfl, fun _ => List.cons_ne_nil _ _⟩
theorem cpwb (d1 : BitVec 6) (n : BitVec 3) (s : BitVec 4) : Statement (.cpwb d1 n s) := fun _ => ⟨fun _ => rfl, fun _ => List.cons_ne_nil _ _⟩
theorem cpinv (d1 : BitVec 6) (n : BitVec 3) (s : BitVec 4) : Statement (.cpinv d1 n s) := fun _ => ⟨fun _ => rfl, fun _ => List.cons_ne_nil _ _⟩
theorem ssig (t : BitVec 4) : Statement (.ssig t) := fun _ => ⟨fun _ => rfl, fun _ => List.cons_ne_nil _ _⟩
theorem swaitk (t : BitVec 4) : Statement (.swaitk t) := fun _ => ⟨fun _ => rfl, fun _ => List.cons_ne_nil _ _⟩
theorem sbwait (slot : BitVec 4) : Statement (.sbwait slot) := fun _ => ⟨fun _ => rfl, fun _ => List.cons_ne_nil _ _⟩
theorem note (d1 d2 : BitVec 6) (s : BitVec 4) : Statement (.note d1 d2 s) := fun _ => ⟨fun _ => rfl, fun _ => List.cons_ne_nil _ _⟩
theorem noteG (d1 : BitVec 6) (g : BitVec 6) (s : BitVec 4) : Statement (.noteG d1 g s) := fun _ => ⟨fun _ => rfl, fun _ => List.cons_ne_nil _ _⟩
theorem land (d1 : BitVec 6) (s : BitVec 4) : Statement (.land d1 s) := fun _ => ⟨fun _ => rfl, fun _ => List.cons_ne_nil _ _⟩
theorem unland : Statement .unland := fun _ => ⟨fun _ => rfl, fun _ => List.cons_ne_nil _ _⟩
theorem unlandAll : Statement .unlandAll := fun _ => ⟨fun _ => rfl, fun _ => List.cons_ne_nil _ _⟩
theorem decl : Statement .decl := fun _ => ⟨fun _ => rfl, fun _ => List.cons_ne_nil _ _⟩
theorem declAll : Statement .declAll := fun _ => ⟨fun _ => rfl, fun _ => List.cons_ne_nil _ _⟩
theorem nwait (d1 : BitVec 6) : Statement (.nwait d1) := fun _ => ⟨fun _ => rfl, fun _ => List.cons_ne_nil _ _⟩
theorem nwaitN (d1 : BitVec 6) : Statement (.nwaitN d1) := fun _ => ⟨fun _ => rfl, fun _ => List.cons_ne_nil _ _⟩
theorem nwaitTag (d1 : BitVec 6) : Statement (.nwaitTag d1) := fun _ => ⟨fun _ => rfl, fun _ => List.cons_ne_nil _ _⟩
theorem landq (d1 : BitVec 6) : Statement (.landq d1) := fun _ => ⟨fun _ => rfl, fun _ => List.cons_ne_nil _ _⟩
theorem ppol (d1 : BitVec 6) : Statement (.ppol d1) := fun _ => ⟨fun _ => rfl, fun _ => List.cons_ne_nil _ _⟩
theorem ppace (d1 : BitVec 6) : Statement (.ppace d1) := fun _ => ⟨fun _ => rfl, fun _ => List.cons_ne_nil _ _⟩
theorem pgrp (d1 : BitVec 6) : Statement (.pgrp d1) := fun _ => ⟨fun _ => rfl, fun _ => List.cons_ne_nil _ _⟩
theorem pclass : Statement .pclass := fun _ => ⟨fun _ => rfl, fun _ => List.cons_ne_nil _ _⟩
theorem rels : Statement .rels := fun _ => ⟨fun _ => rfl, fun _ => List.cons_ne_nil _ _⟩
theorem relsTag : Statement .relsTag := fun _ => ⟨fun _ => rfl, fun _ => List.cons_ne_nil _ _⟩
theorem retend : Statement .retend := fun _ => ⟨fun _ => rfl, fun _ => List.cons_ne_nil _ _⟩
theorem retendTag : Statement .retendTag := fun _ => ⟨fun _ => rfl, fun _ => List.cons_ne_nil _ _⟩
theorem moorq (d1 : BitVec 6) : Statement (.moorq d1) := fun _ => ⟨fun _ => rfl, fun _ => List.cons_ne_nil _ _⟩
theorem moorqTag (d1 : BitVec 6) : Statement (.moorqTag d1) := fun _ => ⟨fun _ => rfl, fun _ => List.cons_ne_nil _ _⟩
theorem psig (t : BitVec 4) : Statement (.psig t) := fun _ => ⟨fun _ => rfl, fun _ => List.cons_ne_nil _ _⟩
theorem pwaitk (t : BitVec 4) : Statement (.pwaitk t) := fun _ => ⟨fun _ => rfl, fun _ => List.cons_ne_nil _ _⟩
theorem pbwait (slot : BitVec 4) : Statement (.pbwait slot) := fun _ => ⟨fun _ => rfl, fun _ => List.cons_ne_nil _ _⟩
theorem kvnew (d1 : BitVec 6) : Statement (.kvnew d1) := fun _ => ⟨fun _ => rfl, fun _ => List.cons_ne_nil _ _⟩
theorem kvappend (d1 d2 : BitVec 6) : Statement (.kvappend d1 d2) := fun _ => ⟨fun _ => rfl, fun _ => List.cons_ne_nil _ _⟩
theorem kvexit (d1 : BitVec 6) : Statement (.kvexit d1) := fun _ => ⟨fun _ => rfl, fun _ => List.cons_ne_nil _ _⟩
theorem kvfill (d1 d2 : BitVec 6) : Statement (.kvfill d1 d2) := fun _ => ⟨fun _ => rfl, fun _ => List.cons_ne_nil _ _⟩
theorem kvflush : Statement .kvflush := fun _ => ⟨fun _ => rfl, fun _ => List.cons_ne_nil _ _⟩
theorem kvfork (d1 : BitVec 6) : Statement (.kvfork d1) := fun _ => ⟨fun _ => rfl, fun _ => List.cons_ne_nil _ _⟩
theorem kvfree : Statement .kvfree := fun _ => ⟨fun _ => rfl, fun _ => List.cons_ne_nil _ _⟩
theorem kvtrim (d1 : BitVec 6) : Statement (.kvtrim d1) := fun _ => ⟨fun _ => rfl, fun _ => List.cons_ne_nil _ _⟩
theorem kvmapK (d1 : BitVec 6) (q : BitVec 3) : Statement (.kvmapK d1 q) := fun _ => ⟨fun _ => rfl, fun _ => List.cons_ne_nil _ _⟩
theorem kvmapV (d1 : BitVec 6) (q : BitVec 3) : Statement (.kvmapV d1 q) := fun _ => ⟨fun _ => rfl, fun _ => List.cons_ne_nil _ _⟩
theorem kvlen (d1 : BitVec 6) : Statement (.kvlen d1) := fun _ => ⟨fun _ => rfl, fun _ => List.cons_ne_nil _ _⟩
theorem kvpol : Statement .kvpol := fun _ => ⟨fun _ => rfl, fun _ => List.cons_ne_nil _ _⟩
theorem kvstat (d1 : BitVec 6) : Statement (.kvstat d1) := fun _ => ⟨fun _ => rfl, fun _ => List.cons_ne_nil _ _⟩
theorem kvowed (d1 : BitVec 6) : Statement (.kvowed d1) := fun _ => ⟨fun _ => rfl, fun _ => List.cons_ne_nil _ _⟩
theorem kvwait : Statement .kvwait := fun _ => ⟨fun _ => rfl, fun _ => List.cons_ne_nil _ _⟩
theorem kvbft (d1 : BitVec 6) : Statement (.kvbft d1) := fun _ => ⟨fun _ => rfl, fun _ => List.cons_ne_nil _ _⟩
theorem kvfenceDie : Statement .kvfenceDie := fun _ => ⟨fun _ => rfl, fun _ => List.cons_ne_nil _ _⟩
theorem kvfencePkg : Statement .kvfencePkg := fun _ => ⟨fun _ => rfl, fun _ => List.cons_ne_nil _ _⟩
theorem add (d a b : BitVec 5) : Statement (.add d a b) := fun _ => ⟨fun _ => rfl, fun _ => List.cons_ne_nil _ _⟩
theorem sub (d a b : BitVec 5) : Statement (.sub d a b) := fun _ => ⟨fun _ => rfl, fun _ => List.cons_ne_nil _ _⟩
theorem and (d a b : BitVec 5) : Statement (.and d a b) := fun _ => ⟨fun _ => rfl, fun _ => List.cons_ne_nil _ _⟩
theorem or (d a b : BitVec 5) : Statement (.or d a b) := fun _ => ⟨fun _ => rfl, fun _ => List.cons_ne_nil _ _⟩
theorem xor (d a b : BitVec 5) : Statement (.xor d a b) := fun _ => ⟨fun _ => rfl, fun _ => List.cons_ne_nil _ _⟩
theorem sll (d a b : BitVec 5) : Statement (.sll d a b) := fun _ => ⟨fun _ => rfl, fun _ => List.cons_ne_nil _ _⟩
theorem srl (d a b : BitVec 5) : Statement (.srl d a b) := fun _ => ⟨fun _ => rfl, fun _ => List.cons_ne_nil _ _⟩
theorem sra (d a b : BitVec 5) : Statement (.sra d a b) := fun _ => ⟨fun _ => rfl, fun _ => List.cons_ne_nil _ _⟩
theorem mul (d a b : BitVec 5) : Statement (.mul d a b) := fun _ => ⟨fun _ => rfl, fun _ => List.cons_ne_nil _ _⟩
theorem mulhS (d a b : BitVec 5) : Statement (.mulhS d a b) := fun _ => ⟨fun _ => rfl, fun _ => List.cons_ne_nil _ _⟩
theorem mulhN (d a b : BitVec 5) : Statement (.mulhN d a b) := fun _ => ⟨fun _ => rfl, fun _ => List.cons_ne_nil _ _⟩
theorem divS (d a b : BitVec 5) : Statement (.divS d a b) := fun _ => ⟨fun _ => rfl, fun _ => List.cons_ne_nil _ _⟩
theorem divN (d a b : BitVec 5) : Statement (.divN d a b) := fun _ => ⟨fun _ => rfl, fun _ => List.cons_ne_nil _ _⟩
theorem remS (d a b : BitVec 5) : Statement (.remS d a b) := fun _ => ⟨fun _ => rfl, fun _ => List.cons_ne_nil _ _⟩
theorem remN (d a b : BitVec 5) : Statement (.remN d a b) := fun _ => ⟨fun _ => rfl, fun _ => List.cons_ne_nil _ _⟩
theorem minS (d a b : BitVec 5) : Statement (.minS d a b) := fun _ => ⟨fun _ => rfl, fun _ => List.cons_ne_nil _ _⟩
theorem minN (d a b : BitVec 5) : Statement (.minN d a b) := fun _ => ⟨fun _ => rfl, fun _ => List.cons_ne_nil _ _⟩
theorem maxS (d a b : BitVec 5) : Statement (.maxS d a b) := fun _ => ⟨fun _ => rfl, fun _ => List.cons_ne_nil _ _⟩
theorem maxN (d a b : BitVec 5) : Statement (.maxN d a b) := fun _ => ⟨fun _ => rfl, fun _ => List.cons_ne_nil _ _⟩
theorem clz (d a : BitVec 5) : Statement (.clz d a) := fun _ => ⟨fun _ => rfl, fun _ => List.cons_ne_nil _ _⟩
theorem popc (d a : BitVec 5) : Statement (.popc d a) := fun _ => ⟨fun _ => rfl, fun _ => List.cons_ne_nil _ _⟩
theorem sel (d a b : BitVec 5) (c : BitVec 3) : Statement (.sel d a b c) := fun _ => ⟨fun _ => rfl, fun _ => List.cons_ne_nil _ _⟩
theorem addi (d a : BitVec 5) (imm : BitVec 12) : Statement (.addi d a imm) := fun _ => ⟨fun _ => rfl, fun _ => List.cons_ne_nil _ _⟩
theorem andi (d a : BitVec 5) (imm : BitVec 12) : Statement (.andi d a imm) := fun _ => ⟨fun _ => rfl, fun _ => List.cons_ne_nil _ _⟩
theorem ori (d a : BitVec 5) (imm : BitVec 12) : Statement (.ori d a imm) := fun _ => ⟨fun _ => rfl, fun _ => List.cons_ne_nil _ _⟩
theorem xori (d a : BitVec 5) (imm : BitVec 12) : Statement (.xori d a imm) := fun _ => ⟨fun _ => rfl, fun _ => List.cons_ne_nil _ _⟩
theorem slli (d a : BitVec 5) (k : BitVec 6) : Statement (.slli d a k) := fun _ => ⟨fun _ => rfl, fun _ => List.cons_ne_nil _ _⟩
theorem srli (d a : BitVec 5) (k : BitVec 6) : Statement (.srli d a k) := fun _ => ⟨fun _ => rfl, fun _ => List.cons_ne_nil _ _⟩
theorem srai (d a : BitVec 5) (k : BitVec 6) : Statement (.srai d a k) := fun _ => ⟨fun _ => rfl, fun _ => List.cons_ne_nil _ _⟩
theorem limm (d : BitVec 5) (imm : BitVec 17) : Statement (.limm d imm) := fun _ => ⟨fun _ => rfl, fun _ => List.cons_ne_nil _ _⟩
theorem limmSh (d : BitVec 5) (imm : BitVec 17) : Statement (.limmSh d imm) := fun _ => ⟨fun _ => rfl, fun _ => List.cons_ne_nil _ _⟩
theorem cmp (c : BitVec 3) (cc : BitVec 4) (a b : BitVec 5) : Statement (.cmp c cc a b) := fun _ => ⟨fun _ => rfl, fun _ => List.cons_ne_nil _ _⟩
theorem cmpi (c : BitVec 3) (cc : BitVec 4) (a : BitVec 5) (imm : BitVec 10) : Statement (.cmpi c cc a imm) := fun _ => ⟨fun _ => rfl, fun _ => List.cons_ne_nil _ _⟩
theorem btgt (b : BitVec 2) (off : BitVec 20) : Statement (.btgt b off) := fun _ => ⟨fun _ => rfl, fun _ => List.cons_ne_nil _ _⟩
theorem btgtX (b : BitVec 2) (a : BitVec 5) (imm : BitVec 12) : Statement (.btgtX b a imm) := fun _ => ⟨fun _ => rfl, fun _ => List.cons_ne_nil _ _⟩
theorem brc (b : BitVec 2) (c : BitVec 3) : Statement (.brc b c) := fun _ => ⟨fun _ => rfl, fun _ => List.cons_ne_nil _ _⟩
theorem brcF (b : BitVec 2) (c : BitVec 3) : Statement (.brcF b c) := fun _ => ⟨fun _ => rfl, fun _ => List.cons_ne_nil _ _⟩
theorem br (b : BitVec 2) : Statement (.br b) := fun _ => ⟨fun _ => rfl, fun _ => List.cons_ne_nil _ _⟩
theorem brl (b l : BitVec 2) : Statement (.brl b l) := fun _ => ⟨fun _ => rfl, fun _ => List.cons_ne_nil _ _⟩
theorem ldBS (d a : BitVec 5) (imm : BitVec 12) : Statement (.ldBS d a imm) := fun _ => ⟨fun _ => rfl, fun _ => List.cons_ne_nil _ _⟩
theorem ldBN (d a : BitVec 5) (imm : BitVec 12) : Statement (.ldBN d a imm) := fun _ => ⟨fun _ => rfl, fun _ => List.cons_ne_nil _ _⟩
theorem ldHS (d a : BitVec 5) (imm : BitVec 12) : Statement (.ldHS d a imm) := fun _ => ⟨fun _ => rfl, fun _ => List.cons_ne_nil _ _⟩
theorem ldHN (d a : BitVec 5) (imm : BitVec 12) : Statement (.ldHN d a imm) := fun _ => ⟨fun _ => rfl, fun _ => List.cons_ne_nil _ _⟩
theorem ldWS (d a : BitVec 5) (imm : BitVec 12) : Statement (.ldWS d a imm) := fun _ => ⟨fun _ => rfl, fun _ => List.cons_ne_nil _ _⟩
theorem ldWN (d a : BitVec 5) (imm : BitVec 12) : Statement (.ldWN d a imm) := fun _ => ⟨fun _ => rfl, fun _ => List.cons_ne_nil _ _⟩
theorem ldD (d a : BitVec 5) (imm : BitVec 12) : Statement (.ldD d a imm) := fun _ => ⟨fun _ => rfl, fun _ => List.cons_ne_nil _ _⟩
theorem stB (d a : BitVec 5) (imm : BitVec 12) : Statement (.stB d a imm) := fun _ => ⟨fun _ => rfl, fun _ => List.cons_ne_nil _ _⟩
theorem stH (d a : BitVec 5) (imm : BitVec 12) : Statement (.stH d a imm) := fun _ => ⟨fun _ => rfl, fun _ => List.cons_ne_nil _ _⟩
theorem stW (d a : BitVec 5) (imm : BitVec 12) : Statement (.stW d a imm) := fun _ => ⟨fun _ => rfl, fun _ => List.cons_ne_nil _ _⟩
theorem stD (d a : BitVec 5) (imm : BitVec 12) : Statement (.stD d a imm) := fun _ => ⟨fun _ => rfl, fun _ => List.cons_ne_nil _ _⟩
theorem vany (c : BitVec 3) (p : BitVec 3) : Statement (.vany c p) := fun _ => ⟨fun _ => rfl, fun _ => List.cons_ne_nil _ _⟩
theorem vall (c : BitVec 3) (p : BitVec 3) : Statement (.vall c p) := fun _ => ⟨fun _ => rfl, fun _ => List.cons_ne_nil _ _⟩
theorem widf (d : BitVec 5) (k : BitVec 3) : Statement (.widf d k) := fun _ => ⟨fun _ => rfl, fun _ => List.cons_ne_nil _ _⟩
theorem srr (d : BitVec 5) (sel : BitVec 12) : Statement (.srr d sel) := fun _ => ⟨fun _ => rfl, fun _ => List.cons_ne_nil _ _⟩
theorem srw (a : BitVec 5) (sel : BitVec 12) : Statement (.srw a sel) := fun _ => ⟨fun _ => rfl, fun _ => List.cons_ne_nil _ _⟩
theorem sig (t : BitVec 4) : Statement (.sig t) := fun _ => ⟨fun _ => rfl, fun _ => List.cons_ne_nil _ _⟩
theorem waitk (t : BitVec 4) : Statement (.waitk t) := fun _ => ⟨fun _ => rfl, fun _ => List.cons_ne_nil _ _⟩
theorem bwait (slot : BitVec 4) : Statement (.bwait slot) := fun _ => ⟨fun _ => rfl, fun _ => List.cons_ne_nil _ _⟩
theorem qmark : Statement .qmark := fun _ => ⟨fun _ => rfl, fun _ => List.cons_ne_nil _ _⟩
theorem drain (mask : BitVec 6) : Statement (.drain mask) := fun _ => ⟨fun _ => rfl, fun _ => List.cons_ne_nil _ _⟩
theorem qcancel (d : BitVec 5) (mask : BitVec 6) : Statement (.qcancel d mask) := fun _ => ⟨fun _ => rfl, fun _ => List.cons_ne_nil _ _⟩
theorem safept : Statement .safept := fun _ => ⟨fun _ => rfl, fun _ => List.cons_ne_nil _ _⟩
theorem fence (scope : BitVec 3) : Statement (.fence scope) := fun _ => ⟨fun _ => rfl, fun _ => List.cons_ne_nil _ _⟩
theorem trap (imm : BitVec 12) : Statement (.trap imm) := fun _ => ⟨fun _ => rfl, fun _ => List.cons_ne_nil _ _⟩
theorem eret : Statement .eret := fun _ => ⟨fun _ => rfl, fun _ => List.cons_ne_nil _ _⟩
theorem halt : Statement .halt := fun _ => ⟨fun _ => rfl, fun _ => List.cons_ne_nil _ _⟩
theorem dld (dn : BitVec 6) (a : BitVec 5) : Statement (.dld dn a) := fun _ => ⟨fun _ => rfl, fun _ => List.cons_ne_nil _ _⟩
theorem nld (n : BitVec 3) (a : BitVec 5) : Statement (.nld n a) := fun _ => ⟨fun _ => rfl, fun _ => List.cons_ne_nil _ _⟩
theorem lset (l : BitVec 4) (a : BitVec 5) : Statement (.lset l a) := fun _ => ⟨fun _ => rfl, fun _ => List.cons_ne_nil _ _⟩
theorem lseti (l : BitVec 4) (imm : BitVec 17) : Statement (.lseti l imm) := fun _ => ⟨fun _ => rfl, fun _ => List.cons_ne_nil _ _⟩
theorem fladd (a : BitVec 5) (f : BitVec 8) (m : BitVec 3) : Statement (.fladd a f m) := fun _ => ⟨fun _ => rfl, fun _ => List.cons_ne_nil _ _⟩
theorem flset (d a : BitVec 5) (f : BitVec 8) : Statement (.flset d a f) := fun _ => ⟨fun _ => rfl, fun _ => List.cons_ne_nil _ _⟩
theorem flwait (d a : BitVec 5) (f : BitVec 8) : Statement (.flwait d a f) := fun _ => ⟨fun _ => rfl, fun _ => List.cons_ne_nil _ _⟩
theorem waita (d a b : BitVec 5) (dbl : Bool) : Statement (.waita d a b dbl) := fun _ => ⟨fun _ => rfl, fun _ => List.cons_ne_nil _ _⟩
theorem amoAdd (d a b : BitVec 5) (dbl : Bool) : Statement (.amoAdd d a b dbl) := fun _ => ⟨fun _ => rfl, fun _ => List.cons_ne_nil _ _⟩
theorem amoMin (d a b : BitVec 5) (dbl uns : Bool) : Statement (.amoMin d a b dbl uns) := fun _ => ⟨fun _ => rfl, fun _ => List.cons_ne_nil _ _⟩
theorem amoMax (d a b : BitVec 5) (dbl uns : Bool) : Statement (.amoMax d a b dbl uns) := fun _ => ⟨fun _ => rfl, fun _ => List.cons_ne_nil _ _⟩
theorem amoAnd (d a b : BitVec 5) (dbl : Bool) : Statement (.amoAnd d a b dbl) := fun _ => ⟨fun _ => rfl, fun _ => List.cons_ne_nil _ _⟩
theorem amoOr (d a b : BitVec 5) (dbl : Bool) : Statement (.amoOr d a b dbl) := fun _ => ⟨fun _ => rfl, fun _ => List.cons_ne_nil _ _⟩
theorem amoXchg (d a b : BitVec 5) (dbl : Bool) : Statement (.amoXchg d a b dbl) := fun _ => ⟨fun _ => rfl, fun _ => List.cons_ne_nil _ _⟩
theorem amoCas (d a b : BitVec 5) (dbl : Bool) : Statement (.amoCas d a b dbl) := fun _ => ⟨fun _ => rfl, fun _ => List.cons_ne_nil _ _⟩
theorem pgreq (a : BitVec 5) (imm : BitVec 12) : Statement (.pgreq a imm) := fun _ => ⟨fun _ => rfl, fun _ => List.cons_ne_nil _ _⟩
theorem tspawn (d a : BitVec 5) : Statement (.tspawn d a) := fun _ => ⟨fun _ => rfl, fun _ => List.cons_ne_nil _ _⟩
theorem tend : Statement .tend := fun _ => ⟨fun _ => rfl, fun _ => List.cons_ne_nil _ _⟩
theorem tyield : Statement .tyield := fun _ => ⟨fun _ => rfl, fun _ => List.cons_ne_nil _ _⟩
theorem tabort (a : BitVec 5) : Statement (.tabort a) := fun _ => ⟨fun _ => rfl, fun _ => List.cons_ne_nil _ _⟩
theorem tbudget (d a : BitVec 5) : Statement (.tbudget d a) := fun _ => ⟨fun _ => rfl, fun _ => List.cons_ne_nil _ _⟩
theorem tstat (d a : BitVec 5) : Statement (.tstat d a) := fun _ => ⟨fun _ => rfl, fun _ => List.cons_ne_nil _ _⟩
theorem tfrontTs (d : BitVec 5) (t : BitVec 4) : Statement (.tfrontTs d t) := fun _ => ⟨fun _ => rfl, fun _ => List.cons_ne_nil _ _⟩
theorem tfrontWid (d : BitVec 5) (t : BitVec 4) : Statement (.tfrontWid d t) := fun _ => ⟨fun _ => rfl, fun _ => List.cons_ne_nil _ _⟩
theorem cstart (d a b : BitVec 5) : Statement (.cstart d a b) := fun _ => ⟨fun _ => rfl, fun _ => List.cons_ne_nil _ _⟩
theorem cabort (a : BitVec 5) : Statement (.cabort a) := fun _ => ⟨fun _ => rfl, fun _ => List.cons_ne_nil _ _⟩
theorem cstat (d a : BitVec 5) : Statement (.cstat d a) := fun _ => ⟨fun _ => rfl, fun _ => List.cons_ne_nil _ _⟩
theorem nop : Statement .nop := fun _ => ⟨fun _ => rfl, fun _ => List.cons_ne_nil _ _⟩
theorem limmL (d : BitVec 5) (imm : BitVec 32) : Statement (.limmL d imm) := fun _ => ⟨fun _ => rfl, fun _ => List.cons_ne_nil _ _⟩
theorem limmLh (d : BitVec 5) (imm : BitVec 32) : Statement (.limmLh d imm) := fun _ => ⟨fun _ => rfl, fun _ => List.cons_ne_nil _ _⟩
theorem addiL (d a : BitVec 5) (imm : BitVec 32) : Statement (.addiL d a imm) := fun _ => ⟨fun _ => rfl, fun _ => List.cons_ne_nil _ _⟩
theorem andiL (d a : BitVec 5) (imm : BitVec 32) : Statement (.andiL d a imm) := fun _ => ⟨fun _ => rfl, fun _ => List.cons_ne_nil _ _⟩
theorem oriL (d a : BitVec 5) (imm : BitVec 32) : Statement (.oriL d a imm) := fun _ => ⟨fun _ => rfl, fun _ => List.cons_ne_nil _ _⟩
theorem xoriL (d a : BitVec 5) (imm : BitVec 32) : Statement (.xoriL d a imm) := fun _ => ⟨fun _ => rfl, fun _ => List.cons_ne_nil _ _⟩
theorem xForm (base : Instr) (x : XRegs) : Statement (.xForm base x) := by
  intro h
  refine ⟨fun _ => rfl, fun _ he => ?_⟩
  have hx : xUse base ≠ none := by
    intro hn
    simp [Instr.wellFormed, hn] at h
  cases base <;> first | exact hx rfl | cases he
theorem cpinNL (d1 d2 : BitVec 6) (n : BitVec 3) (s : BitVec 4) (q : BitVec 3) (imm : BitVec 32) : Statement (.cpinNL d1 d2 n s q imm) := fun _ => ⟨fun _ => rfl, fun _ => List.cons_ne_nil _ _⟩
theorem cpfillWL (d1 : BitVec 6) (n : BitVec 3) (s : BitVec 4) (imm : BitVec 32) : Statement (.cpfillWL d1 n s imm) := fun _ => ⟨fun _ => rfl, fun _ => List.cons_ne_nil _ _⟩
theorem cpfillNL (d1 : BitVec 6) (n : BitVec 3) (s : BitVec 4) (imm : BitVec 32) : Statement (.cpfillNL d1 n s imm) := fun _ => ⟨fun _ => rfl, fun _ => List.cons_ne_nil _ _⟩
theorem cpoutNL (d1 d2 : BitVec 6) (n : BitVec 3) (s : BitVec 4) (imm : BitVec 32) : Statement (.cpoutNL d1 d2 n s imm) := fun _ => ⟨fun _ => rfl, fun _ => List.cons_ne_nil _ _⟩
theorem noteL (d1 d2 : BitVec 6) (s : BitVec 4) (imm : BitVec 32) : Statement (.noteL d1 d2 s imm) := fun _ => ⟨fun _ => rfl, fun _ => List.cons_ne_nil _ _⟩
theorem landL (d1 : BitVec 6) (s : BitVec 4) (imm : BitVec 32) : Statement (.landL d1 s imm) := fun _ => ⟨fun _ => rfl, fun _ => List.cons_ne_nil _ _⟩
theorem unlandL (imm : BitVec 32) : Statement (.unlandL imm) := fun _ => ⟨fun _ => rfl, fun _ => List.cons_ne_nil _ _⟩
theorem declL (imm : BitVec 32) : Statement (.declL imm) := fun _ => ⟨fun _ => rfl, fun _ => List.cons_ne_nil _ _⟩
theorem nwaitL (d1 : BitVec 6) (imm : BitVec 32) : Statement (.nwaitL d1 imm) := fun _ => ⟨fun _ => rfl, fun _ => List.cons_ne_nil _ _⟩
theorem retendL (imm : BitVec 32) : Statement (.retendL imm) := fun _ => ⟨fun _ => rfl, fun _ => List.cons_ne_nil _ _⟩
theorem kvpolL (imm : BitVec 32) : Statement (.kvpolL imm) := fun _ => ⟨fun _ => rfl, fun _ => List.cons_ne_nil _ _⟩
theorem kvtrimL (d1 : BitVec 6) (imm : BitVec 32) : Statement (.kvtrimL d1 imm) := fun _ => ⟨fun _ => rfl, fun _ => List.cons_ne_nil _ _⟩
theorem reset : Statement .reset := fun _ => ⟨fun h => absurd rfl h, fun h => absurd h Bool.false_ne_true⟩
theorem freezeN (ns : Nat) : Statement (.freezeN ns) := fun _ => ⟨fun h => absurd rfl h, fun h => absurd h Bool.false_ne_true⟩
theorem tapFreeze : Statement .tapFreeze := fun _ => ⟨fun h => absurd rfl h, fun h => absurd h Bool.false_ne_true⟩
theorem scanRead (ask : ScanAsk) : Statement (.scanRead ask) := fun _ => ⟨fun h => absurd rfl h, fun h => absurd h Bool.false_ne_true⟩
theorem thermalTrip : Statement .thermalTrip := fun _ => ⟨fun h => absurd rfl h, fun h => absurd h Bool.false_ne_true⟩
theorem powerThrottle (cycles : Nat) : Statement (.powerThrottle cycles) := fun _ => ⟨fun h => absurd rfl h, fun h => absurd h Bool.false_ne_true⟩
theorem laneFailure (boundary : Nat) : Statement (.laneFailure boundary) := fun _ => ⟨fun h => absurd rfl h, fun h => absurd h Bool.false_ne_true⟩
theorem hostLinkTraining (rates widths cxl : List Nat) : Statement (.hostLinkTraining rates widths cxl) := fun _ => ⟨fun h => absurd rfl h, fun h => absurd h Bool.false_ne_true⟩
theorem doorbell (at_ : Bar0At) (addr : BitVec 64) : Statement (.doorbell at_ addr) := fun _ => ⟨fun h => absurd rfl h, fun h => absurd h Bool.false_ne_true⟩
theorem launchStart (ctx : BitVec 4) (args : LaunchArgs) : Statement (.launchStart ctx args) := fun _ => ⟨fun h => absurd rfl h, fun h => absurd h Bool.false_ne_true⟩
theorem taskCreate (die : Nat) : Statement (.taskCreate die) := fun _ => ⟨fun h => absurd rfl h, fun h => absurd h Bool.false_ne_true⟩
theorem dispatch (die : Nat) : Statement (.dispatch die) := fun _ => ⟨fun h => absurd rfl h, fun h => absurd h Bool.false_ne_true⟩
theorem bindRecordReplace (die idx : Nat) (r : BindRecord) : Statement (.bindRecordReplace die idx r) := fun _ => ⟨fun h => absurd rfl h, fun h => absurd h Bool.false_ne_true⟩
theorem dispatchPatternLoad (die : Nat) (pat : List Byte) : Statement (.dispatchPatternLoad die pat) := fun _ => ⟨fun h => absurd rfl h, fun h => absurd h Bool.false_ne_true⟩
theorem launchCompletion (launch : Nat) : Statement (.launchCompletion launch) := fun _ => ⟨fun h => absurd rfl h, fun h => absurd h Bool.false_ne_true⟩
theorem contextEnd (ctx : BitVec 4) (reason : BitVec 8) : Statement (.contextEnd ctx reason) := fun _ => ⟨fun h => absurd rfl h, fun h => absurd h Bool.false_ne_true⟩
theorem flagUnitAssign (launch : Nat) : Statement (.flagUnitAssign launch) := fun _ => ⟨fun h => absurd rfl h, fun h => absurd h Bool.false_ne_true⟩
theorem rangeEntryReplace (ctx : BitVec 4) (idx : Nat) (e : RangeEntry) : Statement (.rangeEntryReplace ctx idx e) := fun _ => ⟨fun h => absurd rfl h, fun h => absurd h Bool.false_ne_true⟩
theorem pageInvalidate (ctx : BitVec 4) (va : BitVec 52) : Statement (.pageInvalidate ctx va) := fun _ => ⟨fun h => absurd rfl h, fun h => absurd h Bool.false_ne_true⟩
theorem pageServiceReport (frame : Option (BitVec 64)) : Statement (.pageServiceReport frame) := fun _ => ⟨fun h => absurd rfl h, fun h => absurd h Bool.false_ne_true⟩
theorem scOperationIssue : Statement .scOperationIssue := fun _ => ⟨fun h => absurd rfl h, fun h => absurd h Bool.false_ne_true⟩
theorem waitaMonitorFire : Statement .waitaMonitorFire := fun _ => ⟨fun h => absurd rfl h, fun h => absurd h Bool.false_ne_true⟩
theorem flagUpdateApply (rank : BitVec 3) (u : FlagUpdate) : Statement (.flagUpdateApply rank u) := fun _ => ⟨fun h => absurd rfl h, fun h => absurd h Bool.false_ne_true⟩
theorem preemptRequest : Statement .preemptRequest := fun _ => ⟨fun h => absurd rfl h, fun h => absurd h Bool.false_ne_true⟩
theorem drainLimitExpiry : Statement .drainLimitExpiry := fun _ => ⟨fun h => absurd rfl h, fun h => absurd h Bool.false_ne_true⟩
theorem preemptRequestDrop (land seg : Nat) : Statement (.preemptRequestDrop land seg) := fun _ => ⟨fun h => absurd rfl h, fun h => absurd h Bool.false_ne_true⟩
theorem strandRestore (pa : BitVec 64) : Statement (.strandRestore pa) := fun _ => ⟨fun h => absurd rfl h, fun h => absurd h Bool.false_ne_true⟩
theorem engineTrapDelivery : Statement .engineTrapDelivery := fun _ => ⟨fun h => absurd rfl h, fun h => absurd h Bool.false_ne_true⟩
theorem reclaim : Statement .reclaim := fun _ => ⟨fun h => absurd rfl h, fun h => absurd h Bool.false_ne_true⟩
theorem pullfail : Statement .pullfail := fun _ => ⟨fun h => absurd rfl h, fun h => absurd h Bool.false_ne_true⟩
theorem budget : Statement .budget := fun _ => ⟨fun h => absurd rfl h, fun h => absurd h Bool.false_ne_true⟩
theorem collfail : Statement .collfail := fun _ => ⟨fun h => absurd rfl h, fun h => absurd h Bool.false_ne_true⟩
theorem compart : Statement .compart := fun _ => ⟨fun h => absurd rfl h, fun h => absurd h Bool.false_ne_true⟩
theorem budgetExhausted : Statement .budgetExhausted := fun _ => ⟨fun h => absurd rfl h, fun h => absurd h Bool.false_ne_true⟩
theorem taskBecomesNonspeculative (task : BitVec 64) : Statement (.taskBecomesNonspeculative task) := fun _ => ⟨fun h => absurd rfl h, fun h => absurd h Bool.false_ne_true⟩
theorem taskCommit (task : CommitAsk) : Statement (.taskCommit task) := fun _ => ⟨fun h => absurd rfl h, fun h => absurd h Bool.false_ne_true⟩
theorem notice (n : NoticeIn) : Statement (.notice n) := fun _ => ⟨fun h => absurd rfl h, fun h => absurd h Bool.false_ne_true⟩
theorem accept (about : Answered) : Statement (.accept about) := fun _ => ⟨fun h => absurd rfl h, fun h => absurd h Bool.false_ne_true⟩
theorem full (moor : Nat) (who : FullFor) : Statement (.full moor who) := fun _ => ⟨fun h => absurd rfl h, fun h => absurd h Bool.false_ne_true⟩
theorem absent (about : Answered) : Statement (.absent about) := fun _ => ⟨fun h => absurd rfl h, fun h => absurd h Bool.false_ne_true⟩
theorem noRoute (about : Answered) : Statement (.noRoute about) := fun _ => ⟨fun h => absurd rfl h, fun h => absurd h Bool.false_ne_true⟩
theorem present (src : QuayAddr) : Statement (.present src) := fun _ => ⟨fun h => absurd rfl h, fun h => absurd h Bool.false_ne_true⟩
theorem noticeResendTimeout (moor : Nat) (dst : ResendTo) : Statement (.noticeResendTimeout moor dst) := fun _ => ⟨fun h => absurd rfl h, fun h => absurd h Bool.false_ne_true⟩
theorem segmentRequestIssue : Statement .segmentRequestIssue := fun _ => ⟨fun h => absurd rfl h, fun h => absurd h Bool.false_ne_true⟩
theorem segmentRequest (r : SegRequest) : Statement (.segmentRequest r) := fun _ => ⟨fun h => absurd rfl h, fun h => absurd h Bool.false_ne_true⟩
theorem dataResponse (land : Nat) (lgen : BitVec 8) (seg : Nat) (cmp : BitVec 16) (data : List Byte) : Statement (.dataResponse land lgen seg cmp data) := fun _ => ⟨fun h => absurd rfl h, fun h => absurd h Bool.false_ne_true⟩
theorem doneResponse (land : Nat) (lgen : BitVec 8) (seg : Nat) : Statement (.doneResponse land lgen seg) := fun _ => ⟨fun h => absurd rfl h, fun h => absurd h Bool.false_ne_true⟩
theorem staleResponse (land : Nat) (lgen : BitVec 8) (seg : Nat) : Statement (.staleResponse land lgen seg) := fun _ => ⟨fun h => absurd rfl h, fun h => absurd h Bool.false_ne_true⟩
theorem eccerrResponse (land : Nat) (lgen : BitVec 8) (seg : Nat) : Statement (.eccerrResponse land lgen seg) := fun _ => ⟨fun h => absurd rfl h, fun h => absurd h Bool.false_ne_true⟩
theorem requestRetryTimeout (land seg : Nat) : Statement (.requestRetryTimeout land seg) := fun _ => ⟨fun h => absurd rfl h, fun h => absurd h Bool.false_ne_true⟩
theorem absentWaitTimeout (land seg : Nat) : Statement (.absentWaitTimeout land seg) := fun _ => ⟨fun h => absurd rfl h, fun h => absurd h Bool.false_ne_true⟩
theorem acknowledgement (src : QuayAddr) (moor : BitVec 8) (gen : BitVec 8) (cidx : BitVec 6) (coll : Option CollEnd) : Statement (.acknowledgement src moor gen cidx coll) := fun _ => ⟨fun h => absurd rfl h, fun h => absurd h Bool.false_ne_true⟩
theorem decline (src : QuayAddr) (moor : BitVec 8) (gen : BitVec 8) (cidx : BitVec 6) (coll : Option CollEnd) : Statement (.decline src moor gen cidx coll) := fun _ => ⟨fun h => absurd rfl h, fun h => absurd h Bool.false_ne_true⟩
theorem mooringTimeout (moor : Nat) : Statement (.mooringTimeout moor) := fun _ => ⟨fun h => absurd rfl h, fun h => absurd h Bool.false_ne_true⟩
theorem ackResendTimeout (a : KeptAt) : Statement (.ackResendTimeout a) := fun _ => ⟨fun h => absurd rfl h, fun h => absurd h Bool.false_ne_true⟩
theorem communicatorCreate (idx : Nat) (e : CommEntry) : Statement (.communicatorCreate idx e) := fun _ => ⟨fun h => absurd rfl h, fun h => absurd h Bool.false_ne_true⟩
theorem communicatorDestroy (ctx : BitVec 4) (idx : Nat) : Statement (.communicatorDestroy ctx idx) := fun _ => ⟨fun h => absurd rfl h, fun h => absurd h Bool.false_ne_true⟩
theorem stepNote (ctx : BitVec 4) (idx : Nat) : Statement (.stepNote ctx idx) := fun _ => ⟨fun h => absurd rfl h, fun h => absurd h Bool.false_ne_true⟩
theorem stepPull (ctx : BitVec 4) (idx : Nat) (ans : PullAnswer) : Statement (.stepPull ctx idx ans) := fun _ => ⟨fun h => absurd rfl h, fun h => absurd h Bool.false_ne_true⟩
theorem stepPrs (ctx : BitVec 4) (idx : Nat) (ans : PullAnswer) : Statement (.stepPrs ctx idx ans) := fun _ => ⟨fun h => absurd rfl h, fun h => absurd h Bool.false_ne_true⟩
theorem stepCopy (ctx : BitVec 4) (idx : Nat) : Statement (.stepCopy ctx idx) := fun _ => ⟨fun h => absurd rfl h, fun h => absurd h Bool.false_ne_true⟩
theorem stepWait (ctx : BitVec 4) (idx : Nat) : Statement (.stepWait ctx idx) := fun _ => ⟨fun h => absurd rfl h, fun h => absurd h Bool.false_ne_true⟩
theorem collectiveCompletion (ctx : BitVec 4) (idx : Nat) : Statement (.collectiveCompletion ctx idx) := fun _ => ⟨fun h => absurd rfl h, fun h => absurd h Bool.false_ne_true⟩
theorem collectiveFailure (ctx : BitVec 4) (idx : Nat) (why : CollReason) (peer : BitVec 12) : Statement (.collectiveFailure ctx idx why peer) := fun _ => ⟨fun h => absurd rfl h, fun h => absurd h Bool.false_ne_true⟩
theorem contextSuspend (ctx : BitVec 4) : Statement (.contextSuspend ctx) := fun _ => ⟨fun h => absurd rfl h, fun h => absurd h Bool.false_ne_true⟩
theorem contextResume (ctx : BitVec 4) : Statement (.contextResume ctx) := fun _ => ⟨fun h => absurd rfl h, fun h => absurd h Bool.false_ne_true⟩
theorem routeEntryWrite (dev : Nat) (e : RouteEntry) : Statement (.routeEntryWrite dev e) := fun _ => ⟨fun h => absurd rfl h, fun h => absurd h Bool.false_ne_true⟩
theorem portDown (port : Nat) : Statement (.portDown port) := fun _ => ⟨fun h => absurd rfl h, fun h => absurd h Bool.false_ne_true⟩
theorem portUp (port lanes : Nat) : Statement (.portUp port lanes) := fun _ => ⟨fun h => absurd rfl h, fun h => absurd h Bool.false_ne_true⟩
theorem pause (port vc : Nat) (on : Bool) : Statement (.pause port vc on) := fun _ => ⟨fun h => absurd rfl h, fun h => absurd h Bool.false_ne_true⟩
theorem compartmentAssign (ctx : BitVec 4) (cmp : BitVec 16) : Statement (.compartmentAssign ctx cmp) := fun _ => ⟨fun h => absurd rfl h, fun h => absurd h Bool.false_ne_true⟩
theorem epochInstall (cmp : BitVec 16) (epoch : EpochKey) (revoked : Option (BitVec 12)) : Statement (.epochInstall cmp epoch revoked) := fun _ => ⟨fun h => absurd rfl h, fun h => absurd h Bool.false_ne_true⟩
theorem epochExpiry (cmp : BitVec 16) : Statement (.epochExpiry cmp) := fun _ => ⟨fun h => absurd rfl h, fun h => absurd h Bool.false_ne_true⟩
theorem participantRevoke (cmp : BitVec 16) : Statement (.participantRevoke cmp) := fun _ => ⟨fun h => absurd rfl h, fun h => absurd h Bool.false_ne_true⟩
theorem keyEnrol (slot : Nat) (key : List Byte) : Statement (.keyEnrol slot key) := fun _ => ⟨fun h => absurd rfl h, fun h => absurd h Bool.false_ne_true⟩
theorem attestationReport (ask : ReportAsk) : Statement (.attestationReport ask) := fun _ => ⟨fun h => absurd rfl h, fun h => absurd h Bool.false_ne_true⟩
theorem debugUnlock (sig : List Byte) : Statement (.debugUnlock sig) := fun _ => ⟨fun h => absurd rfl h, fun h => absurd h Bool.false_ne_true⟩
theorem coreOutOfService (die core : Nat) : Statement (.coreOutOfService die core) := fun _ => ⟨fun h => absurd rfl h, fun h => absurd h Bool.false_ne_true⟩
theorem dieDrain (die : Nat) : Statement (.dieDrain die) := fun _ => ⟨fun h => absurd rfl h, fun h => absurd h Bool.false_ne_true⟩
theorem hbmChannelRetrain (stack channel : Nat) : Statement (.hbmChannelRetrain stack channel) := fun _ => ⟨fun h => absurd rfl h, fun h => absurd h Bool.false_ne_true⟩
theorem laneRecalibrate (boundary : Nat) : Statement (.laneRecalibrate boundary) := fun _ => ⟨fun h => absurd rfl h, fun h => absurd h Bool.false_ne_true⟩
theorem firmwareUpdate : Statement .firmwareUpdate := fun _ => ⟨fun h => absurd rfl h, fun h => absurd h Bool.false_ne_true⟩
theorem coreFailure (die core : Nat) : Statement (.coreFailure die core) := fun _ => ⟨fun h => absurd rfl h, fun h => absurd h Bool.false_ne_true⟩
theorem managementCoreFailure (die : Nat) : Statement (.managementCoreFailure die) := fun _ => ⟨fun h => absurd rfl h, fun h => absurd h Bool.false_ne_true⟩
theorem hubFailure : Statement .hubFailure := fun _ => ⟨fun h => absurd rfl h, fun h => absurd h Bool.false_ne_true⟩
theorem unassignedWord (w w2 : BitVec 32) (sub : BitVec 8) : Statement (.unassignedWord w w2 sub) := fun _ => ⟨fun h => absurd rfl h, fun h => absurd h Bool.false_ne_true⟩
theorem fetchFault : Statement .fetchFault := fun _ => ⟨fun h => absurd rfl h, fun h => absurd h Bool.false_ne_true⟩
theorem microsecondTick : Statement .microsecondTick := fun _ => ⟨fun h => absurd rfl h, fun h => absurd h Bool.false_ne_true⟩
theorem hostWrite (pa : BitVec 64) (data : List Byte) : Statement (.hostWrite pa data) := fun _ => ⟨fun h => absurd rfl h, fun h => absurd h Bool.false_ne_true⟩
theorem refused (land : Nat) (lgen : BitVec 8) (seg : Nat) : Statement (.refused land lgen seg) := fun _ => ⟨fun h => absurd rfl h, fun h => absurd h Bool.false_ne_true⟩
theorem hbmChannelFailure (stack channel : Nat) : Statement (.hbmChannelFailure stack channel) := fun _ => ⟨fun h => absurd rfl h, fun h => absurd h Bool.false_ne_true⟩
theorem corePowerRemoved : Statement .corePowerRemoved := fun _ => ⟨fun h => absurd rfl h, fun h => absurd h Bool.false_ne_true⟩

end Sys2Proof.Laws.WordClass
end

