-- ==== Sys2Proof/Tests/Slice0.lean ====
section
/-!
SUPPORT. Tests: terms that `wellFormed` refuses, the manual's worked words, steps on small states, and a state that meets the hypotheses of each
statement of Certificates/Slice0/Obligations.lean.
-/

namespace Sys2Proof.Tests

open Sys2Proof Sys2Proof.Machine

-- One theorem after another: the kernel evaluates many of them, and each of them waiting on a thread of its own takes a stack each.
set_option Elab.async false

/-! ## WellFormed: one ill-formed term for each check -/

theorem test_wf_codes :
    ([.cmp 1 12 2 3, .cmpi 1 15 2 3, .widf 1 6, .srr 1 0x009, .srw 1 0x043, .drain 0, .qcancel 1 0, .fence 6, .scamo 1 2 3 true 7,
      .vcmp 1 6 2 3 .s8, .vcmpI 1 9 2 3 .s8, .vmaskw 1 1 2 3 4] : List Instr).all (fun i => !i.wellFormed) = true := by decide

theorem test_wf_rounding :
    ([.vadd ⟨1, 2, 3, false, false, 1, .s8⟩, .vsub ⟨1, 2, 3, false, false, 1, .s8⟩, .vmul ⟨1, 2, 3, false, false, 2, .n8⟩,
      .vfma ⟨1, 2, 3, false, false, 3, .s16⟩, .vfmaNp ⟨1, 2, 3, false, false, 3, .s16⟩, .vfmaNa ⟨1, 2, 3, false, false, 3, .s16⟩,
      .vfmaNn ⟨1, 2, 3, false, false, 3, .s16⟩, .vmin ⟨1, 2, 3, false, false, 1, .s8⟩, .vmax ⟨1, 2, 3, false, false, 1, .s8⟩,
      .vminNan ⟨1, 2, 3, false, false, 0, .s8⟩, .vmaxNan ⟨1, 2, 3, false, false, 0, .s8⟩, .vabs ⟨1, 2, false, 1, .s8⟩,
      .vabd ⟨1, 2, 3, false, false, 1, .s8⟩, .vneg ⟨1, 2, false, 1, .s8⟩, .vsign ⟨1, 2, 3, false, false, 1, .s8⟩, .vclamp ⟨1, 2, 3, false, false, 1, .s8⟩,
      .vavg ⟨1, 2, 3, false, false, 1, .s8⟩, .vmov ⟨1, 2, false, 1, .s8⟩, .vscale ⟨1, 2, 3, false, false, 0, .s8⟩, .vgete ⟨1, 2, false, 0, .s8⟩,
      .vredSum ⟨1, 2, false, 1, .s8⟩, .vredMax ⟨1, 2, false, 1, .s8⟩, .vredMin ⟨1, 2, false, 1, .s8⟩, .vredAmax ⟨1, 2, false, 1, .s8⟩,
      .vredSsq ⟨1, 2, false, 1, .s8⟩, .vscanSum ⟨1, 2, false, 1, .s8⟩, .vscanMax ⟨1, 2, false, 1, .s8⟩] : List Instr).all
      (fun i => !i.wellFormed) = true := by decide

theorem test_wf_types :
    ([.vaddSat ⟨1, 2, 3, false, false, .f32⟩, .vsubSat ⟨1, 2, 3, false, false, .f32⟩, .vmulHi ⟨1, 2, 3, false, false, .bf16⟩,
      .vclz ⟨1, 2, false, .f32⟩, .vpopc ⟨1, 2, false, .f32⟩, .vshl ⟨1, 2, 3, false, false, .f32⟩, .vshr ⟨1, 2, 3, false, false, .f32⟩,
      .vsra ⟨1, 2, 3, false, false, .n8⟩, .vshlI ⟨1, 2, 8, false, .s8⟩, .vshrI ⟨1, 2, 16, false, .n16⟩, .vsraI ⟨1, 2, 8, false, .s8⟩,
      .vaddI ⟨1, 2, 3, false, .f32⟩, .vminI ⟨1, 2, 3, false, .f32⟩, .vmaxI ⟨1, 2, 3, false, .f32⟩, .vexp2 ⟨1, 2, false, .s8⟩,
      .vlog2 ⟨1, 2, false, .s8⟩, .vrcp ⟨1, 2, false, .s8⟩, .vrsq ⟨1, 2, false, .s8⟩, .viota 1 .f32] : List Instr).all
      (fun i => !i.wellFormed) = true := by decide

theorem test_wf_destinations :
    ([.vcmp 0 0 1 2 .s8, .vcmpI 0 0 1 2 .s8, .vmaskw 0 0 1 2 3, .pand 0 1 2 false false, .por 0 1 2 false false, .pxor 0 1 2 false false,
      .pnot 0 1 false, .pld 0 1 2 3, .vconfGap 0 1 2, .vconfDrift 0 1 2 3] : List Instr).all (fun i => !i.wellFormed) = true := by decide

theorem test_wf_matrix_and_copy :
    ([.mrdF32 1 2 3 5, .mrdBf16 1 2 3 5, .mrdBfx8 1 2 3 5, .mrdS8 1 2 3 5, .mrdN8 1 2 3 5, .mrdS32 1 2 3 5, .mrdvF32 31 1 0 0, .mrdvF32 1 1 0 5,
      .mrdvBf16 1 1 0 5, .mrdvS32 31 1 0 0, .cpinW 1 2 3 4 5, .cpinN 1 2 3 4 5, .cpinWNt 1 2 3 4 5, .cpinNNt 1 2 3 4 5, .cpgathW 1 2 3 4 5,
      .cpgathN 1 2 3 4 5, .cpgathWNt 1 2 3 4 5, .cpgathNNt 1 2 3 4 5, .cpplaneW 1 2 3 4 5, .cpplaneN 1 2 3 4 5, .cpplaneWNt 1 2 3 4 5,
      .cpplaneNNt 1 2 3 4 5, .kvmapK 1 5, .kvmapV 1 5, .cpinNL 1 2 3 4 5 6, .xForm .nop ⟨0, 0, 0, 0, 0⟩, .xForm (.land 1 2) ⟨1, 0, 0, 0, 0⟩] :
      List Instr).all (fun i => !i.wellFormed) = true := by decide

/-! ## The manual's worked words -/

/-- R34, R40, R80, R83, R85, R93, R106, R110: chapters 02 and 04. -/
theorem test_words_of_the_strand :
    decode 0x00464280 0 = .ok (.add 3 4 5) ∧ decode 0x05864282 0 = .ok (.sel 3 4 5 2) ∧ decode 0x08C91010 0 = .ok (.cmpi 1 2 4 16) ∧
    decode 0xE0440000 0x89ABCDEF = .ok (.limmL 4 0x89ABCDEF) ∧ decode 0xE0840000 0x01234567 = .ok (.limmLh 4 0x01234567) ∧
    decode 0x11800000 0 = .ok .qmark ∧ decode 0x11C00008 0 = .ok (.drain 8) ∧ decode 0x12400000 0 = .ok .safept ∧
    decode 0x12800003 0 = .ok (.fence 3) ∧ decode 0x1FC00000 0 = .ok .nop ∧ decode 0x104A0001 0 = .ok (.srr 5 1) := by
  refine ⟨?_, ?_, ?_, ?_, ?_, ?_, ?_, ?_, ?_, ?_, ?_⟩ <;> decide

/-- Chapters 15 to 17 and 21. -/
theorem test_words_of_the_units :
    decode 0x1600B005 0 = .ok (.fladd 11 5 0) ∧ decode 0x1652D006 0 = .ok (.flset 9 13 6) ∧ decode 0x1698D006 0 = .ok (.flwait 12 13 6) ∧
    decode 0x18064283 0 = .ok (.amoAdd 3 4 5 true) ∧ decode 0x19864282 0 = .ok (.amoCas 3 4 5 false) ∧ decode 0x16C64283 0 = .ok (.waita 3 4 5 true) ∧
    decode 0x1B004000 0 = .ok (.pgreq 4 0) ∧ decode 0x1A064000 0 = .ok (.scld 3 4 0) ∧ decode 0x1A4A4008 0 = .ok (.scst 5 4 8) ∧
    decode 0x1A864283 0 = .ok (.scamo 3 4 5 true 0) ∧ decode 0x1A86429B 0 = .ok (.scamo 3 4 5 true 6) ∧ decode 0x1AC00000 0 = .ok .scfence ∧
    decode 0x1C064000 0 = .ok (.tspawn 3 4) ∧ decode 0x1C400000 0 = .ok .tend ∧ decode 0x1C800000 0 = .ok .tyield ∧
    decode 0x1CC05000 0 = .ok (.tabort 5) ∧ decode 0x1D0C7000 0 = .ok (.tbudget 6 7) ∧ decode 0x1D509000 0 = .ok (.tstat 8 9) ∧
    decode 0x1D940013 0 = .ok (.tfrontWid 10 3) ∧ decode 0x1E064280 0 = .ok (.cstart 3 4 5) ∧ decode 0x1E404000 0 = .ok (.cabort 4) ∧
    decode 0x1E8C4000 0 = .ok (.cstat 6 4) := by
  refine ⟨?_, ?_, ?_, ?_, ?_, ?_, ?_, ?_, ?_, ?_, ?_, ?_, ?_, ?_, ?_, ?_, ?_, ?_, ?_, ?_, ?_, ?_⟩ <;> decide

/-- Chapters 03, 07 and 08. -/
theorem test_words_of_vectors_and_matrices :
    decode 0x20422186 0 = .ok (.vadd ⟨1, 2, 3, false, false, 0, .f32⟩) ∧ decode 0x204221AE 0 = .ok (.vadd ⟨1, 2, 3, false, true, 1, .f32⟩) ∧
    decode 0x2D1014C7 0 = .ok (.vmaskw 2 0 5 6 7) ∧ decode 0x2E041E06 0 = .ok (.vcvtRne 2 1 false .f32 .bf16) ∧
    decode 0xE4430000 0x3F800000 = .ok (.vsplatL 3 0x3F800000) ∧ decode 0x38020100 0 = .ok (.vldW ⟨1, 0, 4, 0⟩) ∧
    decode 0x3E000018 0 = .ok (.vsig 3) ∧ decode 0x3E400018 0 = .ok (.vwaitk 3) ∧ decode 0x40400018 0 = .ok (.mzero 3) ∧
    decode 0x42010819 0 = .ok (.mmaS8 1 2 0 3 1) ∧ decode 0x41040FF4 0 = .ok (.manchI 2 0xFF4) ∧ decode 0x4A050018 0 = .ok (.mrdF32 5 0 3 0) ∧
    decode 0x4F800018 0 = .ok (.msig 3) ∧ decode 0x4FC00018 0 = .ok (.mwaitk 3) := by
  refine ⟨?_, ?_, ?_, ?_, ?_, ?_, ?_, ?_, ?_, ?_, ?_, ?_, ?_, ?_⟩ <;> decide

/-- Chapters 02, 09, 10 and 18. -/
theorem test_words_of_copies_ports_and_kv :
    decode 0xEC070898 0x04001400 = .ok (.xForm (.cpinN 7 2 1 3 0) ⟨0, 0, 5, 0, 0⟩) ∧
    decode 0xEC860100 0x3F803F80 = .ok (.cpfillWL 6 2 0 0x3F803F80) ∧ decode 0x80C30408 0 = .ok (.cpoutN 3 1 0 1) ∧
    decode 0x88400018 0 = .ok (.swaitk 3) ∧ decode 0x88800018 0 = .ok (.sbwait 3) ∧
    decode 0xF4041410 0x02000006 = .ok (.xForm (.note 4 5 2) ⟨0, 0, 0, 0, 6⟩) ∧ decode 0xF4070008 0x10000008 = .ok (.xForm (.land 7 1) ⟨0, 0, 0, 0, 8⟩) ∧
    decode 0xF4870008 0x00000A11 = .ok (.landL 7 1 0xA11) ∧ decode 0xAE000018 0 = .ok (.psig 3) ∧ decode 0xAE400018 0 = .ok (.pwaitk 3) ∧
    decode 0xAE800018 0 = .ok (.pbwait 3) ∧ decode 0xF8040000 0x0684A80B = .ok (.xForm (.kvexit 4) ⟨8, 9, 10, 0, 11⟩) ∧
    decode 0xF80C0004 0x2084A80B = .ok (.xForm (.kvmapK 12 4) ⟨8, 9, 10, 0, 11⟩) ∧ decode 0xF8400000 0x00020302 = .ok (.kvpolL 0x00020302) ∧
    decode 0xC8400000 0 = .ok .kvfencePkg := by
  refine ⟨?_, ?_, ?_, ?_, ?_, ?_, ?_, ?_, ?_, ?_, ?_, ?_, ?_, ?_, ?_⟩ <;> decide

/-- R13, R53: words that the decoder rejects, by name. -/
theorem test_rejections :
    decode 0 0 = .error .op ∧ decode 0x12800006 0 = .error .code ∧ decode 0x00464281 0 = .error .reserved ∧
    decode 0x2D0014C7 0 = .error .dest := by
  refine ⟨?_, ?_, ?_, ?_⟩ <;> decide

/-! ## Small states -/

/-- What holds of the next state of an outcome; false of a fault and of a refusal. -/
def next (o : Host.Outcome State Fault Refusal) (f : State → Bool) : Bool := match o with
  | .next t => f t
  | _ => false

/-- Virtual page 0 of context 0 maps physical page 0, with every permission. -/
def mapped : State :=
  { State.reset with
    ctxs := State.reset.ctxs.set 0 { Context.reset with timelines := 1, ranges := Context.reset.ranges.set 0 ⟨0, 0, 0, 0xFF, true, false, false⟩ } }

/-- Work item 0 of launch 0, running on core 0 of die 0. -/
def task1 : Task :=
  { num := 1, entry := 0, args := 0, ts := 5, wid := 0x123, budget := 1000, prio := 0, spec := false, timeline := 0, pmask := 0x3F, frame := 0,
    parent := 0, dep := false, launch := 0, ctx := 0, die := 0, state := .running, core := 0, aborts := 0, trap := 0, nonspec := true, readsFrom := [],
    saveTk := Vector.replicate 16 0, saveBphase := 0, shut := false }

def launch0 : Launch :=
  { id := 0, ctx := 0, entry := 0, tsbase := 5, args := 0, done := 8, doneval := 1, budget := 1000, timeline := 0, prio := 0, spec := false,
    widths := #v[4, 4, 4, 0, 0, 0], exts := Vector.replicate 6 1, runptr := 0, tdtptr := 0, lndptr := 0, wheelptr := 0, safedist := 0,
    made := [0], binds := [(0, 0)], slots := [], group := 1, complete := false }

/-- Die 0 binds its core 0 to the launches of timeline 0 of context 0. -/
def bound : BindRecord := ⟨0, BitVec.allOnes 64, 1, 0, 0, true⟩

/-- `mapped` with the task running. -/
def run : State :=
  { mapped with
    core := { mapped.core with phase := .running, sys := { mapped.core.sys with task := 1, budget := 1000, wid := 0x123, ts := 5 } }
    unit := { mapped.unit with
      tasks := [task1], nextNum := 2, launches := [launch0], nextLaunch := 1, flagOwner := some 0, frontier := mapped.unit.frontier.set 0 (5, 0x123)
      dies := mapped.unit.dies.set 0 { Die.reset with binds := Die.reset.binds.set 0 bound } } }

/-- `run` with its task speculative. -/
def spec : State :=
  { run with
    core := { run.core with sys := { run.core.sys with status := 0x80 } }
    unit := { run.unit with tasks := [{ task1 with spec := true, nonspec := false }] } }

/-- `s` with a status register. -/
def withStatus (s : State) (w : BitVec 9) : State := s.setSys fun r => { r with status := w }
/-- `s` with words of memory at the given addresses. -/
def withText (s : State) (ws : List (Nat × Nat)) : State :=
  { s with mem := ws.foldl (fun m p => m.putN p.1 (bytesOfNat 4 p.2)) s.mem }
/-- A queue entry as a single word makes it. -/
def entry (i : Instr) (op : BitVec 7) : Entry := ⟨i, 0, op, 0, 0, 0, 0, 0, Vector.replicate 16 0, 0, 0⟩
/-- `s` with the entry of `i` in the VEC queue. -/
def withVec (s : State) (i : Instr) : State := { s with q := { s.q with vec := { Queue.empty with entries := [entry i 0] } } }
/-- `s` with a value in a vector register. -/
def withV (s : State) (r : Fin 32) (v : BitVec 2048) : State := { s with core := { s.core with v := s.core.v.set r.val v r.isLt } }

/-! ## Steps: the manual's text and worked examples -/

/-- The first step from `s` with the word `w` (or the pair) where it fetches. -/
noncomputable def ran (s : State) (n w : Nat) (f : State → Bool) : Bool := next (step (s.withFetchWord n w)) f
/-- What an engine's move makes of `s`. -/
def moved (s : State) (e : Eng) (f : State → Bool) : Bool := match s.engineStep e with
  | some t => f t
  | none => false

/-- R80. -/
theorem test_add_wraps :
    ran ((State.reset.setX 4 0xFFFFFFFFFFFFFFFF).setX 5 2) 32 0x00464280 (fun t => t.x 3 == 1 && t.core.pc == 4) = true := by decide
/-- R80. -/
theorem test_integer_corners :
    let s := (State.reset.setX 4 0x8000000000000000).setX 5 0xFFFFFFFFFFFFFFFF
    next (exec (.divS 3 4 5) s) (fun t => t.x 3 == 0x8000000000000000) = true ∧ next (exec (.remS 3 4 5) s) (fun t => t.x 3 == 0) = true ∧
    next (exec (.divN 3 4 0) s) (fun t => t.x 3 == 0xFFFFFFFFFFFFFFFF) = true ∧ next (exec (.mulhS 3 4 5) s) (fun t => t.x 3 == 0) = true ∧
    next (exec (.mulhN 3 4 5) s) (fun t => t.x 3 == 0x7FFFFFFFFFFFFFFF) = true ∧ next (exec (.sra 3 4 5) s) (fun t => t.x 3 == 0xFFFFFFFFFFFFFFFF) = true ∧
    next (exec (.minS 3 4 0) s) (fun t => t.x 3 == 0x8000000000000000) = true ∧ next (exec (.minN 3 4 0) s) (fun t => t.x 3 == 0) = true ∧
    next (exec (.clz 3 0) s) (fun t => t.x 3 == 64) = true ∧ next (exec (.popc 3 5) s) (fun t => t.x 3 == 64) = true := by decide
/-- R82, and its example: two pairs put 0x0123456789ABCDEF into x4. -/
theorem test_limm :
    ran State.reset 64 0x89ABCDEFE0440000 (fun t => t.x 4 == 0xFFFFFFFF89ABCDEF && t.core.pc == 8) = true ∧
    ran (State.reset.setX 4 0xFFFFFFFF89ABCDEF) 64 0x01234567E0840000 (fun t => t.x 4 == 0x0123456789ABCDEF) = true := by decide
/-- R84. -/
theorem test_compare_signs :
    let s := State.reset.setX 4 0xFFFFFFFFFFFFFFFF
    ran s 32 0x08C91010 (fun t => t.c 1) = true ∧ next (exec (.cmp 1 6 4 0) s) (fun t => !t.c 1) = true ∧
    next (exec (.cmp 0 1 0 0) s) (fun t => t.c 0) = true := by decide
/-- R89: the region of a taken transfer, and its target. -/
theorem test_branch_opens_region :
    next (exec (.br 1) (State.reset.setB 1 0x40)) (fun t => t.core.pc == 4 && t.core.region == some ⟨2, some 0x40⟩) = true ∧
    next (exec .nop { State.reset with core := { State.reset.core with region := some ⟨1, some 0x40⟩ } }) (fun t => t.core.pc == 0x40 && t.core.region == none) =
      true := by decide
/-- R94: extension, and the residency bit. -/
theorem test_load_extends :
    let s := (withText run [(0x100, 0x80)]).setX 4 0x100
    next (exec (.ldBS 3 4 0) s) (fun t => t.x 3 == 0xFFFFFFFFFFFFFF80 && t.c 7) = true ∧ next (exec (.ldBN 3 4 0) s) (fun t => t.x 3 == 0x80) = true ∧
    next (exec (.ldBN 3 4 0x001) (s.setX 4 0x5000)) (fun t => t.x 3 == 0 && t.core.sys.causehi == 0x5001 && t.core.sys.causelo.extractLsb' 0 8 == 4) =
      true := by decide
/-- R94. -/
theorem test_store_low_bytes :
    next (exec (.stH 3 4 0xFFF) ((run.setX 3 0x123456).setX 4 0x101)) (fun t => t.mem == [⟨0x100, 0x56⟩, ⟨0x101, 0x34⟩]) = true := by decide
/-- R24, R27, R103. -/
theorem test_tokens :
    next (exec (.sig 2) State.reset) (fun t => t.token 2 == 1) = true ∧
    next (exec (.sig 2) (State.reset.setToken 2 65535)) (fun t => t.token 2 == 65535 && t.core.sys.causelo.extractLsb' 0 8 == 1 && t.core.sys.causehi == 2) =
      true ∧
    next (exec (.waitk 2) State.reset) (fun t => t.core.pc == 0) = true := by decide
/-- R108, R109, and its example: what has not started leaves, and is counted. -/
theorem test_qcancel :
    next (exec (.qcancel 9 1) { State.reset with
      core := { State.reset.core with vfull := 0xFFFFFEFF }, q := { State.reset.q with vec := { Queue.empty with entries :=
        [entry (.viota 8 .s32) 0x3D, entry (.viota 8 .s32) 0x3D, entry (.vsig 1) 0x78] } } })
      (fun t => t.x 9 == 3 && t.q.vec.entries.length == 0 && t.core.vfull.getLsbD 8) = true := by decide
/-- R112, R264: TRAP to the supervisor, and R113: back. -/
theorem test_trap_and_return :
    let s := State.reset.setSys fun r => { r with tvec := 0x800 }
    next (exec (.trap 0x123) s) (fun t => t.core.pc == 0x800 && t.core.sys.epc == 4 && t.core.sys.causehi == 0x123 && t.core.sys.status == 9 &&
      t.core.sys.causelo.extractLsb' 0 8 == 0x11) = true ∧
    next (exec .eret (withStatus (State.reset.setSys fun r => { r with epc := 0x40 }) 9)) (fun t => t.core.pc == 0x40 && t.core.sys.status == 0) =
      true := by decide
/-- R101, R270. -/
theorem test_system_registers :
    next (exec (.srw 5 0x010) (State.reset.setX 5 0x1004)) (fun t => t.core.sys.uvec == 0x1004) = true ∧
    next (exec (.srw 5 0x010) (State.reset.setX 5 0x1002)) (fun t => t.core.sys.uvec == 0 && t.core.sys.causelo.extractLsb' 12 8 == 0x0E) = true ∧
    next (exec (.srr 5 0x001) State.reset) (fun t => t.core.sys.causelo.extractLsb' 0 8 == 2 && t.core.sys.causehi == 1) = true := by decide
/-- R307. -/
theorem test_atomics :
    let s := ((withText run [(0x100, 0xFFFFFFFF), (0x104, 7)]).setX 4 0x100).setX 5 2
    next (exec (.amoAdd 3 4 5 false) s) (fun t => t.x 3 == 0xFFFFFFFF && leNat (t.mem.getN 0x100 8) == 0x700000001) = true ∧
    next (exec (.amoMin 3 4 5 false false) s) (fun t => leNat (t.mem.getN 0x100 4) == 0xFFFFFFFF) = true ∧
    next (exec (.amoMin 3 4 5 false true) s) (fun t => leNat (t.mem.getN 0x100 4) == 2) = true := by decide
/-- R305, R306. -/
theorem test_flags :
    next (exec (.fladd 11 5 0) (run.setX 11 3)) (fun t => t.flag 5 0 == 3) = true ∧
    next (exec (.flset 9 13 6) ((run.setX 9 1).setX 13 4)) (fun t => t.flag 6 0 == 4) = true := by decide
/-- R100: W0 = 4, W1 = 4. -/
theorem test_widf : next (exec (.widf 3 1) run) (fun t => t.x 3 == 2) = true := by decide
/-- R271. -/
theorem test_tbudget : next (exec (.tbudget 6 7) (run.setX 7 5)) (fun t => t.x 6 == 1005) = true := by decide
/-- R327. -/
theorem test_pgreq : next (exec (.pgreq 4 0) run) (fun t => t.c 7) = true := by decide
/-- R349. -/
theorem test_tend : next (exec .tend run) (fun t => t.unit.tasks == [] && t.core.phase == .idle) = true := by decide
/-- R13, R21: a word enters its queue and marks its destination EMPTY. -/
theorem test_enqueue :
    ran State.reset 32 0x20422186 (fun t => t.q.vec.entries.length == 1 && t.core.vfull == 0xFFFFFFFD && t.core.pc == 4) = true := by decide
/-- R177, and its example: 64 copies of FP32 1.0. -/
theorem test_vsplat :
    ran State.reset 64 0x3F800000E4430000 (fun t => moved t .vec fun u => u.v 3 >>> 2016 == 0x3F800000 && u.core.vfull == 0xFFFFFFFF) = true := by decide +kernel
/-- R174, and its example. -/
theorem test_vcvt :
    moved (withVec (withV State.reset 1 0x7F8000013F808000) (.vcvtRne 2 1 false .f32 .bf16)) .vec (fun t => t.v 2 == 0x7FC03F80) = true ∧
    moved (withVec (withV State.reset 1 0x3F808000) (.vcvtRu 2 1 false .f32 .bf16)) .vec (fun t => t.v 2 == 0x3F81) = true := by decide +kernel
/-- R166: lanes wrap; R169: the saturating form does not. -/
theorem test_vadd_lanes :
    let s := withV (withV State.reset 2 0x7F01) 3 0x01FF
    moved (withVec s (.vadd ⟨1, 2, 3, false, false, 0, .s8⟩)) .vec (fun t => t.v 1 == 0x8000) = true ∧
    moved (withVec s (.vaddSat ⟨1, 2, 3, false, false, .s8⟩)) .vec (fun t => t.v 1 == 0x7F00) = true := by decide +kernel
/-- R175, and the example of chapter 05: 1.0 and 127 copies of 2^−8 sum to 1.4921875 in the order of the reduction. -/
theorem test_vred_order :
    moved (withVec (withV State.reset 2 (BitVec.ofNat 2048 ((List.range 127).foldl (fun n i => n + 0x3B80 * 2 ^ (16 * (i + 1))) 0x3F80)))
      (.vredSum ⟨1, 2, false, 0, .bf16⟩)) .vec (fun t => (t.v 1).extractLsb' 0 16 == 0x3FBF) = true := by decide +kernel
/-- R23: the trap bit of an EMPTY source. -/
theorem test_stale :
    moved (withVec { State.reset with core := { State.reset.core with vfull := 0xFFFFFFF7 } } (.vadd ⟨1, 2, 3, false, true, 0, .s8⟩)) .vec
      (fun t => t.q.vec.faults.map (fun f => f.code) == [7] && t.q.ldq.held && t.core.sys.status.getLsbD 6) = true := by decide
/-- R386: the fifth failing lane of a boundary is lost. -/
theorem test_lane_failure :
    next (exec (.laneFailure 1) State.reset) (fun t => t.pkg.spares[1] == 3 && t.pkg.lanes[1] == 64) = true ∧
    next (exec (.laneFailure 1) { State.reset with pkg := { Package.reset with spares := Vector.replicate 4 0 } }) (fun t => t.pkg.lanes[1] == 63) =
      true := by decide

/-! ## States that meet the statements' hypotheses -/

/-- `s` with a delay region. -/
def withRegion (s : State) (n : Nat) (t : Option Word) : State := { s with core := { s.core with region := some ⟨n, t⟩ } }
/-- `run` with the VEC queue not empty. -/
def busy : State := withVec run (.vsig 1)
/-- `s` with a mark on the tile of a scratchpad granule. -/
def withGran (s : State) (g : Nat) (v : GState) : State := { s with gran := s.gran.put g v }

theorem witness_constant_registers : decode 0x00464280 0 = .ok (.add 3 4 5) ∧ decode 0x20422186 0 = .ok (.vadd ⟨1, 2, 3, false, false, 0, .f32⟩) := by
  constructor <;> decide

theorem witness_immediates : 64 ≤ (0x040 : BitVec 12).toNat := by decide

theorem witness_votes :
    State.reset.emptyForStrand.p.getLsbD (7 : BitVec 3).toNat = false ∧
    ({ State.reset with core := { State.reset.core with pfull := 0x7F } } : State).emptyForStrand.p.getLsbD (7 : BitVec 3).toNat = true ∧
    8 ≤ (8 : BitVec 5).toNat := by decide

theorem witness_select : State.reset.c 0 = true ∧ State.reset.c 7 = false ∧ State.reset.x 0 = 0 ∧ State.reset.p 0 = BitVec.allOnes 256 := by decide

theorem witness_branch_registers : 4 ≤ (4 : BitVec 5).toNat ∧ (1 : BitVec 2) ≠ 2 := by decide

theorem witness_transfers :
    (let s := (State.reset.setB 1 0x40).setC 1 true
     s.core.region = none ∧ (s.b 1).toNat % 4 = 0 ∧ s.c 1 = true ∧ s.c 2 = false) ∧
    (let s := State.reset.setB 1 0x41
     s.core.region = none ∧ (s.b 1).toNat % 4 ≠ 0 ∧ s.c 0 = true ∧ s.c 1 = false) ∧
    (let s := withText mapped [(4, 0x00464280), (8, 0x00464280)]
     (linkWalk s).2 = 0 ∧ s.core.pc.toNat + 20 < 2 ^ 64 ∧ s.peekWord 4 = some 0x00464280 ∧ fEng 0x00464280 = 0 ∧ s.peekWord 8 = some 0x00464280) ∧
    (let s := withText mapped [(4, 0x00464280), (8, 0xE0440000)]
     s.peekWord 4 = some 0x00464280 ∧ s.peekWord 8 = some 0xE0440000 ∧ fEng 0xE0440000 = 7 ∧ fTgt 0xE0440000 = 0) ∧
    (let s := withText mapped [(4, 0x20422186), (8, 0x00464280), (12, 0x00464280)]
     s.peekWord 4 = some 0x20422186 ∧ fEng 0x20422186 ≠ 0 ∧ fEng 0x20422186 ≠ 7 ∧ s.peekWord 8 = some 0x00464280 ∧ s.peekWord 12 = some 0x00464280) := by
  decide

theorem witness_regions :
    (withRegion run 2 none).core.region = some ⟨2, none⟩ ∧ (withRegion run 1 (some 0x40)).core.region = some ⟨1, some 0x40⟩ ∧
    (withRegion run 1 none).core.region.isSome = true ∧
    next (issue .vec (entry (.vsig 1) 0x78) 1 (withRegion run 2 none)) (fun t => t.core.phase == .running) = true := by decide

theorem witness_can_issue : canIssue .vec (entry (.vsig 1) 0x78) (withRegion run 2 none) := by unfold canIssue; decide

theorem witness_loads :
    (let s := run.setX 4 0x0FE
     resolveScalar s permCtlRead false 0x0FE 4 = .ok (.glob [(0x0FE, 0x0FE, 2), (0x100, 0x100, 2)]) ∧
     (SRef.glob [(0x0FE, 0x0FE, 2), (0x100, 0x100, 2)]).poisonAt s 0x0FE = none ∧ (SRef.glob [(0x0FE, 0x0FE, 2), (0x100, 0x100, 2)]).readWaits s = false) ∧
    (let s := { run with poison := [.glob 0x10] }
     resolveScalar s permCtlRead false 0x100 8 = .ok (.glob [(0x100, 0x100, 8)]) ∧ (SRef.glob [(0x100, 0x100, 8)]).poisonAt s 0x100 = some 0x100) ∧
    resolveScalar run permCtlRead false 0x5000 8 = .trap ⟨0x04, 0, 0x5000⟩ ∧
    (let c := Context.reset
     let s := { run with ctxs := run.ctxs.set 0 { c with ranges := c.ranges.set 0 ⟨0, 0xF, 0, 0xFF, true, true, false⟩ } }
     resolveScalar s permCtlRead false 0x100 8 = .absent ∧ resolveScalar s permCtlWrite true 0x100 8 = .trap ⟨0x06, 0, 0x100⟩) ∧
    (0x1F8 % 16 + 8 ≤ 16 ∧ (0x1F8 : Word).extractLsb' 52 12 = 0 ∧ run.translate run.ctx permCtlRead 0x1F8 = .ok 0x1F8 ∧ run.unit.versions = []) := by
  decide

theorem witness_stores :
    (let r : SRef := .glob [(0x0FE, 0x0FE, 2), (0x100, 0x100, 2)]
     resolveScalar run permCtlWrite true 0x0FE 4 = .ok r ∧ r.cutAt run 0x0FE = none ∧ r.writeWaits run = false) ∧
    resolveScalar run permCtlWrite true 0x5000 8 = .trap ⟨0x04, 0, 0x5000⟩ ∧
    (run.mem.wf = true ∧ run.spad.wf = true ∧ run.gran.wf = true ∧ run.specNow = false ∧ run.unit.reads = [] ∧ run.pkg.refusing = []) ∧
    ¬(0x100 ≤ 0x108 ∧ 0x108 < 0x100 + 8) := by decide

/-- The bytes that a load gives. -/
def loaded (a : Access (List Byte × State)) : Option (List Byte) := match a with
  | .ok p => some p.1
  | _ => none

theorem witness_descriptor_loads :
    ((State.reset.setX 4 0x108).x 4).toNat % 16 ≠ 0 ∧ ((run.setX 4 0x100).x 4).toNat % 16 = 0 ∧
    loaded (scalarLoad run true 0x5000 32) = none ∧ loaded (scalarLoad run true 0x5000 128) = none ∧
    (loaded (scalarLoad run true 0x100 32) = some (List.replicate 32 0) ∧ tensorDescBad (BitVec.ofNat 256 (leNat (List.replicate 32 (0 : Byte)))) = false) ∧
    (loaded (scalarLoad run true 0x100 128) = some (List.replicate 128 0) ∧ nestDescBad (BitVec.ofNat 1024 (leNat (List.replicate 128 (0 : Byte)))) = false) ∧
    tensorDescBad (BitVec.ofNat 256 (leNat (List.replicate 32 (0xFF : Byte)))) = true ∧
    nestDescBad (BitVec.ofNat 1024 (leNat (List.replicate 128 (0xFF : Byte)))) = true ∧
    run.descPending 5 = false ∧ run.kvmapPending 5 = false ∧ run.nestPending 5 = false ∧
    (withVec run (.vldW ⟨1, 5, 0, 0⟩)).descPending 5 = true := by decide +kernel

/-- A started command of a queue. -/
def started (i : Instr) (op : BitVec 7) : Running :=
  { entry := entry i op, d1 := 0, d2 := 0, d3 := 0, bounds := [], nest := 0, bbase := 0, seed := 0, resp := 7, confrec := 0, ctx := 0, ptroot := 0,
    first := 0, iter := 0, stage := .fresh, reads := [], got := [], src := [], dst := [], writes := [], count := 0, aux := 0, also := 0,
    eccAt := none, rows := [], rowsAt := [], ahead := [], policy := none }

theorem witness_loop_registers :
    (0 : Nat) < 2 ^ 32 ∧ (State.reset.core.lmax[3]).toNat = 0 ∧ ((State.reset.setX 4 7).x 4).toNat = 7 ∧ (7 : BitVec 17).toNat = 7 ∧
    ({ State.reset with core := { State.reset.core with lmax := State.reset.core.lmax.set 3 5 } } : State).core.lmax[3].toNat = 5 ∧
    ((State.reset.setX 4 0x100000000).x 4).toNat = 2 ^ 32 ∧ 16 ≤ (16 : BitVec 5).toNat := by decide

theorem witness_widf :
    (5 : BitVec 3).toNat < 6 ∧ run.runTask = some task1 ∧ launch0 ∈ run.unit.launches ∧ launch0.id = task1.launch ∧
    (∀ m ∈ run.unit.launches, m.id = launch0.id → m = launch0) ∧ 6 ≤ (6 : BitVec 12).toNat := by decide

theorem witness_system_registers :
    State.reset.core.sys.sup = false ∧ (withStatus State.reset 1).core.sys.sup = true ∧
    ((State.reset.setX 5 0x1004).x 5 &&& ~~~0x000FFFFFFFFFFFFC = 0 ∧ State.reset.allStarted = true) ∧ busy.allStarted = false ∧
    (State.reset.setX 5 0x1002).x 5 &&& ~~~0x000FFFFFFFFFFFFC ≠ 0 ∧ ((State.reset.setX 5 0x1FF).x 5).toNat < 512 := by decide +kernel

theorem witness_tokens :
    (State.reset.token 2).toNat < 65535 ∧ (State.reset.setToken 2 1).token 2 = 1 ∧ State.reset.token 2 = 0 ∧ (State.reset.setToken 2 65535).token 2 = 65535 ∧
    State.reset.signalDue 2 = false ∧ (withVec (State.reset.setToken 2 65535) (.vsig 2)).signalDue 2 = true ∧
    (State.reset.spad.get 8).getLsbD 0 = State.reset.core.sys.bphase.getLsbD 0 ∧
    (State.reset.setSys fun r => { r with bphase := 1 }).core.sys.bphase.getLsbD 0 ≠ (State.reset.spad.get 8).getLsbD 0 ∧
    tokenWord (.vsig 2) = some (.signal 2) := by decide

theorem witness_queue_words :
    State.reset.q.ldq.entries.length < 32 ∧
    ({ State.reset with q := { State.reset.q with ldq := { Queue.empty with entries := List.replicate 32 (entry (.lsig 1) 0) } } } : State).q.ldq.entries.length
      ≥ 32 ∧
    State.reset.drainedFor .vec = true ∧ busy.drainedFor .vec = false ∧ State.reset.quay.untold = [] ∧ spec.specNow = true := by decide +kernel

/-- A trap record. -/
def trapOf (code : BitVec 8) : TrapRec := ⟨code, 0, 0, false, 0, 0, 0, 0, 0⟩
/-- `s` with a user handler. -/
def withUvec (s : State) : State := s.setSys fun r => { r with uvec := 0x400 }

theorem witness_trap_delivery :
    (State.reset.toUser (trapOf 4) = false ∧ State.reset.core.sys.sact = false) ∧ (withRegion State.reset 2 (some 0x40)).core.region = some ⟨2, some 0x40⟩ ∧
    (withRegion State.reset 1 none).core.region = some ⟨1, none⟩ ∧
    ((trapOf 7).code ∈ [(0x07 : BitVec 8), 0x08, 0x09, 0x0A, 0x11] ∧ (withUvec State.reset).core.sys.uvec ≠ 0 ∧ (withUvec State.reset).core.sys.uact = false) ∧
    (withStatus State.reset 8).core.sys.sact = true := by decide

theorem witness_precise_traps :
    run.specNow = false ∧ spec.specNow = true ∧ (∃ v ∈ spec.unit.tasks, v.num = spec.core.sys.task) ∧
    (run.core.region = none ∧ run.core.sys.sact = false ∧ (withUvec run).core.sys.uvec ≠ 0 ∧ (withUvec run).core.sys.uact = false ∧ run.core.sys.uvec = 0) := by
  decide

theorem witness_eret :
    State.reset.handlersDone = true ∧
    (let s := withStatus State.reset 9
     s.core.region = none ∧ s.handlersDone = true ∧ s.core.sys.sup = true ∧ s.core.sys.epc.toNat % 4 = 0 ∧ s.core.sys.dleft ≠ 3 ∧
       s.core.sys.causelo.extractLsb' 8 3 = 0 ∧ s.core.sys.causelo.extractLsb' 0 8 ≠ 0x13 ∧ s.coll.owed = []) ∧
    (let s := withStatus State.reset 4
     s.core.sys.sup = false ∧ s.core.sys.uact = true ∧ s.core.sys.uepc.toNat % 4 = 0 ∧ s.core.sys.udleft ≠ 3 ∧ s.core.sys.ucauselo.extractLsb' 8 3 = 0) ∧
    (State.reset.core.sys.sup = false ∧ State.reset.core.sys.uact = false) ∧
    ((withStatus State.reset 9).setSys fun r => { r with epc := 2 }).core.sys.epc.toNat % 4 ≠ 0 ∧
    ((withStatus State.reset 9).setSys fun r => { r with dleft := 3 }).core.sys.dleft = 3 ∧
    (let s := ({ withStatus State.reset 9 with quay := { Quay.reset with absent := true } } : State).setSys fun r => { r with causelo := 0x12, causehi := 2 }
     s.core.sys.sup = true ∧ s.core.sys.epc.toNat % 4 = 0 ∧ s.core.sys.dleft ≠ 3 ∧ s.core.sys.causelo.extractLsb' 8 3 = 0 ∧
       s.core.sys.causelo.extractLsb' 0 8 = 0x12 ∧ s.core.sys.causehi.getLsbD 1 = true ∧ s.runTask = none ∧ s.quay.absent = true) := by decide

theorem witness_safe_points :
    (run.core.region = none ∧ run.core.sys.preq = false) ∧
    (let s := withStatus run 0x20
     s.core.sys.preq = true ∧ s.core.sys.uact = false ∧ s.core.sys.sact = false ∧ s.specNow = false ∧ s.allDrained = true) ∧
    (let s := withStatus busy 0x20
     s.core.sys.preq = true ∧ s.specNow = false ∧ s.allDrained = false ∧ s.core.drainFrom = none) ∧
    (busy.specNow = false ∧ busy.core.region = none ∧ spec.specNow = true ∧ spec.core.region = none) := by decide

theorem witness_mode_raised :
    (Instr.trap 1).isWord = true ∧ State.reset.core.sys.sup = false ∧ next (exec (.trap 1) State.reset) (fun t => t.core.sys.sup) = true := by decide

theorem witness_flag_words :
    (run.specNow = false ∧ run.holdsFlags = true ∧ run.fenceReady 2 = true ∧ run.rankBound 0 = true ∧ run.rankBound 3 = false) ∧
    (((run.setX 4 1).x 4).toNat < 256 ∧ ∀ r < 8, ((run.setX 4 1).x 4).getLsbD r = true → (run.setX 4 1).rankBound r = true) ∧
    ((run.setX 4 256).x 4).toNat ≥ 256 ∧ (busy.fenceReady 2 = false ∧ busy.rankBound 0 = true ∧ busy.holdsFlags = true) ∧
    8 * (5 : BitVec 8).toNat + run.selfRank % 8 ∉ run.unit.flagPoison ∧ 40 ∉ run.unit.flagErrs ∧
    (let s := { run with unit := { run.unit with flagPoison := [40], flagErrs := [40] } }
     8 * (5 : BitVec 8).toNat + s.selfRank % 8 ∈ s.unit.flagPoison ∧ 40 ∈ s.unit.flagErrs ∧ s.holdsFlags = true ∧ s.fenceReady 2 = true) ∧
    (run.flag 5 0 - ((run.setX 4 0).x 4).extractLsb' 0 32).toNat < 2 ^ 31 ∧ (run.flag 5 0 - ((run.setX 4 1).x 4).extractLsb' 0 32).toNat ≥ 2 ^ 31 ∧
    mapped.holdsFlags = false := by decide

/-- `run` with the permission mask of its page. -/
def withPerm (perm : BitVec 8) (nonres : Bool) : State :=
  { run with ctxs := run.ctxs.set 0 { Context.reset with timelines := 1, ranges := Context.reset.ranges.set 0 ⟨0, 0, 0, perm, true, nonres, false⟩ } }

theorem witness_atomics :
    spec.specNow = true ∧ run.specNow = false ∧
    (run.mem.wf = true ∧ run.spad.wf = true ∧ run.gran.wf = true ∧ run.pkg.refusing = [] ∧ run.unit.reads = [] ∧ run.core.monitor = none) ∧
    ((run.cover run.ctx false 5 = none ∧ run.cover run.ctx true 5 = none) ∧
      (withPerm 0xFE false).cover 0 false 0 = some ⟨0, 0, 0, 0xFE, true, false, false⟩ ∧ permCtlRead &&& 0xFE ≠ permCtlRead) ∧
    (let s := run.setX 4 0x108
     leNat (s.globBytes 0x108 8) = (s.x 0).toNat % 2 ^ 64 ∧ leNat (s.globBytes 0x108 8) ≠ (s.x 4).toNat % 2 ^ 64) ∧
    ({ run with core := { run.core with monitor := some 4 } } : State).core.monitor.isSome = true := by decide

theorem witness_atomic_checks :
    AtomicOk run permCtlAtomic 0x108 8 0x108 ∧ AtomicOk run permCtlRead 0x108 8 0x108 ∧ AtomicOk run permCtlWrite 0x108 8 0x108 := by
  unfold AtomicOk; decide

/-- Each of the checks refuses some access, the last an error in another piece of the line. -/
theorem witness_atomic_traps :
    AtomicTrap run permCtlAtomic 0x104 8 ⟨0x03, 0, 0x104⟩ ∧ AtomicTrap run permCtlAtomic 0x10000000000000 8 ⟨0x05, 2, 0x10000000000000⟩ ∧
    AtomicTrap run permCtlAtomic 0x5000 8 ⟨0x04, 0, 0x5000⟩ ∧ AtomicTrap (withPerm 0xFE false) permCtlRead 0x108 8 ⟨0x05, 0, 0x108⟩ ∧
    AtomicTrap (withPerm 0xFF true) permCtlAtomic 0x108 8 ⟨0x06, 0, 0x108⟩ ∧
    AtomicTrap { run with poison := [.glob 0x13] } permCtlAtomic 0x108 8 ⟨0x10, 0, 0x108⟩ := by
  refine ⟨?_, ?_, ?_, ?_, ?_, ?_⟩ <;> unfold AtomicTrap
  · rw [if_pos (by decide)]
  · rw [if_neg (by decide), if_pos (by decide)]
  · rw [if_neg (by decide), if_neg (by decide), show run.translate run.ctx permCtlAtomic _ = .range by decide]
  · rw [if_neg (by decide), if_neg (by decide), show (withPerm 0xFE false).translate (withPerm 0xFE false).ctx permCtlRead _ = .perm 0 by decide]
  · rw [if_neg (by decide), if_neg (by decide), show (withPerm 0xFF true).translate (withPerm 0xFF true).ctx permCtlAtomic _ = .nres by decide]
  · rw [if_neg (by decide), if_neg (by decide),
      show ({ run with poison := [.glob 0x13] } : State).translate ({ run with poison := [.glob 0x13] } : State).ctx permCtlAtomic _ = .ok 0x108 by decide]
    decide

/-- `run` with position 3 of the wheel. -/
def wheeled : State := { run with unit := { run.unit with wheel := [(3, 0, 0)] } }
/-- `s` whose word waits for its position. -/
def waiting (s : State) (i : Instr) : State := { s with core := { s.core with wait := .sc i s.now } }

theorem witness_wheel :
    (run.specNow = false ∧ run.onWheel = false) ∧ (wheeled.onWheel = true ∧ wheeled.fenceReady 4 = true ∧ wheeled.specNow = false) ∧
    (wheeled.core.wait ≠ .sc .scfence 0 ∧ (waiting wheeled .scfence).core.wait = .sc .scfence 0) ∧ (∃ k < 1024, wheeled.ownsSlot k = true) ∧
    (wheeled.mem.wf = true ∧ wheeled.spad.wf = true ∧ wheeled.gran.wf = true ∧ wheeled.unit.reads = [] ∧ wheeled.pkg.refusing = []) ∧
    ({ busy with unit := { busy.unit with wheel := [(3, 0, 0)] } } : State).fenceReady 4 = false := by decide +kernel

/-- An SC word that has found its position has its access checked as it issues. -/
theorem witness_wheel_access :
    let s := waiting (wheeled.setX 4 0x100) (.scld 3 4 8)
    s.core.wait = .sc (.scld 3 4 8) 0 ∧ s.onWheel = true ∧ s.x 4 + (8 : BitVec 12).signExtend 64 = 0x108 ∧ AtomicOk s permCtlRead 0x108 8 0x108 ∧
      AtomicOk s permCtlWrite 0x108 8 0x108 ∧ AtomicOk s permCtlAtomic (s.x 4) 8 0x100 := by
  unfold AtomicOk; decide

/-- `run` where a demand range covers pages 0 to 511 and the table of 2 MiB pages has no leaf: tables at 0, 0x1000 and 0x2000. -/
def paged : State :=
  let c := Context.reset
  withText { run with
    ctxs := run.ctxs.set 0 { c with ranges := c.ranges.set 0 ⟨0, 0x1FF, 0, 0xFF, true, true, true⟩ }
    core := { run.core with sys := { run.core.sys with ptroot := 0x10000 } } } [(0x10000, 0x11001), (0x11000, 0x12001)]

theorem witness_page_requests :
    (0x10000000000000 : Word).toNat ≥ 2 ^ 52 ∧ (run.cover run.ctx false 0).isSome = true ∧
    (run.cover run.ctx false 5 = none ∧ run.cover run.ctx true 5 = none) ∧
    (paged.cover paged.ctx false 0 = none ∧ paged.cover paged.ctx true 0 = some ⟨0, 0x1FF, 0, 0xFF, true, true, true⟩ ∧ paged.leafPresent true 0x100 = false ∧
      (match paged.walk true 0x100 with | .ecc _ => false | _ => true) = true) ∧
    (let u := { paged with poison := [.glob 0x1000] }
     u.leafPresent true 0x100 = false ∧ u.walk true 0x100 = .ecc 0x10000) ∧
    (let u := { paged with core := { paged.core with wait := .page 0x100 } }
     u.core.wait = .page 0x100 ∧ leafSlot u.mem 0x100 [(39, 13), (30, 9), (21, 9)] ((u.core.sys.ptroot.extractLsb' 12 40).toNat * 4096) = some 0x12000 ∧
       (u.writeDirect none 0x12000 (leBytes 8 0x3FF)).leafPresent true 0x100 = true) := by decide

/-! ### Tasks -/

/-- A second task: speculative and ready. -/
def task2 : Task := { task1 with num := 2, state := .ready, spec := true, nonspec := false, ts := 6, core := 1 }
/-- `run` with the second task. -/
def both : State := { run with unit := { run.unit with tasks := [task1, task2], nextNum := 3 } }
/-- `run` with a task descriptor at 0x100: entry, timestamp, budget, and pmask 0x3F. -/
def spawning (entry ts budget : Nat) : State := withText (run.setX 4 0x100) [(0x100, entry), (0x110, ts), (0x120, budget), (0x124, 0x003F0000)]
/-- What holds of the descriptor that a TSPAWN reads, of its child and of the state after the read. -/
def spawns (s : State) (f : BitVec 512 → Task → State → Bool) : Bool := match scalarLoad s true 0x100 64 with
  | .ok (bs, u) => let desc := BitVec.ofNat 512 (leNat bs); f desc (childOf desc task1 u.specNow) u
  | _ => false
/-- Tasks held on the child's die. -/
def heldFor (c : Task) (u : State) : Nat := (u.unit.tasks.filter fun t => decide (t.die = (u.bindingDie c).getD task1.die)).length

theorem witness_tspawn :
    (0x104 : Word).toNat % 64 ≠ 0 ∧ ((spawning 0x40 6 1).x 4).toNat % 64 = 0 ∧
    spawns (spawning 0x40 6 1) (fun d c u => u.runTask == some task1 && u.unit.tasks.all (fun v => v.num != u.unit.nextNum && v.nonspec) && !taskDescBad d &&
      d.extractLsb' 0 64 == 0x40 && d.extractLsb' 296 4 == task1.timeline && decide (5 < (d.extractLsb' 128 64).toNat) && decide (heldFor c u < 4096)) = true ∧
    spawns (spawning 0x40 6 0) (fun d _ _ => d.extractLsb' 256 32 == 0) = true ∧
    spawns (spawning 0x42 6 1) (fun d _ _ => !taskDescBad d && (d.extractLsb' 0 64).toNat % 4 == 2) = true ∧
    spawns (spawning 0x40 4 1) (fun d _ u => !taskDescBad d && u.runTask == some task1 && decide ((d.extractLsb' 128 64).toNat < 5)) = true ∧
    spawns { spawning 0x40 6 1 with unit := { run.unit with tasks := List.replicate 4096 task1 } } (fun d c u => !taskDescBad d && u.runTask == some task1 &&
      d.extractLsb' 296 4 == task1.timeline && decide (5 < (d.extractLsb' 128 64).toNat) && decide (4096 ≤ heldFor c u)) = true := by
  refine ⟨by decide, by decide, ?_, ?_, ?_, ?_, ?_⟩ <;> decide +kernel

theorem witness_task_ends :
    (run.core.region = none ∧ run.runTask = some task1 ∧ run.specNow = false ∧ run.allDrained = true) ∧
    (busy.core.region = none ∧ busy.runTask = some task1 ∧ busy.allDrained = false) ∧
    (spec.runTask = some { task1 with spec := true, nonspec := false } ∧ spec.specNow = true) := by decide

theorem witness_task_words :
    (run.context run.ctx).timelines.getLsbD 0 = true ∧ both.namedTask 9 = none ∧ both.namedTask 2 = some task2 ∧ both.specNow = false ∧
    ((2 : Word) ≠ 0 ∧ ∀ r ∈ both.runTask, r.num ≠ 2) ∧ both.taskNonspec task2 = false ∧
    (let u := { task2 with nonspec := true }
     let s := { both with unit := { both.unit with tasks := [task1, u] } }
     s.namedTask 2 = some u ∧ s.taskNonspec u = true) ∧ (∀ r ∈ both.runTask, r.num ≠ 9) := by decide

/-! ### Collectives -/

def comm0 : Comm :=
  { idx := 5, entry := { rank := 0, sizem1 := 1, vc := 0, prio := 0, mode := false, pmap := 0x40, sbase := 0, slen := 8, anchor := 0, timeout := 100, cmp := 0, ctx := 0 },
    member := 0, state := 0, reason := 0, seq := 0, step := 0, peer := 0, gens := Vector.replicate 256 0, owe := [], inbox := [], acks := [], pulls := 0, owing := [],
    run := none }
/-- A collective of one chunk whose program lies at 0x200. -/
def coll0 : CollRun :=
  { prog := 0x200, bufs := #v[0x300, 0x400, 0, 0], blen := 16, fmt := .s32, op := 1, slot := 0, st := 0x500, bbase := 0, chunk := 0, stepAt := 0, loop := none,
    moors := [], pull := none, kept := [], bitmap := [], bytes := 0, failing := none }
/-- `run` with a communicator; its peers are 0 and 0x4000. -/
def withComm (c : Comm) : State := withText { run with coll := ⟨[c], 0, []⟩ } [(0x44, 0x4000), (0x20C, 0x70000000)]
/-- A collective about to perform the step whose upper half is `w`. -/
def stepping (w : Nat) : State := { withComm { comm0 with run := some coll0 } with mem := (withComm comm0).mem.putN 0x204 (bytesOfNat 4 w) }
def withSuspended (s : State) : State := s.setContext 0 { s.context 0 with suspended := true }

/-- The block at 0x100: program 0x200, 16 bytes of .s32. -/
def starting (c : Comm) : State := withText (withComm c) [(0x100, 0x200), (0x128, 16), (0x12C, 2), (0x130, 0x300)]

theorem witness_collective_words :
    ((starting comm0).namedComm 5).isSome = true ∧ (starting comm0).namedComm 6 = none ∧ (starting comm0).specNow = false ∧ spec.specNow = true ∧
    (0x104 : Word).toNat % 64 ≠ 0 ∧ (0x100 : Word).toNat % 64 = 0 ∧ comm0.run = none ∧
    (match loaded (scalarLoad (starting comm0) true 0x100 64) with
     | some bs => match collOf (BitVec.ofNat 512 (leNat bs)) 0 with
       | some r => decide (2 * wireSize comm0.entry.mode r.op r.fmt ≤ comm0.entry.slen.toNat)
       | none => false
     | none => false) = false ∧
    (match loaded (scalarLoad (starting { comm0 with entry := { comm0.entry with slen := 32 } }) true 0x100 64) with
     | some bs => match collOf (BitVec.ofNat 512 (leNat bs)) 0 with
       | some r => decide (2 * wireSize comm0.entry.mode r.op r.fmt ≤ 32)
       | none => false
     | none => false) = true ∧
    (loaded (scalarLoad run true 0x100 64)).map (fun bs => (collOf (BitVec.ofNat 512 (leNat bs)) 0).isNone) = some true ∧
    ({ comm0 with run := some coll0 } : Comm).run.isSome = true := by decide +kernel

/-! ### Engine words -/

theorem witness_engine_words :
    (queueOf (.vadd ⟨1, 2, 3, false, false, 0, .f32⟩) = some .vec ∧ encodeWord (.vadd ⟨1, 2, 3, false, false, 0, .f32⟩) = some 0x20422186) ∧
    (queueOf (.mzero 3) = some .mtx ∧ encodeWord (.mzero 3) = some 0x40400018) ∧ (queueOf (.swaitk 3) = some .stq ∧ encodeWord (.swaitk 3) = some 0x88400018) ∧
    (queueOf (.psig 3) = some .prt ∧ encodeWord (.psig 3) = some 0xAE000018) ∧ (queueOf .kvfencePkg = some .kvc ∧ encodeWord .kvfencePkg = some 0xC8400000) ∧
    (supervisorOnly (.ppace 3) = true ∧ run.core.sys.sup = false) ∧ (∃ t ∈ ({ run with unit := { run.unit with tasks := [{ task1 with pmask := 0 }] } } : State).runTask,
      t.mask.getLsbD Eng.vec.bit = false) ∧
    run.hasRoom .vec = true ∧
    ({ run with q := { run.q with vec := { Queue.empty with entries := List.replicate 64 (entry (.vsig 1) 0) } } } : State).hasRoom .vec = false ∧
    run.hazard .vec (dests 7 (.vadd ⟨1, 2, 3, false, false, 0, .f32⟩)) = false := by decide

theorem witness_pairs :
    (Instr.xForm (.note 4 5 2) ⟨0, 0, 0, 0, 6⟩).wellFormed = true ∧ (∃ w, encodeWord (.note 4 5 2) = some w ∧ Eng.ofCode (w.extractLsb' 29 3) = some .prt) := by
  refine ⟨by decide, _, rfl, by decide⟩

theorem witness_enters : canIssue .vec (entryOf run (.vadd ⟨1, 2, 3, false, false, 0, .f32⟩) 0 1 ⟨0, 0, 0, 0, 0⟩) run := by unfold canIssue; decide

theorem witness_vector_words :
    let en := entry (.vadd ⟨1, 2, 3, false, false, 0, .f32⟩) 1
    let s := withVec run en.instr
    s.q.vec = { Queue.empty with entries := en :: [] } → queueOf en.instr = some .vec ∧ vecMem en.instr = none ∧ tokenWord en.instr = none ∧ s.pkg.throttle = 0 ∧
      ∀ x ∈ srcs en.instr, (if x.pred then (s.emptyFor .vec).p.getLsbD x.idx else (s.emptyFor .vec).v.getLsbD x.idx) = false := by decide

theorem witness_integer_lanes : ElemType.s8.isFloat = false ∧ 255 < 2048 / ElemType.s8.bits ∧ (started (.vmov ⟨1, 2, false, 0, .s8⟩) 1).entry.instr = .vmov ⟨1, 2, false, 0, .s8⟩ := by
  decide

theorem witness_engine_tokens :
    (started (.vsig 2) 0x78).entry.instr = .vsig 2 ∧ (run.token 2).toNat < 65535 ∧ (started (.lwaitk 2) 0x78).entry.instr = .lwaitk 2 ∧
    (started (.sbwait 2) 0x78).entry.instr = .sbwait 2 ∧
    ({ run with q := { run.q with mtx := { Queue.empty with entries := [entry (.mzero 3) 1] } } } : State).q.mtx.entries = [entry (.mzero 3) 1] ∧ run.pkg.throttle = 0 := by
  decide

theorem witness_granules :
    (run.mem.wf = true ∧ run.spad.wf = true ∧ run.gran.wf = true) ∧ run.gran.get 5 = .empty ∧ (withGran run 5 .full).gran.get 5 = .full ∧
    (withGran run 5 .moored).gran.get 5 = .moored ∧ (withGran run 5 .full).gran.wf = true := by decide

/-! ### The package -/

def withPkg (s : State) (f : Package → Package) : State := { s with pkg := f s.pkg }

theorem witness_package :
    (10 ≤ 10 ∧ 9 < 10 ∧ run.pkg.frozen = false ∧ run.pkg.unlocked = false ∧ ({ run with pkg := { run.pkg with unlocked := true } } : State).pkg.unlocked = true) ∧
    (let s := withPkg { run with agenda := [.strand] } fun p => { p with frozen := true }
     s.agenda = .strand :: [] ∧ s.pkg.frozen = true ∧ s.pkg.off = false) ∧
    (let s := withPkg { run with agenda := [.event (.hostLinkTraining [80] [16] [])] } fun p => { p with bootHeld := true }
     s.pkg.bootHeld = true ∧ s.pkg.frozen = false ∧ s.pkg.off = false ∧ (withPkg s fun p => { p with off := true }).pkg.off = true) ∧
    (0 < run.pkg.spares[1] ∧ ({ run with pkg := { run.pkg with spares := Vector.replicate 4 0 } } : State).pkg.spares[1] = 0 ∧ 49 ≤ run.pkg.lanes[1] ∧
      ({ run with pkg := { run.pkg with lanes := Vector.replicate 4 48 } } : State).pkg.lanes[1] < 49 ∧ (run.unit.dies[0]).mgmtFailed = false) ∧
    (run.pkg.hubFailed = false ∧ run.pkg.devNo = none ∧ (withPkg run fun p => { p with hubFailed := true }).pkg.hubFailed = true ∧
      (withPkg run fun p => { p with devNo := some 3 }).pkg.devNo ≠ none) ∧
    ((⟨0, 0, 1, false, true⟩ : RouteEntry).valid = true ∧ (⟨0, 0, 1, false, true⟩ : RouteEntry).dclass.toNat < 2 ∧ 2 ≤ (⟨0, 0, 2, false, true⟩ : RouteEntry).dclass.toNat) :=
  by decide

theorem witness_units :
    (run.pkg.service = none ∧ (1, 3) ∉ run.unit.outOfService ∧ run.coreLeft 1 3 = true ∧ run.coreLeft 0 0 = false ∧
      (withPkg run fun p => { p with service := some (.core 1 3) }).pkg.service = some (.core 1 3) ∧
      (run.unit.dies[1]).drained = false ∧ (List.range 64).all (run.coreLeft 1) = true) ∧ (0, 3) ∉ run.unit.failed ∧
    (0, 3) ∈ ({ run with unit := { run.unit with failed := [(0, 3)] } } : State).unit.failed ∧ (0, 0) = (run.selfDie, run.selfCore) ∧
    (let d := run.unit.dies
     ({ run with unit := { run.unit with dies := d.set 1 { d[1] with mgmtFailed := true } } } : State).unit.dies[1].mgmtFailed = true ∧
     disjointDies ((run.setBind 1 0 bound).bindsWith []) = false ∧ disjointDies ((run.setBind 0 1 bound).bindsWith []) = true) ∧
    (3, 7) ∉ run.pkg.deadChannels ∧ channelOf (16 * 0x370) = (3, 7) := by decide +kernel

theorem witness_key_known : ∃ k ∈ (withPkg run fun p => { p with keys := [(0, [1])] }).pkg.keys, keyId k.2 = keyId [1] := ⟨(0, [1]), .head _, rfl⟩

theorem witness_keys :
    32 ≤ 32 ∧ (∀ k ∈ run.pkg.keys, keyId k.2 ≠ keyId [1] ∧ k.1 ≠ 0) ∧
    (List.replicate 48 (0 : Byte)).length = 48 ∧ (1 : BitVec 16) ≠ 0 ∧ run.pkg.service = none ∧
    ((withPkg run fun p => { p with keys := [(0, [1])] }).pkg.keys.find? fun k => k.1 == 0) = some (0, [1]) ∧
    (let s := run.setContext 0 { run.context 0 with cmp := 5 }
     s.cmpOf s.ctx = 5 ∧ s.core.phase ≠ .halted ∧ s.cmpOf s.ctx ≠ 6) ∧
    ({ run with core := { run.core with phase := .halted } } : State).core.phase = .halted := by decide

/-! ### Launches and tasks -/

/-- A container of one kernel whose .text is HALT: header, table, .text, .tdt, .lnd, .sync, .run, .wheel, .safemap and .launch, each at a
multiple of 64. -/
def container : List Byte :=
  let pad (n : Nat) (l : List Byte) : List Byte := l ++ List.replicate (n - l.length) 0
  let sec (t off size : Nat) : List Byte := pad 32 (leBytes 2 t ++ List.replicate 6 0 ++ leBytes 8 off ++ leBytes 8 size)
  pad 64 (leBytes 4 0x004F5856 ++ leBytes 2 1 ++ leBytes 2 8 ++ leBytes 4 0 ++ leBytes 4 1 ++ leBytes 8 4056 ++ leBytes 8 64) ++
  (sec 1 320 4 ++ sec 2 384 2048 ++ sec 3 2432 1024 ++ sec 4 3456 4 ++ sec 5 3520 36 ++ sec 6 3584 8 ++ sec 7 3648 76 ++ sec 8 3776 280) ++
  pad 64 (leBytes 4 0x13400000) ++ List.replicate 2048 0 ++ List.replicate 1024 0 ++ pad 64 [] ++
  pad 64 (leBytes 4 1 ++ leBytes 8 0 ++ leBytes 8 0xFFF ++ leBytes 1 0xFF) ++ pad 64 [] ++ pad 128 [] ++
  pad 280 (pad 0x28 [] ++ leBytes 4 1 ++ pad 12 [] ++ (List.range 6).flatMap fun _ => leBytes 8 1)

/-- Core 1 of die 0 for the launch, and the page for its text. -/
def launchArgs : LaunchArgs :=
  ⟨container, 0, false, false, [⟨0, 0, 0, 0xFF, true, false, false⟩], [(0, 3, ⟨0, BitVec.allOnes 64, 2, 0, 0, true⟩)]⟩
/-- A launch header at 0x1000 with its sections at 0x2000 to 0x5000, and a doorbell rung for it. -/
def rung : State :=
  { State.reset with
    mem := Memory.putN (Memory.putN (Memory.putN [] 0x1000 ((container.drop 3776).take 272)) 0x1068 ([0x2000, 0x3000, 0x4000, 0x5000].flatMap (leBytes 8)))
      0x2000 ((container.drop 3520).take 36)
    ctxs := State.reset.ctxs.set 0 { Context.reset with doorbell := [0x1000] } }

theorem witness_container_starts :
    (match loaderChecks rung.pkg.keys (rung.context 0) launchArgs with
     | .ok _ => rung.resources (headerOf (rung.mem.getN 0x1000 272)) launchArgs
     | .error _ => false) = true ∧ rung.recordsClash launchArgs.binds = false ∧
    headerBad (rung.mem.getN 0x1000 272) = false ∧ (headerOf (rung.mem.getN 0x1000 272)).ctx = 0 ∧ (rung.context 0).doorbell = 0x1000 :: [] := by decide +kernel

theorem witness_launch_refused :
    loaderChecks rung.pkg.keys (rung.context 0) { launchArgs with container := [] } = .error .format ∧ (rung.context 1).doorbell = [] ∧
    headerBad (List.replicate 272 0) = true ∧
    (∀ c ∈ namedCores launchArgs.binds, rung.coreAvailable c = true) ∧ (rung.selfDie, rung.selfCore) ∉ namedCores launchArgs.binds ∧
    (let b := [(0, 3, (⟨0, BitVec.allOnes 64, 1, 0, 0, true⟩ : BindRecord))]
     (∀ c ∈ namedCores b, rung.coreAvailable c = true) ∧ (rung.selfDie, rung.selfCore) ∈ namedCores b ∧ ∃ c ∈ namedCores b, run.coreAvailable c = false) := by
  decide +kernel

/-- The example of R354, step 4: B and C have read the line, and C depends on B; A's store aborts each of them once. -/
theorem test_store_aborts_each_reader_once :
    (let s : State := { run with unit := { run.unit with
       tasks := [task1, { task2 with state := .running }, { task2 with num := 3, ts := 7, core := 2, state := .running, readsFrom := [2] }]
       reads := [⟨2, 4⟩, ⟨3, 4⟩] } }
     (s.writeGlob 0x100 [1]).unit.tasks.map (·.aborts)) = [0, 1, 1] := by decide

theorem witness_launch_resource :
    (match loaderChecks rung.pkg.keys (rung.context 0) { launchArgs with budgetShort := true } with
     | .ok _ => rung.resources (headerOf (rung.mem.getN 0x1000 272)) { launchArgs with budgetShort := true }
     | .error _ => true) = false ∧ (run.setBind 1 0 bound).recordsClash [(0, 3, bound)] = true := by decide +kernel

theorem witness_launches :
    ((∀ k : BitVec 4, ¬((none : Option (BitVec 4)) = none ∧ 8 = 0x1000 * k.toNat)) ∧ (0x1008 : BitVec 64).toNat % 16 ≠ 0 ∧ (0x1000 : BitVec 64).toNat % 16 = 0 ∧ (run.context 0).doorbell.length < 64 ∧ 64 ≤ (List.replicate 64 (0 : BitVec 64)).length) ∧
    (run.findLaunch 7 = none ∧ run.findLaunch 0 = some launch0 ∧ run.launchDone launch0 = false) ∧
    (let s := { mapped with core := { run.core with phase := .halted }, unit := { run.unit with tasks := [], launches := [{ launch0 with group := 0 }] } }
     s.findLaunch 0 = some { launch0 with group := 0 } ∧ s.launchDone { launch0 with group := 0 } = true ∧ s.pkg.hubFailed = false ∧
       (s.doneWrite { launch0 with group := 0 } 1).isSome = true ∧ s.doneWrite { launch0 with done := 0x5000 } 1 = none) ∧
    ((run.unit.launches.filter fun l => l.ctx == 0 && !l.complete) = [launch0] ∧ (run.unit.launches.filter fun l => l.ctx == 1 && !l.complete) = []) ∧
    (∃ u ∈ run.runTask, u.ctx = 0) ∧ run.core.phase ≠ .halted ∧ (∀ u ∈ run.runTask, u.ctx ≠ 1) ∧
    (∀ l ∈ ({ run with unit := { run.unit with launches := [{ launch0 with complete := true }] } } : State).unit.launches, l.ctx = 0 → l.complete = true) := by
  decide

/-- A launch whose one item has no task yet, on a free core. -/
def creating : State := { run with core := { run.core with phase := .idle }, unit := { run.unit with tasks := [], launches := [{ launch0 with made := [] }] } }
/-- Its task, ready. -/
def dispatching : State := { creating with unit := { creating.unit with tasks := [{ task1 with state := .ready }], launches := [launch0] } }

theorem witness_task_events :
    (creating.tasksOn 0 < 4096 ∧ creating.launchWithItem 0 = some ({ launch0 with made := [] }, 0) ∧ run.launchWithItem 0 = none) ∧
    (dispatching.blocked 0 = none ∧ (dispatching.decide_ 0).map (·.1) = some { task1 with state := .ready } ∧ 0 = dispatching.selfDie ∧
      dispatching.freeCore { task1 with state := .ready } = some dispatching.selfCore ∧ creating.decide_ 0 = none ∧ creating.blocked 0 = none) ∧
    (let p : List Byte := (List.replicate 32 [0, 1, 2, 3, 4, 5, 6, 7]).flatten
     p.length = 256 ∧ (∀ b ∈ p, b.toNat < 8) ∧ ∀ k < 8, ∃ b ∈ p, b.toNat = k) := by decide +kernel

theorem witness_task_ends_elsewhere :
    (run.task 9 = none ∧ both.task 2 = some task2 ∧ both.inFrontier task2 = false) ∧
    (let s := { spec with unit := { spec.unit with frontier := Vector.replicate 16 (5, 0x123), versions := [⟨1, 0, 5, 0x123, 4, 1, 0xAB⟩] } }
     s.pkg.refusing = [] ∧ s.core.phase ≠ .parked ∧
     s.task 1 = some { task1 with spec := true, nonspec := false } ∧ s.inFrontier { task1 with spec := true, nonspec := false } = true ∧ s.unit.reads = [] ∧
       s.core.saved = none ∧ ∃ r ∈ s.runTask, r.num = 1) ∧
    (let u := { task2 with state := .running, nonspec := true }
     let s := { both with unit := { both.unit with tasks := [task1, u] } }
     s.task 2 = some u ∧ s.taskNonspec u = true ∧ u.state ≠ .ready ∧ ∀ r ∈ s.runTask, r.num ≠ 2) := by decide +kernel

theorem witness_memory_events :
    ([1] ≠ ([] : List Byte) ∧ run.pkg.degraded = false ∧ run.unit.reads = [] ∧ physExists 0x100 = true ∧ physExists 0x6000000000 = false) ∧
    (¬(∃ o ∈ creating.unit.flagOwner, ∃ l ∈ creating.unit.launches, l.id = o ∧ l.complete = true)) ∧
    (let s := { run with unit := { run.unit with flagOwner := none } }
     ∃ l ∈ s.unit.launches, l.id = 0 ∧ l.complete = false ∧ s.bound s.selfDie (8 * s.selfCluster) (some (l.timeline, l.ctx)) = true) ∧
    (∃ o ∈ run.unit.flagOwner, ∃ l ∈ run.unit.launches, l.id = o ∧ l.complete = false) ∧ run.unit.flagOwner.isSome = true ∧ flagCell 5 0 ∉ run.unit.flagErrs ∧
    flagCell 5 0 ∈ ({ run with unit := { run.unit with flagErrs := [40] } } : State).unit.flagErrs := by decide

/-! ### Traps, pre-emption, the quay -/

/-- `run` with an engine's fault that waits. -/
def faulted : State := { run with q := { run.q with mtx := { Queue.empty with faults := [{ trapOf 4 with eng := Eng.mtx.code }], stuck := true } } }
/-- `s` with posted traps. -/
def withPosted (s : State) (l : List Posted) : State := { s with posted := l }

theorem witness_fetches :
    (match run.fetchWord 0x5000 with | .error c => decide (c = ⟨0x04, 0, 0x5000⟩) | .ok _ => false) = true ∧
    run.translate run.ctx permCtlRead 0x5000 = .range ∧ run.translate run.ctx permCtlRead 0 = .ok 0 ∧ run.poisoned (.glob 0) = false ∧
    ({ run with poison := [.glob 0] } : State).poisoned (.glob 0) = true ∧
    (let c := Context.reset
     ({ run with ctxs := run.ctxs.set 0 { c with ranges := c.ranges.set 0 ⟨0, 0, 0, 0xFE, true, false, false⟩ } } : State).translate 0 permCtlRead 0 = .perm 0 ∧
     ({ run with ctxs := run.ctxs.set 0 { c with ranges := c.ranges.set 0 ⟨0, 0xF, 0, 0xFF, true, true, false⟩ } } : State).translate 0 permCtlRead 0 = .nres) := by
  decide

theorem witness_engine_traps :
    faulted.core.phase = .running ∧ (faulted.q.get .mtx).faults = { trapOf 4 with eng := Eng.mtx.code } :: [] ∧ (faulted.q.get .vec).faults = [] ∧
    faulted.core.sys.sact = false ∧ faulted.core.sys.uact = false ∧ faulted.core.sys.uvec = 0 ∧ faulted.specNow = false ∧
    (4 : BitVec 8) ∉ [(0x08 : BitVec 8), 0x09, 0x0A, 0x11] ∧ Eng.all.all faulted.engineAtRest = true ∧ faulted.peekWord 0 = some 0 ∧ fEng 0 = 0 ∧
    faulted.engineDue faulted.fetch = true ∧
    ({ faulted with q := { faulted.q with vec := { Queue.empty with run := some (started (.vsig 2) 0x78), held := true } } } : State).engineAtRest .vec = false := by
  decide

theorem witness_posted_traps :
    run.engineDue run.fetch = false ∧
    (let s := withPosted run [.budget 1]
     s.posted = [.budget 1] ∧ s.postedValid (.budget 1) = true ∧ s.postedOpen s.fetch = true ∧ s.postedWaits (.budget 1) = false) ∧
    (let s := withPosted run [.collfail 5]
     s.postedValid (.collfail 5) = true) ∧
    (let s := withPosted run [.compart 5]
     s.postedValid (.compart 5) = true) ∧
    (let s := { run with quay := { run.quay with moor := run.quay.moor.set 2 { MoorEntry.free with valid := true, expired := true, gen := 1 } } }
     s.postedValid (.reclaim 2 1) = true) ∧
    (let s := { run with quay := { run.quay with land := run.quay.land.set 3 { LandEntry.free with state := .failed, lgen := 1, reason := 2 } } }
     s.postedValid (.pullfail 3 1 2) = true) ∧
    State.reset.core.phase ≠ .running ∧ run.posted = [] ∧
    ({ (withPosted run [.budget 1]) with core := { run.core with wait := .shut } } : State).postedOpen run.fetch = false := by decide

theorem witness_preemption :
    (¬(run.specNow = true ∧ (run.core.phase = .parked ∨ run.core.wait = .spec))) ∧
    (let s := { spec with core := { spec.core with phase := .parked } }
     s.specNow = true ∧ s.core.phase = .parked ∧ s.runTask.isSome = true) ∧
    (let s := withText { withStatus busy 0x20 with core := { (withStatus busy 0x20).core with drainFrom := some 0 } } [(0, 0x12400000)]
     s.core.drainFrom = some 0 ∧ s.core.sys.preq = true ∧ s.core.sys.uact = false ∧ s.core.sys.sact = false ∧ s.specNow = false ∧ s.core.region = none ∧
       s.atSafept = true) ∧
    run.core.drainFrom = none ∧ (run.runTask = some task1 ∧ run.core.budgetStopped = false ∧ run.core.sys.budget ≠ 0) ∧
    (run.coll.owed = [] ∧ run.quay.absent = false ∧ ({ run with coll := { run.coll with owed := [(8, 16)] } } : State).coll.owed = [(8, 16)]) := by decide

/-- A notice from core 1 for tag 7, of one granule. -/
def note0 : Notice := ⟨7, 0, 0, 0, 0x4000, 2, 1, 0, false, 0, 0, 0⟩
/-- A landing. -/
def posting : LandEntry := { LandEntry.free with tag := 7, state := .posted, off := 0x20 }
/-- The landing with its notice, its one segment not yet requested. -/
def pulling : LandEntry := { posting with state := .pulling, src := 0x4000, notice := some note0, segs := [⟨0, false, false, false, false, 0, false, []⟩] }
/-- Its segment requested. -/
def awaiting : LandEntry := { pulling with segs := [⟨0, true, false, false, false, 0, false, []⟩] }
def withLand (s : State) (e : LandEntry) : State := { s with quay := { s.quay with land := s.quay.land.set 3 e } }
/-- A block of one granule moored for two consumers. -/
def mooring : MoorEntry :=
  { MoorEntry.free with tag := 7, valid := true, off := 0x10, gen := 1, remain := 1, pending := 3, consumers := [0x4000, 0x8000], baddr := 0x200 }
def withMoor (s : State) (e : MoorEntry) : State := { s with quay := { s.quay with moor := s.quay.moor.set 2 e } }
def withAbsent (s : State) : State := { s with quay := { s.quay with absent := true } }
def withInbox (s : State) (l : List InboxItem) : State := { s with quay := { s.quay with inbox := l } }

theorem witness_notices :
    ((withAbsent run).quay.absent = true ∧ run.quay.absent = false ∧ State.reset.quayBound = false ∧ run.quayBound = true) ∧
    (note0.cmp = run.cmpOf run.ctx ∧ run.revokedDev note0.cmp note0.src = false ∧ (1 : BitVec 16) ≠ run.cmpOf run.ctx) ∧
    (∃ i ∈ (withInbox run [⟨note0, false, none⟩]).quay.inbox, i.notice.src = note0.src ∧ i.notice.moor = note0.moor ∧ i.notice.gen = note0.gen ∧
      i.notice.cidx = note0.cidx) ∧
    (256 ≤ (List.replicate 256 (⟨{ note0 with gen := 9 }, false, none⟩ : InboxItem)).length ∧ ({ note0 with gen := 9 } : Notice).gen ≠ note0.gen) ∧
    (∀ l < 64, (run.land l).tag = note0.tag → (run.land l).state ≠ .posted ∧ (run.land l).state ≠ .standing) ∧
    (let s := withLand run posting
     (s.land 3).tag = note0.tag ∧ (s.land 3).state = .posted ∧ (s.land 3).removing = false ∧ note0.size.toNat ≤ (s.land 3).size.toNat ∧
       ∀ k < 64, k ≠ 3 → (s.land k).tag ≠ note0.tag) := by decide +kernel

theorem witness_moorings :
    (let s := withMoor run mooring
     (s.moor 2).valid = true ∧ (s.moor 2).pending.getLsbD 1 = true ∧ (s.moor 2).consumers[1]? = some 0x8000 ∧ s.quay.absent = false ∧
       s.revokedDev (s.cmpOf (s.moor 2).ctx) 0x4000 = false ∧ (s.moor 2).pending &&& ~~~(1#63 <<< 0) ≠ 0 ∧ (s.moor 2).remain.toNat ≤ 1 ∧
       (s.moor 2).pending &&& (s.moor 2).absent = 0 ∧ (s.moor 2).expired = false ∧ (s.moor 2).accepted.getLsbD 1 = false) ∧
    (run.moor 2).valid = false ∧ (withMoor run { mooring with pending := 1 }).moor 2 = { mooring with pending := 1 } ∧ (1 : BitVec 63) &&& ~~~(1#63 <<< 0) = 0 ∧
    ((withMoor run { mooring with remain := 5 }).moor 2).remain.toNat > 1 ∧
    ({ run with quay := { run.quay with kept := [⟨0x4000, 2, 1, 0, true⟩] } } : State).quay.kept[0]? = some ⟨0x4000, 2, 1, 0, true⟩ ∧ run.quay.kept[0]? = none ∧
    ({ run with pkg := { run.pkg with epochs := [⟨0, 1, 0, [], [0]⟩] } } : State).revokedDev 0 0x4000 = true := by decide

theorem witness_requests :
    (run.bestBerth.isNone = true ∧ ((withLand run pulling).bestBerth.map fun b => (b.land, b.seg)) = some (3, 0)) ∧
    (let s := withMoor run mooring
     let r : SegRequest := { src := 0x4000, moor := 2, gen := 1, cidx := 0, seg := 0, land := 3, lgen := 0, cmp := 0, coll := none }
     r.coll = none ∧ s.quayBound = true ∧ r.cmp = s.cmpOf (s.moor 2).ctx ∧ s.revokedDev r.cmp r.src = false ∧ (s.moor 2).valid = true ∧ (s.moor 2).gen = r.gen ∧
       (s.moor 2).pending.getLsbD 0 = true ∧ (s.moor 2).pending.getLsbD 2 = false ∧ (∀ j < 1, s.poisoned (.spad (0x10 + j)) = false) ∧ (s.moor 2).gen ≠ 7 ∧
       ∃ j < 1, ({ s with poison := [.spad 0x10] } : State).poisoned (.spad (0x10 + j)) = true) := by decide

/-- `run` with the requested segment's landing; `f` changes the segment. -/
def fetching (f : SegState → SegState) : State := withLand run { awaiting with segs := awaiting.segs.map f }

theorem witness_pulls :
    (let s := withInbox (fetching id) [⟨note0, false, some 3⟩]
     (s.land 3).state = .pulling ∧ (s.land 3).seg 0 = some ⟨0, true, false, false, false, 0, false, []⟩ ∧ (s.land 3).lgen = 0 ∧ (0 : BitVec 16) = s.cmpOf s.quayCtx ∧
       s.revokedDev 0 (s.land 3).src = false ∧ (s.land 3).notice = some note0 ∧ (s.land 3).removing = false ∧
       (∀ i ∈ s.quay.inbox, i.notice.tag = (s.land 3).tag → i.land = none → sameNotice i.notice note0 = true)) ∧
    ((withLand run pulling).land 3).state = .pulling ∧ ¬(∃ x ∈ ((withLand run pulling).land 3).seg 0, x.requested = true) ∧
    (withPkg (fetching id) fun p => { p with epochs := [⟨0, 1, 0, [], [0]⟩] }).revokedDev 0 0x4000 = true ∧
    (let x : SegState := { (⟨0, true, false, false, false, 0, false, []⟩ : SegState) with undo := [(0x20, .full, List.replicate 16 7)] }
     let s := fetching fun _ => x
     (s.land 3).segs = [x] ∧ x.counted = false ∧ (x.undo.map fun u => u.1).Nodup ∧ (∀ u ∈ x.undo, u.2.2.length = 16 ∧ s.gran.get u.1 ≠ .moored)) ∧
    (((fetching fun x => { x with tries := 6 }).land 3).seg 0).map (·.tries) = some 6 ∧
    (((fetching fun x => { x with absentWait := true }).land 3).seg 0).map (·.absentWait) = some true ∧
    (((fetching fun x => { x with answered := true }).land 3).seg 0).map (·.answered) = some true ∧
    (let s := withAbsent (withLand { run with quay := { run.quay with inFlight := [(3, 0)] } } awaiting)
     s.quay.absent = true ∧ (3, 0) ∈ s.quay.inFlight ∧ (s.land 3).removing = false ∧ (s.land 3).seg 0 = some ⟨0, true, false, false, false, 0, false, []⟩) := by
  decide +kernel

/-- The response to the requested segment, with its first granule still to be written, and the machine that it has reached. -/
def response : Arrived := ⟨3, 0, 0, List.replicate 32 1, 0⟩
def receiving (size : BitVec 20) : State :=
  let s := withLand run { awaiting with size := size, notice := some { note0 with size := size }, segs := [⟨0, true, true, false, false, 0, false, []⟩] }
  { s with quay := { s.quay with arrived := [response] } }

theorem witness_landings :
    (response ∈ (receiving 0).quay.arrived ∧ (receiving 0).landing response = true ∧ (receiving 0).landing { response with lgen := 1 } = false) ∧
    (((receiving 0).segGranules 3 0)[0]? = some 0x20 ∧ (receiving 0).gran.get 0x20 ≠ .moored ∧ 0 + 1 = ((receiving 0).segGranules 3 0).length) ∧
    0 + 1 < ((receiving 1).segGranules 3 0).length ∧ (withGran (receiving 0) 0x20 .moored).gran.get 0x20 = .moored := by decide +kernel

/-! ### Collectives at work -/

/-- The data step that a collective is due to perform. -/
def dueUnit (s : State) : Option UnitAt := match s.unitDue 0 5 with
  | some (_, _, .ok (.data u)) => some u
  | _ => none
/-- The notice that a unit awaits of its peer, in the inbox. -/
def notified (n : Notice) (s : State) : State := withText { s with coll := { s.coll with comms := s.coll.comms.map fun c => { c with inbox := [⟨n, 0⟩] } } } []

theorem witness_steps :
    (run.unitDue 0 5).isNone = true ∧ (dueUnit (stepping 0x10008000)).map (·.d.op) = some 1 ∧
    (match dueUnit (stepping 0x40000000) with | some u => u.d.op == 4 && u.q == 0 && u.off == 0 && u.len == 16 && !u.wire | none => false) = true ∧
    (match (stepping 0x50000000).unitDue 0 5 with | some (_, r, .ok .wait) => r.moors == [] | _ => false) = true ∧
    (match (stepping 0xF0000000).unitDue 0 5 with | some (_, _, .error e) => e == .step | _ => false) = true ∧
    coll0.freeSlot = some 0 ∧ ((stepping 0x10008000).peerAddr comm0.entry 1).toOption = some 0x4000 ∧
    ((stepping 0x40000000).collRead 0 0x300 16).toOption = some (List.replicate 16 0) ∧
    ((stepping 0x40000000).collWrite 0 0x400 (List.replicate 16 0)).toOption.isSome = true := by decide +kernel

/-- A step PRS that writes. -/
def prs : State := { withComm { comm0 with run := some coll0 } with mem := ((withComm comm0).mem.putN 0x200 (bytesOfNat 4 0x20000000)).putN 0x204 (bytesOfNat 4 0x30008000) }

theorem witness_pull_starts :
    dueUnit (stepping 0x20008000) = none ∧
    [stepping 0x20008000, prs].map (fun s => (dueUnit (notified { note0 with tag := collTag 5 0 0 0 0 } s)).map fun u => (u.d.op, u.peer, u.q)) =
      [some (2, 1, 0), some (3, 1, 0)] := by decide +kernel

theorem witness_communicators :
    (let e := comm0.entry
     let s := withComm { comm0 with entry := { e with sbase := 100 } }
     (5 ≤ 63 ∧ e.rank.toNat ≤ e.sizem1.toNat ∧ e.pmap.toNat % 16 = 0 ∧ e.slen ≠ 0 ∧ e.sbase.toNat + e.slen.toNat ≤ 512 ∧ e.timeout ≠ 0) ∧
       (s.peerAddr e 0).toOption = some 0 ∧ devOf (0 : QuayAddr) = devOf s.self ∧ dieOf (0 : QuayAddr) = s.selfDie ∧
       (∀ o ∈ s.coll.comms, o.idx.toNat ≠ 6 ∧ e.sbase.toNat + e.slen.toNat ≤ o.entry.sbase.toNat) ∧
       (∃ o ∈ s.coll.comms, o.idx.toNat = 5 ∧ o.entry.ctx = e.ctx) ∧ dieOf (0x1000 : QuayAddr) ≠ s.selfDie) ∧
    (((withComm comm0).comm 0 5).isSome = true ∧ run.comm 0 5 = none ∧ comm0.run = none ∧ (withSuspended (withComm comm0)).collAway comm0 = true ∧
      (withComm comm0).collAway comm0 = false) ∧ (run.peerAddr { comm0.entry with pmap := 0x5000 } 0).toOption = none ∧
    (((withComm comm0).commOf ⟨0, 5⟩).isSome = true ∧ run.commOf ⟨0, 5⟩ = none ∧ (1 : BitVec 16) ≠ comm0.entry.cmp) := by decide +kernel

/-- `coll0` with its one chunk passed, and whether the program leaves it so. -/
def passed0 : CollRun := { coll0 with chunk := 1 }

theorem witness_collective_ends :
    (let s := withComm { comm0 with run := some passed0 }
     let r := s.atStep { comm0 with run := some passed0 } (passed0.cpb + 4) passed0
     r.failing = none ∧ r.cpb ≤ r.chunk ∧ r.moors = [] ∧
       (s.collWrite 0 r.st.toNat (statusRecord { comm0 with state := 2, step := BitVec.ofNat 12 r.stepAt } r)).toOption.isSome = true) ∧
    coll0.chunk < coll0.cpb ∧ coll0.failing = none ∧ CollReason.abort ≠ CollReason.ecc ∧
    ({ coll0 with failing := some (.abort, 0) } : CollRun).failing = some (.abort, 0) := by decide +kernel

/-- A pull of the one chunk from rank 1, under way; `f` changes its segment. -/
def pull0 (op : BitVec 4) (f : CollSeg → CollSeg) : CollPull :=
  ⟨⟨⟨op, false, 1, false, 0, 0, 1, true, false, false, 0⟩, 1, 0x4000, 1, 0, collTag 5 0 0 0 0, 0, 16, false⟩, { note0 with tag := collTag 5 0 0 0 0 }, 1,
    [f ⟨0, none, 0, false⟩]⟩
def pulling0 (op : BitVec 4) : State := withComm { comm0 with run := some { coll0 with pull := some (pull0 op id) } }

theorem witness_pull_answers :
    (let p := pull0 3 id
     let q := p.mapSeg 0 fun g => { g with bytes := some (List.replicate 16 1), absentWait := false }
     p.unit.d.op = 3 ∧ p.unit.d.wr = true ∧ p.unit.d.fw = false ∧ coll0.op ≠ 0 ∧ (∃ g ∈ p.segs, g.seg = 0 ∧ g.bytes = none) ∧
       (List.replicate 16 (1 : Byte)).length = segBytes (noticeBytes p.notice) 0 ∧ q.bytes = some (List.replicate 16 1) ∧
       ((pulling0 3).collRead 0 (coll0.buf p.unit.d.bs + p.unit.off) p.unit.len).toOption = some (List.replicate 16 0) ∧
       ((pulling0 3).collWrite 0 (coll0.buf p.unit.d.bd + p.unit.off) (List.replicate 16 1)).toOption.isSome = true) ∧
    (pull0 2 id).unit.d.op = 2 ∧ ((pull0 2 fun g => { g with tries := 6 }).segs.map (·.tries)) = [6] ∧
    ((pull0 2 fun g => { g with absentWait := true }).segs.filter (fun g => g.seg == 0)) = [⟨0, none, 0, true⟩] := by decide +kernel

/-- A mooring of a collective. -/
def collMoor0 : CollMoor :=
  { slot := 4, gen := 1, peer := 1, addr := 0x4000, data := none, buffer := 0x300, len := 16, wire := false, remain := 9, absent := false, accepted := false,
    notice := note0, q := 0 }

theorem witness_collective_frames :
    ({ coll0 with moors := [collMoor0] } : CollRun).moors ≠ [] ∧
    (({ coll0 with moors := [collMoor0] } : CollRun).moors.find? fun m => m.slot == 4 && m.gen == 1) = some collMoor0 ∧
    (({ coll0 with moors := [collMoor0] } : CollRun).moors.find? fun m => m.slot == 4 && !m.accepted) = some collMoor0 ∧
    ((withComm comm0).moorData comm0 coll0 collMoor0).toOption = some (List.replicate 16 0) ∧
    (∀ m ∈ ({ coll0 with moors := [collMoor0] } : CollRun).moors, ¬(m.slot = 4 ∧ m.gen = 2)) ∧
    (∀ c ∈ (withComm { comm0 with owe := [0x4000] }).coll.comms, c.entry.ctx = 0 ∧ 0x4000 ∈ c.owe) ∧
    (withPkg (withComm comm0) fun p => { p with epochs := [⟨0, 1, 0, [], [0]⟩] }).revokedDev 0 0x4000 = true ∧ (withComm comm0).revokedDev 0 0x4000 = false ∧
    (∃ i ∈ ({ comm0 with inbox := [⟨note0, 0⟩] } : Comm).inbox, sameNotice i.notice note0 = true) ∧
    256 ≤ (List.replicate 256 (⟨{ note0 with gen := 9 }, 0⟩ : CollIn)).length ∧ sameNotice { note0 with gen := 9 } note0 = false ∧
    ({ comm0 with acks := [⟨0x4000, 4, 1, 0, true⟩] } : Comm).acks[0]? = some ⟨0x4000, 4, 1, 0, true⟩ := by decide +kernel

/-- A task placed on another core, a saved task that is still uncommitted, and a landing that is being removed. -/
theorem witness_other_cases :
    (let s := { dispatching with unit := { dispatching.unit with dies := dispatching.unit.dies.set 0 { Die.reset with binds := Die.reset.binds.set 0 { bound with mask := 2 } } } }
     (s.decide_ 0).map (·.1) = some { task1 with state := .ready } ∧ s.freeCore { task1 with state := .ready } = some 1 ∧ (0, 1) ≠ (s.selfDie, s.selfCore)) ∧
    (let s := withText run [(0x452F20, 1)]
     s.task (BitVec.ofNat 64 (leNat (s.mem.getN 0x452F20 8))) = some task1) ∧
    ((withLand run { awaiting with removing := true }).land 3).removing = true := by decide +kernel

/-! ### The step -/

theorem witness_step :
    (let s := { run with agenda := [.strand] }
     s.agenda = .strand :: [] ∧ s.pkg.off = false ∧ s.pkg.frozen = false ∧ s.pkg.bootHeld = false ∧ s.core.phase = .running ∧ s.core.wait = .none ∧
       s.specPreempted = false ∧ (∀ d ∈ s.core.linkDue, d.at_ ≠ s.core.pc.toNat) ∧ s.core.linkDue = [] ∧
       (run.readyTrap run.fetch).isNone = true ∧ run.engineDue run.fetch = false ∧ s.core.pending = []) ∧
    (let s := withText run [(0, 0xE0440000), (4, 0x89ABCDEF)]
     (s.fetchWord 0).toOption = some 0xE0440000 ∧ fEng 0xE0440000 = 7 ∧ (s.fetchWord 4).toOption = some 0x89ABCDEF) ∧
    (let s := withText run [(0, 0x00464280)]
     (s.fetchWord 0).toOption = some 0x00464280 ∧ fEng 0x00464280 ≠ 7) ∧ decode 0x00464280 0 = .ok (.add 3 4 5) ∧ decode 0x00464281 0 = .error .reserved := by
  decide

theorem witness_encodings : (Instr.add 3 4 5).wellFormed = true ∧ (Instr.add 3 4 5).isWord = true ∧ encode (.add 3 4 5) = [0x00464280] := by decide

theorem witness_invariants :
    (State.reset.x 0 = 0 ∧ State.reset.c 0 = true ∧ State.reset.p 0 = BitVec.allOnes 256) ∧
    (State.reset.mem.wf = true ∧ State.reset.spad.wf = true ∧ State.reset.gran.wf = true) ∧ ran State.reset 32 0x00464280 (fun t => t.core.pc == 4) = true := by
  decide

/-! ### Waits, and the words of a task that is speculative -/

theorem eraseDups_of_nodup : ∀ l : List Nat, l.Nodup → l.eraseDups = l
  | [], _ => rfl
  | a :: l, h => by
    have ⟨ha, hl⟩ := List.nodup_cons.mp h
    have hf : l.filter (fun b => !b == a) = l := List.filter_eq_self.mpr fun b hb => by
      have : b ≠ a := fun e => ha (e ▸ hb)
      simpa using this
    rw [List.eraseDups_cons, hf, eraseDups_of_nodup l hl]

/-- `spec`, with as many lines in its read set as a die holds (R341). -/
def crowded : State := { spec with unit := { spec.unit with reads := (List.range 16384).map fun k => ⟨1, k + 100⟩ } }

theorem crowded_lines : crowded.trackedLines 0 = (List.range 16384).map (· + 100) := by
  have hr : crowded.unit.reads = (List.range 16384).map fun k => ⟨1, k + 100⟩ := by simp only [crowded]
  have hv : crowded.unit.versions = [] := rfl
  have ht : crowded.task 1 = some { task1 with spec := true, nonspec := false } := rfl
  unfold State.trackedLines
  rw [hr, hv]
  simp only [List.filter_nil, List.map_nil, List.nil_append, List.filter_map, List.map_map]
  rw [List.filter_eq_self.mpr]
  · exact eraseDups_of_nodup _ (List.nodup_range.map fun a b h => by simpa using h)
  · intro k hk
    have hk := List.mem_range.mp hk
    simp only [Function.comp_apply, ht, entryLine]
    simp [task1]; omega

theorem crowded_full (l : List Nat) (h : l ≠ []) (hl : ∀ x ∈ l, x < 100) : crowded.metadataFull { task1 with spec := true, nonspec := false } l = true := by
  obtain ⟨x, l, rfl⟩ := List.exists_cons_of_ne_nil h
  have hx := hl x (by simp)
  have hc : ((List.range 16384).map (· + 100)).contains x = false := by
    simp; omega
  unfold State.metadataFull
  rw [show ({ task1 with spec := true, nonspec := false } : Task).die = 0 from rfl, crowded_lines]
  simp only [List.length_map, List.length_range, List.filter_cons, hc, decide_eq_true_eq]
  simp

theorem crowded_waits (l : List Nat) (h : l ≠ []) (hl : ∀ x ∈ l, x < 100) : crowded.linesWait l = true ∧ crowded.linesHeld l = true := by
  have hs : crowded.specNow = true := by decide
  have ht : crowded.runTask = some { task1 with spec := true, nonspec := false } := by decide
  unfold State.linesWait State.linesHeld
  simp [hs, ht, crowded_full l h hl]

/-- A read and a write of a speculative task that wait, and the read of descriptors. -/
theorem witness_waiting_accesses :
    (resolveScalar crowded permCtlRead false 0x108 8 = .ok (.glob [(0x108, 0x108, 8)]) ∧ (SRef.glob [(0x108, 0x108, 8)]).poisonAt crowded 0x108 = none ∧
      (SRef.glob [(0x108, 0x108, 8)]).readWaits crowded = true) ∧
    (resolveScalar crowded permCtlWrite true 0x108 8 = .ok (.glob [(0x108, 0x108, 8)]) ∧ (SRef.glob [(0x108, 0x108, 8)]).cutAt crowded 0x108 = none ∧
      (SRef.glob [(0x108, 0x108, 8)]).writeWaits crowded = true) ∧
    (∃ r, resolveScalar crowded permCtlRead true 0x100 32 = .ok r ∧ r.poisonAt crowded 0x100 = none ∧ r.readWaits crowded = true) := by
  refine ⟨⟨by decide, by decide, ?_⟩, ⟨by decide, by decide, ?_⟩, .glob [(0x100, 0x100, 16), (0x110, 0x110, 16)], by decide, by decide, ?_⟩
  · exact (crowded_waits _ (by decide) (by decide)).1
  · exact (crowded_waits _ (by decide) (by decide)).2
  · exact (crowded_waits _ (by decide) (by decide)).1

/-- `run` in the other modes that words test: a vote's predicate that is EMPTY, a store over two pieces, sr.status, and held queues. -/
theorem witness_more_words :
    (State.reset.emptyForStrand.p.getLsbD 1 = false ∧
      ({ State.reset with core := { State.reset.core with pfull := 0xFD } } : State).emptyForStrand.p.getLsbD 1 = true ∧ 8 ≤ (8 : BitVec 5).toNat) ∧
    (run.canonical ∧ run.specNow = false ∧ run.pkg.refusing = [] ∧ 2 + 2 = (List.replicate 4 (0 : Byte)).length ∧ ¬(0x100 ≤ 0x0FE + 1 ∧ 0x0FE + 1 < 0x100 + 2)) ∧
    (let s := { run with pkg := { run.pkg with degraded := true, lanes := Vector.replicate 4 47 } }
     (SRef.glob [(0x108, 0x2108, 8)]).cutAt s 0x108 = some 0x108) ∧
    ((withStatus run 0xD).core.sys.sup = true ∧ ((run.setX 5 511).x 5).toNat < 512 ∧ 512 ≤ ((run.setX 5 512).x 5).toNat ∧
      (withStatus run 0xD).core.sys.sact = true ∧ (withStatus run 0xD).core.sys.uact = true ∧ ((run.setX 5 0).x 5).getLsbD 3 = false ∧
      ((run.setX 5 0).x 5).getLsbD 2 = false) ∧
    (let h : Queue := { Queue.empty with entries := [entry (.vsig 1) 0], held := true, run := some (started (.vsig 2) 0x78), stuck := true }
     let s := run.setQ .vec h
     (s.q.get .vec).held = true ∧ s.drainedFor .vec = true ∧ (s.setQ .vec { h with stuck := false }).drainedFor .vec = false) ∧
    (let s := run.setQ .ldq { Queue.empty with run := some (started (.lbwait 2) 0), held := true }
     s.drainedFor .ldq = true ∧ s.runStands .ldq false (started (.lbwait 2) 0) = true) ∧
    ({ run with quay := { run.quay with untold := [(0x4000, note0)] } } : State).quay.untold ≠ [] ∧
    (2 ≤ (3 : BitVec 3).toNat ∧ spec.specNow = true ∧ 3 ≤ (3 : BitVec 3).toNat) := by
  unfold State.canonical; decide

/-- FLSET of a rank that the launch does not hold, SC words before, at and after the start of their position, TABORT and TFRONT. -/
theorem witness_more_cluster_words :
    (let s := (run.setX 9 0x82)
     (s.x 9).toNat < 256 ∧ (∃ r < 8, (s.x 9).getLsbD r = true ∧ s.rankBound r = false)) ∧
    (let s := busy.setX 9 1
     s.fenceReady 2 = false ∧ (s.x 9).toNat < 256 ∧ ∀ r < 8, (s.x 9).getLsbD r = true → s.rankBound r = true) ∧
    (let s := { wheeled with now := 12 }
     s.toSlot = 0 ∧ s.fenceReady 4 = true ∧ s.onWheel = true ∧ s.canonical ∧ s.specNow = false ∧ s.core.wait = .none) ∧
    (wheeled.toSlot = 12 ∧ wheeled.now.toNat < (12 : BitVec 64).toNat ∧
      (let s := { wheeled with core := { wheeled.core with wait := .sc .scfence 12 } }
       s.core.wait = .sc .scfence 12 ∧ s.now.toNat < (12 : BitVec 64).toNat ∧
         ({ s with now := 12 } : State).core.wait = .sc .scfence 12 ∧ (12 : BitVec 64).toNat ≤ ({ s with now := 12 } : State).now.toNat)) ∧
    (let s := waiting { run with core := run.core } .scfence
     s.core.wait = .sc .scfence 0 ∧ s.onWheel = false ∧ (0 : BitVec 64).toNat ≤ s.now.toNat) ∧
    ((run.x 5 = 0 ∧ run.specNow = false) ∧ (spec.specNow = true ∧ (spec.setX 5 9).x 5 ≠ 0 ∧ ∀ r ∈ spec.runTask, r.num ≠ (spec.setX 5 9).x 5) ∧
      (spec.runTask.map fun r => r.num) = some ((spec.setX 5 1).x 5) ∧ (run.runTask.map fun r => r.num) = some ((run.setX 5 1).x 5) ∧
      (run.context run.ctx).timelines.getLsbD 1 = false) ∧
    (let s := spawning 0x40 6 1
     ∀ v ∈ s.unit.tasks, v.timeline = task1.timeline → v.nonspec = true ∨ s.inFrontier v = false) := by
  unfold State.canonical; decide +kernel

/-- A word that writes a predicate at the head of the VEC queue, with its sources FULL; held queues' engine traps at an engine word that finds no room, or
whose registers another queue still uses. -/
theorem witness_more_engine_words :
    (let en := entry (.vcmp 1 0 2 3 .s8) 0
     let s := withVec run en.instr
     queueOf en.instr = some .vec ∧ vecMem en.instr = none ∧ tokenWord en.instr = none ∧ (∀ x ∈ srcs en.instr, (s.emptyFor .vec).v.getLsbD x.idx = false) ∧
       (dests 7 en.instr).p.getLsbD 1 = true) ∧
    (let q : Queue := { Queue.empty with entries := List.replicate 64 (entry (.vsig 1) 0), held := true }
     let s := withText { faulted with q := { faulted.q with vec := q } } [(0, 0x20422186)]
     s.peekWord 0 = some 0x20422186 ∧ Eng.ofCode (fEng 0x20422186) = some .vec ∧ s.hasRoom .vec = false ∧ s.engineAtRest .vec = true ∧
       s.engineDue s.fetch = true) ∧
    (let q : Queue := { Queue.empty with entries := [entry (.viota 1 .s32) 0x3D], held := true }
     let s := { faulted with q := { faulted.q with vec := q }, core := { faulted.core with wait := .regs .mtx 2 0 0 } }
     s.core.wait = .regs .mtx 2 0 0 ∧ s.hazard .mtx ⟨2, 0, 0⟩ = true ∧ s.engineAtRest .vec = true) ∧
    (({ trapOf 4 with kept := 0 } : TrapRec).kept = 0 ∧ ({ run with core := { run.core with depth := 1 } } : State).core.depth < 2) ∧
    (let s := { (withPosted run [.budget 1]) with core := { run.core with depth := 1, kept := [(.budget 1, 1)] } }
     ∀ p ∈ s.posted, s.postedWaits p = true) := by
  decide

/-- The two ends of a drain at its limit, a budget of a speculative task, and a save area without a landing of the quay. -/
theorem witness_more_preemption :
    (let s := withText { withStatus run 0x20 with core := { (withStatus run 0x20).core with drainFrom := some 0 } } [(0, 0x12400000)]
     s.core.drainFrom = some 0 ∧ s.core.sys.preq = true ∧ s.core.region = none ∧ s.atSafept = true ∧ s.allDrained = true) ∧
    (withText { withStatus busy 0x20 with core := { (withStatus busy 0x20).core with drainFrom := some 0 } } [(0, 0x12400000)]).allDrained = false ∧
    (spec.specNow = true ∧ spec.runTask.isSome = true ∧ spec.core.budgetStopped = false ∧ spec.core.sys.budget ≠ 0) ∧
    (let s := { withAbsent run with coll := { run.coll with owed := [(8, 16)] } }
     s.quay.absent = true ∧ s.coll.owed = [(8, 16)]) ∧
    (run.pkg.service = none ∧ run.barred 1 3 = false ∧ ({ run with unit := { run.unit with outOfService := [(1, 3)] } } : State).barred 1 3 = true ∧
      (withPkg run fun p => { p with service := some (.drain 1) }).barred 1 63 = true) ∧
    (rung.hubReads 0x1000 272 = true ∧ rung.sectionsRead (headerOf (rung.mem.getN 0x1000 272)) = true ∧
      ({ rung with poison := [.glob 0x100] } : State).hubReads 0x1000 272 = false ∧
      ({ rung with poison := [.glob 0x200] } : State).sectionsRead (headerOf (rung.mem.getN 0x1000 272)) = false) := by
  decide +kernel

/-- Answers of the entry's generation and of another one, notices still owed after a release, and the clock at a tick and between two. -/
theorem witness_more_quay :
    (let s := withMoor run mooring
     (s.moor 2).gen = 1 ∧ (s.moor 2).gen ≠ 2 ∧ s.now.toNat % 2500 = 0 ∧ ({ s with now := 2499 } : State).now.toNat % 2500 ≠ 0 ∧
       ({ s with core := { s.core with phase := .halted } } : State).core.phase = .halted ∧ s.core.phase ≠ .halted) ∧
    (let n : Notice := { note0 with moor := 2, gen := 1, cidx := 0 }
     let s := { run with quay := { run.quay with untold := [(0x4000, n)] } }
     s.quay.untold = [] ++ (0x4000, n) :: [] ∧ (s.moor 2).valid = false ∧ n.moor.toNat = 2 ∧ n.cidx.toNat = 0 ∧ run.quay.untold = []) ∧
    (withMoor run { mooring with pending := 2 }).moor 2 = { mooring with pending := 2 } ∧ (2 : BitVec 63).getLsbD 0 = false := by
  decide +kernel

/-- A pull under way, answered in its compartment and in another one, and of a revoked device; and a microsecond clock that ticks at 2,500. -/
theorem witness_more_collectives :
    (let s := pulling0 2
     ((s.comm 0 5).bind (·.run)).map (fun r => (r.failing, r.pull.isSome)) = some (none, true) ∧ (1 : BitVec 16) ≠ comm0.entry.cmp ∧
       s.revokedDev comm0.entry.cmp 0x4000 = false ∧ (withPkg s fun p => { p with epochs := [⟨0, 1, 0, [], [0]⟩] }).revokedDev comm0.entry.cmp 0x4000 = true ∧
       (∃ g ∈ (pull0 2 id).segs, g.seg = 0 ∧ g.bytes = none ∧ g.absentWait = false) ∧ ¬(∃ g ∈ (pull0 2 id).segs, g.seg = 1)) ∧
    (let u := dueUnit (notified { note0 with tag := collTag 5 0 0 0 0, size := 1 } (stepping 0x20008000))
     u.map (fun u => decide (noticeBytes { note0 with tag := collTag 5 0 0 0 0, size := 1 } ≠ u.wireLen coll0.fmt)) = some true) ∧
    (2499 / 2500 = (0 : BitVec 64).toNat / 2500 ∧ (2500 : BitVec 64).toNat / 2500 = (0 : BitVec 64).toNat / 2500 + 1) := by
  decide +kernel

/-! ### Engine commands at work -/

/-- `run` with a started command, in queue `e`. -/
def withRun (e : Eng) (r : Running) : State := run.setQ e { Queue.empty with run := some r }
/-- What holds of the plan of an iteration. -/
def planned (e : Eng) (r : Running) (s : State) (f : List RVisit → List Part → List Part → State → Bool) : Bool := match planOf e r s with
  | .go reads src dst _ u => f reads src dst u
  | _ => false
/-- CPMOV.n of one byte from granule 0 to itself, as it starts. -/
def moving : Running := started (.cpmovN 1 2 0 3) 0

theorem witness_visits :
    (moving.stage = .fresh ∧ moving.ahead = [] ∧ tokenWord moving.entry.instr = none ∧ (withRun .ldq moving).sources .ldq false moving.entry.instr = .go ∧
      startBad .ldq moving (withRun .ldq moving) = none ∧ (∀ b ∈ moving.bounds, b ≤ 65536) ∧ 0 ∉ moving.bounds ∧ (withRun .ldq moving).canonical) ∧
    planned .ldq moving (withRun .ldq moving) (fun reads _ dst u => reads != [] && decide (u.q = (withRun .ldq moving).q) && (u.cutPart dst).isNone) = true ∧
    (let r := { moving with bounds := [65536, 65537] }
     r.bounds[1]? = some 65537 ∧ startBad .ldq r (withRun .ldq r) = none ∧ (∀ j < 1, ∀ x ∈ r.bounds[j]?, x ≤ 65536)) ∧
    (let r := { moving with bounds := [0] }
     0 ∈ r.bounds ∧ startBad .ldq r (withRun .ldq r) = none) ∧
    (let r := { moving with d1 := 1#256 <<< 64 }
     (match planOf .ldq r (withRun .ldq r) with | .trap _ => true | _ => false) = true ∧ startBad .ldq r (withRun .ldq r) = none) ∧
    (let r := { started (.cpgathN 1 2 0 3 0) 0 with d2 := 2#256 <<< 48, d3 := 2#256 <<< 50 }
     (match planOf .ldq r (withRun .ldq r) with | .wait => true | _ => false) = true ∧ startBad .ldq r (withRun .ldq r) = none) := by
  unfold State.canonical; decide +kernel

/-- `run` while the matrix copy `moving` reads, or writes, its pieces. -/
def reading (v : RVisit) : State := withRun .ldq { moving with stage := .reading, reads := [v] }
def writing (e : Eng) (l : List WVisit) : State := withRun e { moving with stage := .writing, writes := l }

theorem witness_visit_states :
    (let s := reading ⟨5, .spad 5, .loadC, 1⟩
     s.poisoned (.spad 5) = false ∧ s.gran.get 5 = .empty ∧ (withGran s 5 .full).gran.get 5 = .full ∧ (withGran s 5 .moored).gran.get 5 = .moored ∧
       (withGran s 5 .full).q.ldq = s.q.ldq ∧ Qual.loadW ≠ .loadN) ∧
    (let s := reading ⟨16, .glob 16, .loadN, 1⟩
     s.poisoned (.glob 16) = false ∧ s.specNow = false ∧ s.unit.versions = []) ∧
    (let w : WVisit := ⟨5, .spad 5, .storeW, 1, 7⟩
     let s := writing .ldq [w, w]
     s.gran.get 5 = .empty ∧ (withGran s 5 .full).gran.get 5 ≠ .empty ∧ (withGran s 5 .moored).gran.get 5 = .moored ∧ [w] ≠ []) ∧
    (let s := writing .ldq [⟨5, .spad 5, .storeN, 1, 7⟩]
     s.gran.get 5 ≠ .moored ∧ iterCount moving.bounds ≤ moving.iter + 1 ∧ moving.eccAt = none ∧ Eng.ldq ≠ .prt) ∧
    moving.iter + 1 < iterCount [2] ∧
    (let w : WVisit := ⟨16, .glob 16, .engine, 1, 7⟩
     let s := writing .stq [w, w]
     s.specNow = false ∧ s.unit.reads = [] ∧ s.pkg.refusing = [] ∧ [w] ≠ []) ∧
    (let ps : List (Part × Nat) := [(.piece (.spad 5) 5 0 8, 1), (.piece (.spad 5) 5 8 8, 2)]
     ps[0]? = some (.piece (.spad 5) 5 0 8, 1) ∧ ps[1]? = some (.piece (.spad 5) 5 8 8, 2) ∧ 0 + 8 ≤ 16 ∧ 8 + 8 ≤ 16 ∧ 0 + 8 ≤ 8) := by
  decide +kernel

/-- Commands whose pieces are read: a move, MMA and MRD, each on tile 3. -/
def moved0 : Running := { moving with stage := .reading, reads := [], src := [.lit 7 1], dst := [.piece (.spad 5) 5 0 1] }
def multiplied : Running := { started (.mmaS8 1 2 0 3 true) 8 with stage := .reading }
def readOut : Running := { started (.mrdF32 1 0 3 0) 0x28 with stage := .reading, dst := [.piece (.spad 5) 5 0 4] }

theorem witness_commands_act :
    (∃ op, copyOf moving.entry.instr = some op ∧ op.kind = .move ∧ op.index = none ∧ descFmt moving.d1 < 8 ∧ descFmt moving.d2 < 8 ∧
      descAffine moving.d1 = false ∧ descAffine moving.d2 = false ∧ descSpace moving.d2 ≠ 3) ∧
    ((match copyPlan 0 moving (withRun .ldq moving) with | .go .. => true | _ => false) = true) ∧
    (∃ op, copyOf moved0.entry.instr = some op ∧ op.kind = .move ∧ writeVisits op.dq (List.zip moved0.dst (moved0.src.map (partVal moved0.got))) ≠ [] ∧
      ∀ v ∈ writeVisits op.dq (List.zip moved0.dst (moved0.src.map (partVal moved0.got))), (withRun .ldq moved0).cutOff v.loc = false) ∧
    ((withRun .mtx multiplied).q.mtx.run = some multiplied ∧ multiplied.eccAt = none ∧ mmaOf multiplied.entry.instr = some ⟨0, false, 3, true⟩ ∧
      multiplied.tile 3 = .ok 3 ∧ multiplied.firstNaming 3 = true ∧ iterCount multiplied.bounds ≤ multiplied.iter + 1) ∧
    (mrdOf readOut.entry.instr = some ⟨6, 3, 0⟩ ∧ (6 : Nat) ≠ 8 ∧ readOut.tile 3 = .ok 3 ∧ writeVisits .engine (List.zip readOut.dst [1]) ≠ [] ∧
      (withRun .mtx readOut).cutOff (.spad 5) = false ∧ (0 : Nat) < 1) := by
  refine ⟨⟨_, rfl, ?_⟩, ?_, ⟨_, rfl, ?_⟩, ?_, ?_⟩ <;> decide +kernel

/-- A dense block of 16 bytes at granule 0. -/
def dense : BitVec 256 := 15#256 <<< 64
/-- `run` with a descriptor of that block and an entry at the head of a queue. -/
def queued (e : Eng) (en : Entry) : State := { run with core := { run.core with d := run.core.d.set 1 dense } }.setQ e { Queue.empty with entries := [en] }

/-- A LAND that finds a free entry, and a full table. -/
theorem witness_land :
    let s := queued .prt (entry (.land 1 3) 1)
    s.q.prt = { Queue.empty with entries := entry (.land 1 3) 1 :: [] } ∧ s.q.kvc = Queue.empty ∧ s.specNow = false ∧
      (entry (.land 1 3) 1).x4.extractLsb' 32 32 = 0 ∧ denseBad s.freeNo 0 s.core.d[1] = none ∧ (s.land 0).state = .free ∧ s.quay.inbox = [] ∧
      (let u := { s with quay := { s.quay with land := Vector.replicate 64 posting } }
       ∀ l < 64, (u.land l).state ≠ .free) := by
  decide +kernel

/-- A NOTE for the consumers `l`, at work. -/
def noting (l : List Nat) : Running :=
  { started (.note 1 2 3) 0 with d1 := dense, stage := .reading, src := l.map fun a => .lit a 4, aux := 2 }

theorem witness_note :
    (let r := noting [0x4000, 0x4000]
     ¬(r.src.map fun p => BitVec.ofNat 32 (partVal r.got p)).Nodup ∧ r.eccAt = none ∧ 16 ≤ denseLen r.d1) ∧
    (let r := noting [0x100000]
     (r.src.map fun p => BitVec.ofNat 32 (partVal r.got p)).any (fun a => a.extractLsb' 20 12 != 0) = true) ∧
    (let r := noting [0x4000, 0x8000]
     let s := withRun .prt r
     s.canonical ∧ (r.src.map fun p => BitVec.ofNat 32 (partVal r.got p)).all (fun a => a.extractLsb' 20 12 == 0 && !s.revokedDev (s.cmpOf (r.ctx.extractLsb' 0 4)) a) = true ∧
       (r.src.map fun p => BitVec.ofNat 32 (partVal r.got p)).Nodup ∧ iterCount r.bounds ≤ r.iter + 1 ∧ r.aux.toNat < 256 ∧
       (s.moor r.aux.toNat).valid = false ∧ s.gran.get 0 ≠ .full ∧ (withGran s 0 .full).gran.get 0 = .full) := by
  unfold State.canonical; decide +kernel

/-- A handle of context 0, and `run` with it. -/
def handle0 : KvHandle :=
  { index := 4, gen := 1, tenant := 0, ctx := 0, model := 0, valid := true, bound := 64, len := 1, lo := 0, owed := 0, mapFrame := 0, fl := [0], pages := [], hidden := [] }
def withHandle (s : State) : State :=
  { s with
    kv := { s.kv with handles := [handle0] }
    ctxs := s.ctxs.set 0 { s.ctxs[0] with kvrec := { KvRecord.zero with count := 8 }, models := s.ctxs[0].models.set 0 { KvModel.zero with valid := true } } }
def kvEntry0 (i : Instr) (x4 : Word) : Entry := { entry i 0 with x0 := 0x0004010000000000, x4 := x4 }
/-- `withHandle run` with the tail that holds entry 0, in state `c`. -/
def withTail (c : BitVec 2) : State :=
  let s := withHandle run
  { s with kv := { s.kv with
    handles := [{ handle0 with pages := [(0, 0, 9)] }]
    frames := [{ ctx := 0, num := 9, units := 1, ref := 1, map := false, tail := true, states := c :: List.replicate 63 0 }] } }
def kvRun (i : Instr) : Running := { started i 0 with entry := kvEntry0 i 0 }

theorem witness_kv :
    (let s := queued .kvc (kvEntry0 .kvpol 0x00010100)
     s.q.kvc = { Queue.empty with entries := kvEntry0 .kvpol 0x00010100 :: [] } ∧ s.specNow = false ∧
       (let x : Word := 0x00010100
        x.extractLsb' 19 45 = 0 ∧ (x.extractLsb' 0 8).toNat ≤ (x.extractLsb' 8 8).toNat ∧ x.extractLsb' 16 3 ≠ 0 ∧ (x.extractLsb' 16 3).toNat ≤ 4) ∧
       ((0x00050000 : Word).extractLsb' 16 3).toNat > 4 ∧ (0x00010001 : Word).extractLsb' 8 8 < (0x00010001 : Word).extractLsb' 0 8) ∧
    (let en := kvEntry0 (.kvlen 1) 0
     let s := withHandle (queued .kvc en)
     kvmapBefore s 1 en.no = false ∧ (s.kvDeref s.core.sys.ctx en.x0).toOption = some handle0 ∧ denseBad s.freeNo 16 s.core.d[1] = none ∧
       en.x2.toNat < (s.modelOf handle0).layers) ∧
    (let r := kvRun (.kvappend 1 2)
     ((withTail 1).kvDeref r.ctx r.entry.x0).toOption.isSome = true ∧ (withTail 1).kvState { handle0 with pages := [(0, 0, 9)] } 0 0 = 1 ∧
       (withTail 2).kvState { handle0 with pages := [(0, 0, 9)] } 0 0 = 2) := by
  decide +kernel

/-- A byte tensor of 16 elements a row, and a plane tensor: coordinates inside their extents, at their ends and beyond. -/
theorem witness_elements :
    (let d := dense
     let by_ : AccessBy := copyBy moving ((copyOf moving.entry.instr).getD (copyOut .move .loadN 0))
     (elemPart run by_ d [15, 0, 0, 0]).toOption.isSome = true ∧ (elemPart run by_ d [16, 0, 0, 0]).toOption = none ∧
       (elemPart run by_ d [0, 1, 0, 0]).toOption = none ∧ (elemPart run by_ (d + 0x40000) [0, 0, 0, 0]).toOption = none ∧
       (groupParts run by_ (d + (10#256 <<< 50)) [0, 0, 0, 0]).toOption.isSome = true) ∧
    ((dense.extractLsb' 50 6).toNat < 10 ∧ 10 ≤ ((dense + (10#256 <<< 50)).extractLsb' 50 6).toNat ∧ (dense.extractLsb' 48 2).toNat = 0) := by
  decide +kernel

/-! ### Forms and clauses of their own -/

/-- A handler of an engine trap about to return to vector `i` of a command of two iterations. -/
def returning (st : BitVec 9) (cause : BitVec 64) (i : Nat) : State :=
  let s := (withStatus run st).setSys fun r => { r with causelo := cause, ucauselo := cause, iterlo := BitVec.ofNat _ i, uiterlo := BitVec.ofNat _ i }
  s.setQ .mtx { Queue.empty with run := some { started (.mmaS8 1 2 0 3 true) 8 with bounds := [2] }, stuck := true, held := true }

/-- ERET at an illegal return of a user handler, of COMPART with queues drained and not, and of an engine trap: back to a good and to a bad vector, and with skip. -/
theorem witness_eret_forms :
    (let s := (withStatus run 4).setSys fun r => { r with uepc := 2 }
     s.core.region = none ∧ s.handlersDone = true ∧ s.core.sys.sup = false ∧ s.core.sys.uact = true ∧ s.core.sys.uepc.toNat % 4 ≠ 0) ∧
    ((withStatus run 4).setSys fun r => { r with udleft := 3 }).core.sys.udleft = 3 ∧
    (let s := (withStatus run 9).setSys fun r => { r with causelo := 0x13 }
     s.handlersDone = true ∧ s.core.sys.sup = true ∧ s.core.sys.epc.toNat % 4 = 0 ∧ s.core.sys.dleft ≠ 3 ∧ s.core.sys.causelo.extractLsb' 8 3 = 0 ∧
       s.core.sys.causelo.extractLsb' 0 8 = 0x13 ∧ s.allDrained = true ∧ ((withStatus busy 9).setSys fun r => { r with causelo := 0x13 }).allDrained = false) ∧
    (let s := returning 9 0x204 1
     s.handlersDone = true ∧ s.core.sys.sup = true ∧ s.core.sys.causelo.extractLsb' 8 3 = Eng.mtx.code ∧ s.core.sys.causelo.extractLsb' 0 8 = 4 ∧
       s.core.sys.causelo.getLsbD 20 = false ∧ s.core.sys.causelo.getLsbD 11 = false ∧ s.q.mtx.faults = [] ∧
       (s.core.sys.iterhi ++ s.core.sys.iterlo).extractLsb' 0 16 = 1 ∧ (returning 9 0x204 3).core.sys.iterlo.extractLsb' 0 16 = 3 ∧
       (returning 9 0xA04 1).core.sys.causelo.getLsbD 11 = true ∧ (returning 4 0x204 1).core.sys.uact = true ∧ (returning 4 0x204 1).core.sys.sup = false ∧
       (returning 4 0x204 1).handlersDone = true) := by
  decide +kernel

/-- Two posted traps that may both be taken: the later in the list is the first in the order; and one of its own kind with a higher index. -/
theorem witness_posted_order :
    let s := withPosted run [.budget 1, .compart 7, .compart 5, .compart 6]
    s.posted = [.budget 1, .compart 7] ++ .compart 5 :: [.compart 6] ∧ s.core.phase = .running ∧ s.engineDue s.fetch = false ∧
      (∀ q ∈ s.posted, s.postedWaits q = false ∧ s.postedValid q = true) ∧ s.postedOpen s.fetch = true ∧
      ([0, 5] : List Nat) < [2] ∧ ([0, 5] : List Nat) < [0, 7] ∧ ¬([0, 6] : List Nat) < [0, 5] := by
  decide +kernel

/-- Two ready tasks for one free core; a task of the frontier group whose cores are all taken, with its victim; and a task that its own core's strand does not run. -/
theorem witness_task_choice :
    (let late := { task1 with num := 2, state := .ready, wid := 0x200, spec := true, nonspec := false }
     let s := { creating with unit := { creating.unit with tasks := [late, { task1 with state := .ready }], launches := [launch0] } }
     (s.decide_ 0).map (·.1.num) = some 1 ∧ s.freeCore late = some 0 ∧ s.taskReady late = true) ∧
    (let first := { task1 with num := 2, state := .ready, ts := 4 }
     let victim := { task1 with spec := true, nonspec := false }
     let s := { spec with unit := { spec.unit with
       tasks := [victim, first], frontier := Vector.replicate 16 (4, 0x123), dies := spec.unit.dies.set 0 { Die.reset with binds := Die.reset.binds.set 0 { bound with mask := 1 } } } }
     s.freeCore first = none ∧ (s.blocked 0).map (fun p => (p.1.num, p.2.num)) = some (2, 1)) ∧
    (let s := { spec with
       pkg := { spec.pkg with degraded := true, lanes := spec.pkg.lanes.set 0 40 }
       unit := { spec.unit with frontier := Vector.replicate 16 (5, 0x123), versions := [⟨1, 0, 5, 0x123, 128, 1, 0xAB⟩] } }
     s.unit.reads = [] ∧ s.core.phase = .running ∧ s.core.sys.sact = false ∧ s.cutFrom 0 (.glob 512) = true ∧ (s.pkg.refusing = [] ∧ ∃ r ∈ s.runTask, r.num = 1)) := by
  decide +kernel



/-- A landing that is to fail, behind the granules of an earlier response and after its last; and a notice kept by a collective that has let its mooring go. -/
theorem witness_late_failures :
    (let s := withLand run { awaiting with
       size := 256, notice := some { note0 with size := 256 }, segs := [⟨0, true, true, false, false, 0, false, []⟩, ⟨1, true, false, false, false, 0, false, []⟩] }
     let s := { s with quay := { s.quay with arrived := [response] } }
     s.landing response = true ∧ response.land = 3 ∧ ((s.land 3).seg 1).map (fun x => (x.requested, x.answered)) = some (true, false) ∧ (s.land 3).failing = none) ∧
    (let s := withLand (receiving 0) { awaiting with failing := some (1, false) }
     let s := { s with quay := { s.quay with arrived := [{ response with lgen := 1 }] } }
     s.landing { response with lgen := 1 } = false ∧ (s.land 3).state = .pulling ∧ (s.land 3).failing = some (1, false)) ∧
    (({ comm0 with owing := [collMoor0] } : Comm).owing.filter fun m => m.slot == 4 && !m.accepted) = [collMoor0] := by
  decide +kernel

/-- A row of the KV cache that has no policy yet, iterations without a read, KVC commands that trap and wait, and a piece behind a failed boundary. -/
theorem witness_iterations :
    (let r := { started (.cpinN 1 2 0 3 0) 0 with d2 := 3#256 <<< 48 }
     readsKv r = true ∧ r.policy = none ∧ 0 ∉ r.bounds ∧ startBad .ldq r (withRun .ldq r) = none ∧ (withRun .ldq r).sources .ldq false r.entry.instr = .go ∧
       readsKv moving = false) ∧
    planned .ldq (started (.cpfillN 1 0 3) 0) (withRun .ldq (started (.cpfillN 1 0 3) 0)) (fun reads _ dst u => reads == [] && (u.cutPart dst).isNone) = true ∧
    ((match contentOf .prt (noting [0x4000, 0x4000]) run with | .trap _ => true | _ => false) = true ∧ (contentOf .ldq moved0 run matches .go)) ∧
    (contentOf .kvc { kvRun .kvwait with ctx := 0 } (withTail 2) matches .wait) ∧
    (let s := withPkg run fun p => { p with degraded := true, lanes := p.lanes.set 0 40 }
     s.cutOff (.glob 512) = true ∧ s.cutOff (.spad 5) = false) := by
  decide +kernel

/-- Vector commands: elements inside their vectors, parts that fill a vector and a predicate, a planned row, and a first and a second lane of a confidence test. -/
theorem witness_vector_results :
    (ElemType.bf16.isFloat = true ∧ 127 < 2048 / ElemType.bf16.bits ∧ ElemType.f32.isFloat = true ∧ 63 < 2048 / ElemType.f32.bits ∧ (1 : BitVec 3) ≠ 0) ∧
    ((List.replicate 64 (Part.lit 0 4)).map Part.size).sum = 256 ∧ ((List.replicate 8 (Part.lit 0 4)).map Part.size).sum = 32 ∧
    isPlane (descFmt dense) = false ∧
    [Instr.vldN ⟨2, 1, 0, 0⟩, .pld 1 1 0 0, .vgthN ⟨2, 1, 3, 0⟩].all (fun i =>
      planned .vec { started i 0 with d1 := 255#256 <<< 64, resp := 1 } run (fun reads src dst _ => reads != [] && src != [] && dst == [])) = true ∧
    [Instr.vstN ⟨2, 1, 0, 0⟩, .pst 1 1 0 0, .vsctN ⟨2, 1, 3, 0⟩].all (fun i =>
      planned .vec { started i 0 with d1 := 255#256 <<< 64, resp := 1 } run (fun reads _ dst _ => reads == [] && dst != [])) = true ∧
    floatVal .f32 0x3F800000 = .fin false 0x800000 0x800000 ∧ floatVal .f32 0x7FC00000 = .nan ∧ floatVal .f32 0x7F800000 = .inf false ∧
    (let less (m n : Nat) : Bool := (floatVal .f32 m).cmp (floatVal .f32 n) == some .lt
     less 0 0x3F800000 = true ∧ less 0x3F800000 0 = false ∧ less 0 0 = false) := by
  decide +kernel

/-- Copies between bytes and planes, and matrix words on a tile. -/
theorem witness_plane_copies :
    (let r := { started (.cpplaneN 1 2 0 3 0) 0 with d1 := 34#256 <<< 50, src := [.lit 3 1] }
     (copyOf r.entry.instr).map (·.kind) = some .toPlane ∧ descExt r.d1 0 + 1 ≤ r.src.length) ∧
    (let r := { started (.cpdeplN 1 2 0 3) 0 with d2 := 34#256 <<< 50, src := [.lit 1 4, .lit 0 4, .lit 1 4] }
     (copyOf r.entry.instr).map (·.kind) = some .fromPlane ∧ (descExt r.d1 0 + 1 + 31) / 32 * planes r.d2 ≤ r.src.length) ∧
    (isPB (descFmt (10#256 <<< 50)) = true ∧ isPB (descFmt (34#256 <<< 50)) = false ∧
      32 ≤ (List.replicate 33 (Part.lit 0 4)).length ∧ (List.replicate 33 (Part.lit 0 4)).length = 33) ∧
    ((started (.msta 1 0 3) 0).tile 3 = .ok 3 ∧ (List.replicate 1024 (Part.lit 0 16)).length = 1024 ∧ partVal [] (.lit 0 16) < 2 ^ 128) ∧
    ((Part.piece (.spad 5) 5 0 16).size = 16 ∧ -32768 ≤ (5 : BitVec 12).toInt ∧ (5 : BitVec 12).toInt ≤ 32767 ∧ -32768 ≤ (0 : Word).toInt) := by
  decide +kernel

/-- The tables and records of the PRT commands. -/
theorem witness_port_tables :
    (List.replicate 32 (Part.lit 0 4)).length = 32 ∧ (List.replicate 8 (Part.lit 0 4)).length = 8 ∧
    ((withLand run posting).land 3).state ≠ .free ∧ ((withLand run posting).land 3).tag = 7 ∧ ((withLand run { posting with removing := true }).land 3).removing = true ∧
    (let s := { (withLand run pulling) with quay := { (withLand run pulling).quay with inFlight := [(3, 0)] } }
     (s.land 3).state = .pulling ∧ (s.quay.inFlight.any fun p => p.1 == 3) = true) ∧
    ((withInbox run [⟨note0, false, none⟩]).quay.inbox.filter fun k => k.notice.tag == 7 && k.land.isNone) = [⟨note0, false, none⟩] ∧
    (run.quay.inbox.filter fun k => k.notice.tag == 7 && k.land.isNone) = [] ∧ (run.land 0).state = .free ∧
    ((withMoor run mooring).moor 2).valid = true ∧ ((withMoor run mooring).moor 2).tag = 7 ∧ (∀ j < 2, ((withMoor run mooring).moor j).valid = false) ∧
    ((withMoor run mooring).moor 2).gen = (0x0102 : Word).extractLsb' 8 8 ∧ (run.moor 2).valid = false := by
  decide +kernel

/-- `s` with a pool of eight frames at virtual page 0. -/
def pooled (s : State) : State :=
  s.setContext 0 { s.context 0 with
    kvrec := { KvRecord.zero with count := 8, frames := 8, fsize := 3 }
    ranges := (s.context 0).ranges.set 0 ⟨0, 0x1F, 0, 0xFF, true, false, false⟩ }

/-- `pooled`, its pool of one frame. -/
def onePool (s : State) : State := s.setContext 0 { (pooled s).context 0 with kvrec := { KvRecord.zero with count := 8, frames := 1, fsize := 3 } }

/-- The one free frame of a pool is the one taken. -/
theorem takeFrame_of_one {s : State} {c : BitVec 4} {map tail : Bool} {st : List (BitVec 2)} {n : Nat} (h : s.kvFree c = [n]) :
    s.takeFrame c map tail st =
      let f : KvFrame := { ctx := c, num := n, units := (s.kvRec c).fsize.toNat, ref := 1, map := map, tail := tail, states := st }
      (State.kvHeader { s with kv := { s.kv with frames := s.kv.frames ++ [f] }, freeNo := s.freeNo + 1 } f).map fun s => (s, f) := by
  simp only [State.takeFrame, h, List.length_singleton, Nat.max_self, Nat.mod_one, List.getElem?_cons_zero]



/-- KVNEW and KVFORK are done in a pool with a free frame. -/
theorem witness_kv_create :
    let s := onePool (withHandle run)
    (kvEffect (kvRun (.kvnew 1)) s matches .done ..) ∧ (kvEffect (kvRun (.kvfork 1)) s matches .done ..) := by
  have h := takeFrame_of_one (s := onePool (withHandle run)) (c := 0) (map := true) (tail := false) (st := []) (n := 0) (by decide +kernel)
  have hf : (upTo ((onePool (withHandle run)).kvRec 0).count.toNat).find?
      (fun k => !((onePool (withHandle run)).kvEntry (((onePool (withHandle run)).kvRec 0).first.toNat + k)).valid) = some 0 := by decide +kernel
  have hd : kvHandleOf (onePool (withHandle run)) (kvRun (.kvfork 1)) = .ok handle0 := by rfl
  constructor
  · simp only [kvEffect, kvRun, kvEntry0, entry, started]
    simp only [kvCreate, show (0 : BitVec 12).extractLsb' 0 4 = 0 from rfl, hf, h]
    decide +kernel
  · simp only [kvEffect, hd]
    simp only [kvRun, kvEntry0, entry, started, kvFork, kvCreate, show (0 : BitVec 12).extractLsb' 0 4 = 0 from rfl, hf, h]
    decide +kernel

/-- Other KVC commands that are done, the lowest unused handle, and those that are refused or wait. -/
theorem witness_kv_effects :
    [kvRun .kvfree, kvRun (.kvstat 1), kvRun (.kvowed 1), kvRun .kvwait].all (fun r =>
      kvEffect r (pooled (withHandle run)) matches .done ..) = true ∧
    (kvEffect (kvRun (.kvappend 1 2)) (pooled (withTail 0)) matches .done ..) ∧ [kvRun (.kvfill 1 2), kvRun (.kvexit 1)].all (fun r => kvEffect r (pooled (withTail 2)) matches .done ..) = true ∧
    ((pooled (withHandle run)).kvRec 0).count.toNat = 8 ∧ (pooled (withHandle run)).kvHandle 0 = none ∧ 0 < handle0.fl.length ∧
    ((withHandle run).kvDeref 0 0x0004010000000000).toOption = some handle0 ∧ (withHandle run).kvState handle0 0 0 = 0 ∧
    (let trim (n : Word) : Running := { kvRun (.kvtrim 1) with entry := kvEntry0 (.kvtrim 1) n, src := [.lit 0x0004010000000000 8] }
     (kvEffect (trim 0) (withHandle run) matches .done ..) ∧ (kvEffect (trim 1) (withTail 2) matches .wait) ∧ (kvEffect (trim 1) (withTail 1) matches .trap _)) ∧
    (let r : Running := { kvRun (.kvmapK 1 2) with entry := { kvEntry0 (.kvmapK 1 2) 4 with no := 5 } }
     (kvEffect r (withHandle run) matches .done ..) ∧ descNamedBefore (withHandle run) 1 5 = false ∧
       descNamedBefore (withHandle (queued .vec (entry (.vldW ⟨1, 1, 0, 0⟩) 0))) 1 5 = true ∧ (kvEffect (kvRun (.kvmapK 1 2)) (withHandle run) matches .trap _)) ∧
    (kvRun (.kvbft 1)).entry.x4.getLsbD 4 = false ∧ (0 : BitVec 512).extractLsb' 144 112 = 0 := by
  decide +kernel

end Sys2Proof.Tests
end

section
/-!
PROOFS. The strand (spec/01_strand.md): the constant registers of R20 and the token overflow of R27.
-/

namespace Sys2Proof.Machine

/-! ## What the splitter passes (R53)

A word that the decoder accepts is a row none of whose conditions holds; the conditions are what keeps p0 from being a destination (R20). -/

/-- The conditions' names are all in R53's table, so none is overlooked. -/
theorem firstIll_eq_none_iff (bad : List (Bool × IllSub)) : firstIll bad = none ↔ ∀ p ∈ bad, p.1 = false := by
  have listed (e : IllSub) : e ∈ IllSub.all := by cases e <;> decide
  simp only [firstIll, List.find?_eq_none, List.any_eq_true, Bool.and_eq_true, beq_iff_eq]
  constructor
  · intro h p hp
    exact Bool.eq_false_iff.mpr fun hb => h p.2 (listed p.2) ⟨p, hp, hb, rfl⟩
  · rintro h e - ⟨p, hp, hb, -⟩
    rw [h p hp] at hb
    contradiction

/-- A row that is accepted gives its instruction, and no condition rejects it. -/
theorem finish_eq_ok {r : Row} {i : Instr} (h : r.finish = .ok i) : r.1 = i ∧ ∀ p ∈ r.2, p.1 = false := by
  unfold Row.finish at h
  split at h
  · contradiction
  · rename_i hbad
    exact ⟨Except.ok.inj h, (firstIll_eq_none_iff _).mp hbad⟩

/-! ## Destination predicates (R20, R21) -/

/-- The destinations of the word do not include p0. -/
def SparesP0 (resp : BitVec 3) (i : Instr) : Prop := (dests resp i).p.getLsbD 0 = false

theorem ofP_spares_p0 {c : BitVec 3} (h : c ≠ 0) : (RegSet.ofP c).p.getLsbD 0 = false := by
  have : 0 < c.toNat := Nat.pos_of_ne_zero fun k => h (BitVec.eq_of_toNat_eq k)
  simp [RegSet.ofP, this]

theorem sparesP0_of_no_predicate {resp : BitVec 3} {i : Instr} (h : (dests resp i).p = 0) : SparesP0 resp i := by
  rw [SparesP0, h]
  exact BitVec.getLsbD_zero

/-- The residency predicate is a destination of a load only where sr.resp is nonzero (R184). -/
theorem load_spares_p0 (v : BitVec 5) (resp : BitVec 3) : ((RegSet.ofV v).union (respSet resp)).p.getLsbD 0 = false := by
  unfold respSet
  split
  · simp [RegSet.union, RegSet.ofV, RegSet.none]
  · rename_i h
    simpa [RegSet.union, RegSet.ofV] using ofP_spares_p0 h

section
variable {bad : List (Bool × IllSub)} (ok : ∀ p ∈ bad, p.1 = false)
include ok

/-- The condition DEST of a word with a three-bit predicate field. -/
theorem ofP_spares_p0_of_dest {c : BitVec 3} (h : (c == 0, .dest) ∈ bad) : (RegSet.ofP c).p.getLsbD 0 = false :=
  ofP_spares_p0 (beq_eq_false_iff_ne.mp (ok _ h))

/-- A word with a five-bit field for its predicate: INDEX rejects what lies above p7, DEST what is p0. -/
theorem ofP_spares_p0_of_index_dest {d : BitVec 5} (hindex : (d.extractLsb' 3 2 != 0, .index) ∈ bad) (hdest : (d == 0, .dest) ∈ bad) :
    (RegSet.ofP (d.extractLsb' 0 3)).p.getLsbD 0 = false := by
  have hi : (d.extractLsb' 3 2).toNat = 0 := congrArg BitVec.toNat (bne_eq_false_iff_eq.mp (ok _ hindex))
  have hd : d ≠ 0 := beq_eq_false_iff_ne.mp (ok _ hdest)
  refine ofP_spares_p0 fun h => hd (BitVec.eq_of_toNat_eq ?_)
  have h : (d.extractLsb' 0 3).toNat = 0 := congrArg BitVec.toNat h
  simp only [BitVec.extractLsb'_toNat, Nat.shiftRight_eq_div_pow] at hi h
  show d.toNat = 0
  omega

end

/-! ## The rows of the decoder -/

/-- Most VEC words write no predicate, and a load writes the residency predicate only; a word that names its predicate has the condition DEST. -/
theorem decodeVec_spares_p0 {op : Nat} {w : IWord} {r : Row} (resp : BitVec 3) (h : decodeVec op w = some r) (ok : ∀ p ∈ r.2, p.1 = false) :
    SparesP0 resp r.1 := by
  unfold decodeVec at h
  split at h <;> cases h
  any_goals exact sparesP0_of_no_predicate rfl
  -- VCMP, its immediate form, and VMASKW
  iterate 3 exact ofP_spares_p0_of_dest ok (by simp)
  -- PAND, POR, PNOT, PXOR
  iterate 4 exact ofP_spares_p0_of_index_dest ok (by simp) (by simp)
  -- the loads and gathers
  iterate 6 exact load_spares_p0 _ resp
  -- PLD and the two VCONF
  iterate 3 exact ofP_spares_p0_of_dest ok (by simp)

/-- No word of another queue writes a predicate. -/
theorem decodeEngine_no_predicate {eng op : Nat} {w : IWord} {r : Row} (resp : BitVec 3) (hvec : eng ≠ 1)
    (h : decodeEngine eng op w = some r) : (dests resp r.1).p = 0 := by
  unfold decodeEngine at h
  split at h
  · exact absurd rfl hvec
  · unfold decodeMtx at h
    split at h <;> cases h
    any_goals rfl
    -- MRDV of 32-bit elements writes two vector registers
    all_goals exact BitVec.or_zero
  · unfold decodeLdq at h; split at h <;> cases h <;> rfl
  · unfold decodeStq at h; split at h <;> cases h <;> rfl
  · unfold decodePrt at h; split at h <;> cases h <;> rfl
  · unfold decodeKvc at h; split at h <;> cases h <;> rfl
  · contradiction

/-- No control word has a destination of the engines. -/
theorem decodeCtlInstr_dests {op : Nat} {w : IWord} {i : Instr} (resp : BitVec 3) (h : decodeCtlInstr op w = some i) : dests resp i = .none := by
  unfold decodeCtlInstr at h
  split at h <;> cases h
  any_goals rfl
  all_goals split <;> rfl

/-- No long form writes a predicate. -/
theorem decodeLongInstr_no_predicate {ts : Nat} {w imm : IWord} {i : Instr} (resp : BitVec 3) (h : decodeLongInstr ts w imm = some i) :
    (dests resp i).p = 0 := by
  unfold decodeLongInstr at h
  split at h <;> cases h <;> rfl

theorem decodeRow_spares_p0 {eng op : Nat} {w : IWord} {r : Row} (resp : BitVec 3) (h : decodeRow eng op w = some r)
    (ok : ∀ p ∈ r.2, p.1 = false) : SparesP0 resp r.1 := by
  unfold decodeRow at h
  split at h
  · unfold decodeCtl at h
    split at h
    · rename_i hi _
      cases h
      exact sparesP0_of_no_predicate (congrArg RegSet.p (decodeCtlInstr_dests resp hi))
    · contradiction
  · by_cases hvec : eng = 1
    · subst hvec
      exact decodeVec_spares_p0 resp h ok
    · exact sparesP0_of_no_predicate (decodeEngine_no_predicate resp hvec h)

/-- An X form marks no register EMPTY (R40). -/
theorem decodeX_spares_p0 {w w2 : IWord} {i : Instr} (resp : BitVec 3) (h : decodeX w w2 = .ok i) : SparesP0 resp i := by
  unfold decodeX at h
  split at h
  · contradiction
  · split at h
    · contradiction
    · obtain ⟨rfl, -⟩ := finish_eq_ok h
      exact sparesP0_of_no_predicate rfl

theorem decodeLong_spares_p0 {ts : Nat} {w imm : IWord} {r : Row} (resp : BitVec 3) (h : decodeLong ts w imm = some r) : SparesP0 resp r.1 := by
  unfold decodeLong at h
  split at h
  · rename_i hi _
    cases h
    exact sparesP0_of_no_predicate (decodeLongInstr_no_predicate resp hi)
  · contradiction

/-- What the splitter passes never has p0 as a destination (R20). -/
theorem decode_spares_p0 {w w2 : IWord} {i : Instr} (resp : BitVec 3) (h : decode w w2 = .ok i) : SparesP0 resp i := by
  unfold decode at h
  split at h
  · split at h
    · exact decodeX_spares_p0 resp h
    · split at h
      · rename_i hr
        obtain ⟨rfl, -⟩ := finish_eq_ok h
        exact decodeLong_spares_p0 resp hr
      · contradiction
  · split at h
    · rename_i hr
      obtain ⟨rfl, ok⟩ := finish_eq_ok h
      exact decodeRow_spares_p0 resp hr ok
    · contradiction

/-- A word that the splitter refuses raises ILL (R53). -/
theorem exec_unassignedWord (w w2 : IWord) (sub : BitVec 8) (s : State) :
    exec (.unassignedWord w w2 sub) s = .next ((s.trapOrPark ((Cause.ill sub).toRec (wordOp w w2) (wordForm w)) s.core.pc).tick 1) := rfl

theorem setX_zero (s : State) (v : Word) : s.setX 0 v = s := if_pos rfl

theorem setC_zero (s : State) (b : Bool) : s.setC 0 b = s := if_pos rfl

/-- Settles O1: the writes of x0 and c0 by the definitions of the writes, p0 by the conditions of the decoder's rows. -/
theorem constantRegistersAreNotWritten : Obligations.ConstantRegistersAreNotWritten :=
  ⟨setX_zero, setC_zero, fun _ _ resp _ h => decode_spares_p0 resp h, exec_unassignedWord⟩

/-! ## The token counters keep their counts (R24) -/

@[simp] theorem tick_core_tk (s : State) (n : Nat) : (s.tick n).core.tk = s.core.tk := by
  rw [State.tick_passed]; rfl

@[simp] theorem takeTrap_core_tk (s : State) (t : TrapRec) (resume : Word) : (s.takeTrap t resume).core.tk = s.core.tk := by
  unfold State.takeTrap
  simp only
  split
  · rfl
  · split <;> rfl

@[simp] theorem trapOrPark_core_tk (s : State) (t : TrapRec) (resume : Word) : (s.trapOrPark t resume).core.tk = s.core.tk := by
  unfold State.trapOrPark
  split
  · rfl
  · exact takeTrap_core_tk s t resume

/-- A trap of a control word leaves every token's count. -/
theorem raise_token (s : State) (op : BitVec 7) (c : Cause) (k : BitVec 4) : (s.raise op c).token k = s.token k := by
  simp only [State.token, State.raise, tick_core_tk, trapOrPark_core_tk]

/-- A command's fault leaves every token's count. -/
theorem engineFault_token (s : State) (e : Eng) (hent : Bool) (r : Running) (c : Cause) (k : BitVec 4) :
    (s.engineFault e hent r c).token k = s.token k := rfl

/-! ## A signal that overflows (R27) -/

/-- What the signal of a full counter raises: the counter in [3:0] of the cause-specific field, the signalling engine above it. -/
theorem tokovf_eq (k : BitVec 4) (c : BitVec 3) : Cause.tokovf k.toNat c.toNat = ⟨0x01, 0x0B, (c ++ k).setWidth 64⟩ := by
  have hinfo : BitVec.ofNat 64 (k.toNat + 16 * c.toNat) = (c ++ k).setWidth 64 := by
    apply BitVec.eq_of_toNat_eq
    rw [BitVec.toNat_ofNat, BitVec.toNat_setWidth, BitVec.toNat_append, ← Nat.shiftLeft_add_eq_or_of_lt k.isLt, Nat.shiftLeft_eq]
    omega
  rw [Cause.tokovf, hinfo]

/-- The strand signals as engine 0. -/
theorem tokovf_strand (k : BitVec 4) : Cause.tokovf k.toNat 0 = ⟨0x01, 0x0B, k.setWidth 64⟩ := by
  have hinfo : BitVec.ofNat 64 (k.toNat + 16 * 0) = k.setWidth 64 := BitVec.eq_of_toNat_eq (by simp)
  rw [Cause.tokovf, hinfo]

theorem signalBy_eq_none_of_full {s : State} {k : BitVec 4} (h : s.token k = 65535) (a : Agent) : s.signalBy a k = none := if_pos h

theorem sig_trapsAt_of_full {s : State} {k : BitVec 4} (h : s.token k = 65535) : TrapsAt (.sig k) s 0x43 ⟨0x01, 0x0B, k.setWidth 64⟩ := by
  show execSig k s = _
  rw [execSig, signalBy_eq_none_of_full h, tokovf_strand]
  rfl

theorem advance_signal_of_full {s : State} {k : BitVec 4} (h : s.token k = 65535) {r : Running} (hr : tokenWord r.entry.instr = some (.signal k))
    (e : Eng) (hent : Bool) : s.advance e hent r = some (s.engineFault e hent r ⟨0x01, 0x0B, (e.code ++ k).setWidth 64⟩) := by
  simp only [State.advance, hr, State.tokenRun, signalBy_eq_none_of_full h, tokovf_eq]

/-- Settles O15: a full counter refuses the signal (`signalBy_eq_none_of_full`), and neither trap touches a counter. -/
theorem tokenOverflowRaisesIll : Obligations.TokenOverflowRaisesIll := fun s k h =>
  ⟨sig_trapsAt_of_full h, fun c => (raise_token s 0x43 c k).trans h,
    fun e hent r hr => ⟨advance_signal_of_full h hr e hent, fun c => (engineFault_token s e hent r c k).trans h⟩⟩

end Sys2Proof.Machine
end

section
/-!
PROOFS. Control words (spec/04_control_instructions.md): the integer and immediate words of R80 and R81, the branch targets of R86 and the loop
registers of R99.
-/

namespace Sys2Proof.Machine

/-! ## How a control word completes -/

/-- A word whose meaning is to write `v` to X[D] and retire writes it and changes nothing else. -/
theorem completesX_of_exec {i : Instr} {s : State} {d : BitVec 5} {v v' : Word} (h : exec i s = .next (s.retireX d v)) (hv : v = v') :
    CompletesX i s d v' 1 :=
  hv ▸ ⟨_, h, s.retireX_spec d v⟩

theorem completesAs_of_exec {i : Instr} {s u : State} (h : exec i s = .next u.retire) : CompletesAs i s u := ⟨_, h, u.retire_spec⟩

/-! ## The results of R80 and R81 as arithmetic on numbers -/

theorem shiftLeft_eq_ofNat (v : Word) (k : Nat) : v <<< k = BitVec.ofNat 64 (v.toNat * 2 ^ k) :=
  BitVec.eq_of_toNat_eq (by rw [BitVec.toNat_shiftLeft, BitVec.toNat_ofNat, Nat.shiftLeft_eq])

theorem ushiftRight_eq_ofNat (v : Word) (k : Nat) : v >>> k = BitVec.ofNat 64 (v.toNat / 2 ^ k) := by
  rw [← Nat.shiftRight_eq_div_pow, ← BitVec.toNat_ushiftRight, BitVec.ofNat_toNat, BitVec.setWidth_eq]

theorem sshiftRight_eq_ofInt (v : Word) (k : Nat) : v.sshiftRight k = BitVec.ofInt 64 (v.toInt / 2 ^ k) := by
  rw [BitVec.sshiftRight, Int.shiftRight_eq_div_pow, Nat.cast_pow, Nat.cast_ofNat]

/-- The overflow of R80 is no case of its own: the quotient 2^63 wraps to the dividend. -/
theorem divS_eq (a b : Word) : divS a b =
    if b = 0 then 0xFFFFFFFFFFFFFFFF
    else if a.toInt = -2 ^ 63 ∧ b.toInt = -1 then 0x8000000000000000
    else BitVec.ofInt 64 (a.toInt.tdiv b.toInt) := by
  unfold divS
  split
  · rfl
  · split
    · next h =>
      obtain ⟨ha, hb⟩ := h
      rw [ha, hb]
      rfl
    · rfl

/-- The remainder of the division that overflows is 0. -/
theorem remS_eq (a b : Word) : remS a b =
    if b = 0 then a
    else if a.toInt = -2 ^ 63 ∧ b.toInt = -1 then 0
    else BitVec.ofInt 64 (a.toInt - b.toInt * a.toInt.tdiv b.toInt) := by
  unfold remS
  split
  · rfl
  · split
    · next h =>
      obtain ⟨ha, hb⟩ := h
      rw [ha, hb]
      rfl
    · rw [Int.tmod_def]

theorem leadingZeros_le (n v : Nat) : leadingZeros n v ≤ n := by
  induction n with
  | zero => exact Nat.le_refl 0
  | succ n ih =>
    unfold leadingZeros
    split <;> omega

/-- Above the first 1 of the low `n` bits there is nothing. -/
theorem lt_two_pow_sub_leadingZeros {n v : Nat} (hv : v < 2 ^ n) : v < 2 ^ (n - leadingZeros n v) := by
  induction n with
  | zero => exact hv
  | succ n ih =>
    unfold leadingZeros
    split
    · exact hv
    · next h =>
      have : v < 2 ^ n := Nat.lt_of_not_le fun hle => h (Nat.testBit_of_two_pow_le_and_two_pow_add_one_gt hle hv)
      rw [show n + 1 - (1 + leadingZeros n v) = n - leadingZeros n v by omega]
      exact ih this

/-- Where the leading zeros end there is a 1. -/
theorem two_pow_le_of_leadingZeros_lt {n v : Nat} (h : leadingZeros n v < n) : 2 ^ (n - 1 - leadingZeros n v) ≤ v := by
  induction n with
  | zero => contradiction
  | succ n ih =>
    unfold leadingZeros at h ⊢
    split
    · next hb => exact Nat.ge_two_pow_of_testBit hb
    · next hb =>
      rw [if_neg hb] at h
      rw [show n + 1 - 1 - (1 + leadingZeros n v) = n - 1 - leadingZeros n v by omega]
      exact ih (by omega)

theorem onesIn_eq_length_filter (n v : Nat) : onesIn n v = ((List.range n).filter v.testBit).length := by
  induction n with
  | zero => rfl
  | succ n ih =>
    rw [List.range_succ, List.filter_append, List.length_append, ← ih, onesIn, Nat.add_comm]
    cases h : v.testBit n <;> simp [h]

/-! ## The fields of a word of layout RI17 or RRI (R36) -/

section
variable (eng : BitVec 3) (op : BitVec 7) (d a : BitVec 5) (imm : BitVec 12) (i : BitVec 17)

/-- The layouts differ below D only. -/
theorem encRRI_eq_encRI17 : encRRI eng op d a imm = encRI17 eng op d (a ++ imm) := BitVec.append_assoc

theorem fI12_encRRI : fI12 (encRRI eng op d a imm) = imm := BitVec.extractLsb'_append_eq_right

theorem fD_encRI17 : fD (encRI17 eng op d i) = d :=
  calc (eng ++ op ++ d ++ i).extractLsb' 17 5
    _ = (eng ++ op ++ d).extractLsb' 0 5 := BitVec.extractLsb'_append_eq_of_le (by decide)
    _ = d := BitVec.extractLsb'_append_eq_right

theorem fOp_encRI17 : fOp (encRI17 eng op d i) = op :=
  calc (eng ++ op ++ d ++ i).extractLsb' 22 7
    _ = (eng ++ op ++ d).extractLsb' 5 7 := BitVec.extractLsb'_append_eq_of_le (by decide)
    _ = (eng ++ op).extractLsb' 0 7 := BitVec.extractLsb'_append_eq_of_le (by decide)
    _ = op := BitVec.extractLsb'_append_eq_right

theorem fEng_encRI17 : fEng (encRI17 eng op d i) = eng :=
  calc (eng ++ op ++ d ++ i).extractLsb' 29 3
    _ = (eng ++ op ++ d).extractLsb' 12 3 := BitVec.extractLsb'_append_eq_of_le (by decide)
    _ = (eng ++ op).extractLsb' 7 3 := BitVec.extractLsb'_append_eq_of_le (by decide)
    _ = eng := BitVec.extractLsb'_append_eq_left

theorem fD_encRRI : fD (encRRI eng op d a imm) = d := by rw [encRRI_eq_encRI17, fD_encRI17]

end

/-! ## What the splitter refuses of the control words (R53) -/

theorem firstIll_singleton {c : Bool} (h : c = true) (e : IllSub) : firstIll [(c, e)] = some e := by
  subst h
  cases e <;> rfl

theorem firstIll_cons_of_false {c : Bool} (h : c = false) (e : IllSub) (bad : List (Bool × IllSub)) : firstIll ((c, e) :: bad) = firstIll bad := by
  subst h
  rfl

/-- A field of `n` bits from bit `k` up to the top is nonzero where the value reaches 2^k. -/
theorem extractLsb'_bne_zero_of_le {w k n : Nat} {v : BitVec w} (hw : w ≤ k + n) (h : 2 ^ k ≤ v.toNat) : (v.extractLsb' k n != 0) = true := by
  have hlt : v.toNat / 2 ^ k < 2 ^ n := Nat.div_lt_of_lt_mul (Nat.pow_add 2 k n ▸ Nat.lt_of_lt_of_le v.isLt (Nat.pow_le_pow_right (by decide) hw))
  have hpos : 0 < v.toNat / 2 ^ k := Nat.div_pos h (Nat.two_pow_pos k)
  rw [bne_iff_ne]
  intro h0
  have : (v.extractLsb' k n).toNat = 0 := by rw [h0]; rfl
  rw [BitVec.extractLsb'_toNat, Nat.shiftRight_eq_div_pow, Nat.mod_eq_of_lt hlt] at this
  omega

/-- A control word is decoded by its row of R48's table, and rejected where a condition of the row holds. -/
theorem decode_encRI17_error {op : BitVec 7} {d : BitVec 5} {i : BitVec 17} {instr : Instr} {bad : List (Bool × IllSub)} {e : IllSub}
    (hrow : decodeCtl op.toNat (encRI17 0 op d i) = some (instr, bad)) (hbad : firstIll bad = some e) (w2 : IWord) :
    decode (encRI17 0 op d i) w2 = .error e := by
  have hwide : ¬fEng (encRI17 0 op d i) = 7 := by rw [fEng_encRI17]; decide
  have hctl : decodeRow (fEng (encRI17 0 op d i)).toNat (fOp (encRI17 0 op d i)).toNat (encRI17 0 op d i) = some (instr, bad) := by
    rw [fEng_encRI17, fOp_encRI17]
    exact hrow
  simp only [decode, if_neg hwide, hctl, Row.finish, hbad]

theorem decode_encRRI_error {op : BitVec 7} {d a : BitVec 5} {imm : BitVec 12} {instr : Instr} {bad : List (Bool × IllSub)} {e : IllSub}
    (hrow : decodeCtl op.toNat (encRRI 0 op d a imm) = some (instr, bad)) (hbad : firstIll bad = some e) (w2 : IWord) :
    decode (encRRI 0 op d a imm) w2 = .error e := by
  rw [encRRI_eq_encRI17] at hrow ⊢
  exact decode_encRI17_error hrow hbad w2

/-! ## Integer and immediate words (R80, R81) -/

/-- The one condition on an immediate shift count: bits [11:6] of I12 are 0. -/
theorem shiftCount_rejected {imm : BitVec 12} (h : 64 ≤ imm.toNat) {op : BitVec 7} {d a : BitVec 5} {instr : Instr}
    (hrow : decodeCtl op.toNat (encRRI 0 op d a imm) = some (instr, [((fI12 (encRRI 0 op d a imm)).extractLsb' 6 6 != 0, .imm)])) (w2 : IWord) :
    decode (encRRI 0 op d a imm) w2 = .error .imm := by
  refine decode_encRRI_error hrow (firstIll_singleton ?_ .imm) w2
  rw [fI12_encRRI]
  exact extractLsb'_bne_zero_of_le (by decide) h

/-- CLZ counts the bits above the first 1 (R80). -/
theorem clz_completesX (s : State) (d a : BitVec 5) :
    ∃ k, k ≤ 64 ∧ (s.x a).toNat < 2 ^ (64 - k) ∧ (k < 64 → 2 ^ (63 - k) ≤ (s.x a).toNat) ∧ CompletesX (.clz d a) s d (BitVec.ofNat 64 k) 1 :=
  ⟨leadingZeros 64 (s.x a).toNat, leadingZeros_le 64 _, lt_two_pow_sub_leadingZeros (s.x a).isLt, two_pow_le_of_leadingZeros_lt,
    completesX_of_exec rfl rfl⟩

/-- Settles O2: each word is one write of X[D]; the shifts, the divisions and the counts by their arithmetic above. -/
theorem integerAndImmediateWordsWriteTheirResults : Obligations.IntegerAndImmediateWordsWriteTheirResults := by
  refine ⟨⟨fun s d a b => ?_, fun d a b p hp => ?_⟩, fun s d a imm k => ?_, fun d a imm w2 op hop h => ?_⟩
  · refine ⟨?add, ?sub, ?and, ?or, ?xor, ?sll, ?srl, ?sra, ?mul, ?mulhS, ?mulhN, ?divS, ?divN, ?remS, ?remN, ?minS, ?minN, ?maxS, ?maxN,
      ?clz, ?popc⟩
    case sll => exact completesX_of_exec rfl (shiftLeft_eq_ofNat _ _)
    case srl => exact completesX_of_exec rfl (ushiftRight_eq_ofNat _ _)
    case sra => exact completesX_of_exec rfl (sshiftRight_eq_ofInt _ _)
    case divS => exact completesX_of_exec rfl (divS_eq _ _)
    case remS => exact completesX_of_exec rfl (remS_eq _ _)
    case clz => exact clz_completesX s d a
    case popc => exact completesX_of_exec rfl (congrArg _ (onesIn_eq_length_filter 64 _))
    all_goals exact completesX_of_exec rfl rfl
  · fin_cases hp <;> rfl
  · refine ⟨?addi, ?andi, ?ori, ?xori, ?slli, ?srli, ?srai, rfl, rfl, rfl, rfl, rfl, rfl, rfl⟩
    case slli => exact completesX_of_exec rfl (shiftLeft_eq_ofNat _ _)
    case srli => exact completesX_of_exec rfl (ushiftRight_eq_ofNat _ _)
    case srai => exact completesX_of_exec rfl (sshiftRight_eq_ofInt _ _)
    all_goals exact completesX_of_exec rfl rfl
  · fin_cases hop <;> exact shiftCount_rejected h rfl w2

/-! ## Branch targets (R86) -/

/-- A sign-extended offset in words, as the bytes that it stands for. -/
theorem signExtend_shiftLeft_two {w : Nat} (x : BitVec w) : x.signExtend 64 <<< 2 = BitVec.ofInt 64 (4 * x.toInt) := by
  rw [BitVec.shiftLeft_eq_mul_twoPow, BitVec.ofInt_mul, BitVec.mul_comm]
  rfl

theorem btgt_completesAs (b : BitVec 2) (off : BitVec 20) (s : State) :
    CompletesAs (.btgt b off) s (s.setB b (s.core.pc + BitVec.ofInt 64 (4 * off.toInt))) := by
  rw [← signExtend_shiftLeft_two]
  exact completesAs_of_exec rfl

theorem btgtX_completesAs (b : BitVec 2) (a : BitVec 5) (imm : BitVec 12) (s : State) :
    CompletesAs (.btgtX b a imm) s (s.setB b (s.x a + BitVec.ofInt 64 (4 * imm.toInt))) := by
  rw [← signExtend_shiftLeft_two]
  exact completesAs_of_exec rfl

/-- BTGT.x names b0 to b3. -/
theorem btgtX_index_rejected {d : BitVec 5} (h : 4 ≤ d.toNat) (a : BitVec 5) (imm : BitVec 12) (w2 : IWord) :
    decode (encRRI 0 0x25 d a imm) w2 = .error .index := by
  refine decode_encRRI_error rfl (firstIll_singleton ?_ .index) w2
  rw [fD_encRRI]
  exact extractLsb'_bne_zero_of_le (by decide) h

/-- Settles O4: each word is one write of its branch register. -/
theorem branchTargetsAreComputed : Obligations.BranchTargetsAreComputed :=
  ⟨fun s b off a imm => ⟨btgt_completesAs b off s, btgtX_completesAs b a imm s⟩, fun s b r v => State.setB_b s b r v,
    fun _ a imm w2 h => btgtX_index_rejected h a imm w2⟩

/-! ## Loop registers (R99) -/

/-- The declared maximum of a loop register; 0 is none. -/
def State.loopMax (s : State) (l : BitVec 4) : Nat := (s.core.lmax[l.toNat]'(by omega)).toNat

/-- A loop register is written. -/
def State.setL (s : State) (l : BitVec 4) (v : BitVec 32) : State :=
  { s with core := { s.core with l := s.core.l.set l.toNat v (by omega) } }

theorem setLoop_of_fits {s : State} {l : BitVec 4} {v : Nat} (hv : v < 2 ^ 32) (hm : s.loopMax l = 0 ∨ v ≤ s.loopMax l) (op : BitVec 7) :
    setLoop op l v s = (s.setL l (BitVec.ofNat 32 v)).retire := by
  rw [State.loopMax] at hm
  exact if_neg (by omega)

theorem setLoop_of_above {s : State} {l : BitVec 4} {v : Nat} (h : 2 ^ 32 ≤ v ∨ (s.loopMax l ≠ 0 ∧ s.loopMax l < v)) (op : BitVec 7) :
    setLoop op l v s = s.raise op .loopmax :=
  if_pos h

theorem lset_index_rejected {d : BitVec 5} (h : 16 ≤ d.toNat) (a : BitVec 5) (w2 : IWord) :
    decode (encRRI 0 0x52 d a 0) w2 = .error .index := by
  refine decode_encRRI_error rfl ((firstIll_cons_of_false ?_ .reserved _).trans (firstIll_singleton ?_ .index)) w2
  · rw [fI12_encRRI]
    rfl
  · rw [fD_encRRI]
    exact extractLsb'_bne_zero_of_le (by decide) h

theorem lseti_index_rejected {d : BitVec 5} (h : 16 ≤ d.toNat) (i : BitVec 17) (w2 : IWord) :
    decode (encRI17 0 0x53 d i) w2 = .error .index := by
  refine decode_encRI17_error rfl (firstIll_singleton ?_ .index) w2
  rw [fD_encRI17]
  exact extractLsb'_bne_zero_of_le (by decide) h

/-- Settles O10: both words are `setLoop`, with the register's value or the immediate. -/
theorem loopRegisterWritesAreBounded : Obligations.LoopRegisterWritesAreBounded := by
  refine ⟨fun s l a imm v => ⟨fun hv hm => ⟨?_, ?_⟩, fun h => ⟨?_, ?_⟩⟩,
    fun d a i w2 h => ⟨lset_index_rejected h a w2, lseti_index_rejected h i w2⟩⟩
  · rintro rfl
    exact completesAs_of_exec (congrArg _ (setLoop_of_fits hv hm 0x52))
  · rintro rfl
    exact completesAs_of_exec (congrArg _ (setLoop_of_fits hv hm 0x53))
  · rintro rfl
    exact congrArg _ (setLoop_of_above h 0x52)
  · rintro rfl
    exact congrArg _ (setLoop_of_above h 0x53)

end Sys2Proof.Machine
end
